-- ==== Sys2Proof/Word.lean ====
section
/-! DEFINITION. The word types of the Welvab 4L32: what the manual treats as bits. Counts, sizes and
durations are plain `Nat`; signed offsets and millivolts are plain `Int`. -/

namespace Sys2Proof

/-- One byte of DRAM or of a link cell (R185). -/
abbrev Byte := BitVec 8

/-- A 32-bit value: the 32 channel levels of a sample or record, a symbol value, a mask (R19, R114). -/
abbrev Word := BitVec 32

/-- An absolute time: a 48-bit count of ticks of the Time Base, wrapping at 2^48 (R7). -/
abbrev Time := BitVec 48

end Sys2Proof
end

