-- ==== Sys2Proof/Config.lean ====
section
/-! DEFINITION. What is fixed for the part: the capacities and limits the manual states, and the two values
it leaves open, free values without a body. -/

namespace Sys2Proof.Config

/-- The largest duration of a record and of a symbol, in ticks (R19, R114). -/
def maxDuration : Nat := 16777215

/-- The presence filter time: a sense level held for 400,000 ticks, 1 ms (R4). -/
def presenceTicks : Nat := 400000

/-- Ticks in one millisecond (R8, R182). -/
def ticksPerMs : Nat := 400000

/-- The normal slots of the write queue (R24). -/
def normalSlots : Nat := 510

/-- All slots of the write queue, the two reserved for the trigger included (R24). -/
def queueSlots : Nat := 512

/-- The samples the staging line holds (R20), and the depth of the alignment delay (R63). -/
def stagingDepth : Nat := 16

/-- The symbols a lane FIFO holds (R116). -/
def fifoDepth : Nat := 32

/-- The cells the command queue holds (R163). -/
def commandDepth : Nat := 8

/-- The entries the stage history holds (R83). -/
def historyDepth : Nat := 16

/-- The largest value of a 32-bit saturating count (R53, R110, R163). -/
def max32 : Nat := 4294967295

/-- Bytes in one block of DRAM (R44). -/
def blockBytes : Nat := 65536

/-- Records in one block of a capture span (R48). -/
def recordsPerBlock : Nat := 8192

/-- Symbols in one block of a symbol span (R48). -/
def symbolsPerBlock : Nat := 4096

/-- The largest payload of a cell (R162). -/
def maxPayload : Nat := 60

/-- DESIGN CHOICE (assumption 4). The tag of the n-th Notice cell sent: R162 gives a tag to the cells of
every other upstream kind and says nothing of a Notice's, so it is a free value. -/
opaque noticeTag : Nat → Byte

/-- DESIGN CHOICE (assumption 30). The level of the pixel clock at a tick of its period, for a pixel divisor:
R154 gives the period and not its shape, so it is a free value. -/
opaque pixelClockLevel : Nat → Nat → Bool

end Sys2Proof.Config
end

