-- ==== Sys2Proof/Syntax.lean ====
section
/-! DEFINITION. The steps of the part: one constructor per row of spec/opcode_table.json. A row that
is the dispatch of a host command takes its arguments from the cell at the head of the link's command
queue (R164); the other operands are what the outside world supplies with the event. -/

namespace Sys2Proof

/-- The DRAM sizes the strap selects (R44). -/
inductive DramSize where
  | mib64 | mib128 | mib256
  deriving DecidableEq, Repr

/-- A downstream link cell: the four header bytes and the payload bytes that follow (R162, R186). -/
structure LinkCell where
  kind    : Byte
  tag     : Byte
  length  : Byte
  code    : Byte
  payload : List Byte
  deriving DecidableEq, Repr

/-- The steps of the part, one constructor per row of the opcode table, in the table's order. -/
inductive Instr where
  /-- POWER_ON_RESET, with the size the DRAM-size strap selects (R44, R179). -/
  | powerOnReset (strap : DramSize)
  /-- PIN_RESET, with the size the DRAM-size strap selects (R44, R179). -/
  | pinReset (strap : DramSize)
  /-- LINK_RESET (R174). -/
  | linkReset
  /-- POD_PRESENT_CHANGE of one pod, A to D as 0 to 3 (R4). -/
  | podPresentChange (pod : Fin 4)
  /-- HALF_PERIOD_END of CAL0 or CAL1 (R16). -/
  | halfPeriodEnd (output : Fin 2)
  /-- SAMPLE (R11, R12, R20). -/
  | sample
  /-- COUNTER_EXPIRY of C0 or C1 in the evaluation that is due (R78). -/
  | counterExpiry (counter : Fin 2)
  /-- GAP_DEADLINE of one lane (R93). -/
  | gapDeadline (lane : Fin 4)
  /-- STRETCH_TIMEOUT of one lane (R106). -/
  | stretchTimeout (lane : Fin 4)
  /-- WRITE_QUEUE_DRAIN (R28). -/
  | writeQueueDrain
  /-- SYMBOL_WRITE (R122). -/
  | symbolWrite
  /-- SYMBOL_TRIM (R124). -/
  | symbolTrim
  /-- CLOSE_COMPLETE (R40). -/
  | closeComplete
  /-- REDECODE_RECORD_READ (R127). -/
  | redecodeRecordRead
  /-- REDECODE_DONE (R128). -/
  | redecodeDone
  /-- RENDER_PIXEL_WRITE (R142). -/
  | renderPixelWrite
  /-- RENDER_RECORD_READ (R141). -/
  | renderRecordRead
  /-- RENDER_SYMBOL_READ (R146). -/
  | renderSymbolRead
  /-- DRAWING_COMPLETE (R136). -/
  | drawingComplete
  /-- FRAME_BOUNDARY (R154). -/
  | frameBoundary
  /-- SCAN_OUT_ROW_READ (R155). -/
  | scanOutRowRead
  /-- FRAME_BUFFER_FILL_BLOCK (R47). -/
  | frameBufferFillBlock
  /-- FILL_COMPLETE (R47). -/
  | fillComplete
  /-- READOUT_READ (R172). -/
  | readoutRead
  /-- COMMAND_CELL_ARRIVAL of one downstream cell of any kind (R163). -/
  | commandCellArrival (cell : LinkCell)
  /-- SEND_REPLY (R165). -/
  | sendReply
  /-- REPLY_SENT (R164). -/
  | replySent
  /-- SEND_NOTICE (R176). -/
  | sendNotice
  /-- SEND_STREAM_CELL (R172). -/
  | sendStreamCell
  /-- STREAM_CELL_SENT (R173). -/
  | streamCellSent
  /-- SEND_FILL (R166). -/
  | sendFill
  /-- BAD_COMMAND: dispatch of a cell whose code names no command (R170). -/
  | badCommand
  /-- WRITE: dispatch of a WRITE of a table without a row of its own (R167). -/
  | write
  /-- WRITE_PODS: dispatch of a WRITE of table 1 (R2). -/
  | writePods
  /-- WRITE_GENERATOR: dispatch of a WRITE of table 2 (R15). -/
  | writeGenerator
  /-- WRITE_REGIONS: dispatch of a WRITE of table 3 (R46). -/
  | writeRegions
  /-- WRITE_SEGMENT_PLAN: dispatch of a WRITE of table 4 (R49). -/
  | writeSegmentPlan
  /-- WRITE_CURSORS: dispatch of a WRITE of table 12 (R158). -/
  | writeCursors
  /-- WRITE_PANEL: dispatch of a WRITE of table 15 (R153). -/
  | writePanel
  /-- WRITE_POWER_AND_NOTICE: dispatch of a WRITE of table 16 (R177). -/
  | writePowerAndNotice
  /-- READ: dispatch of a READ (R169). -/
  | read
  /-- ARM: dispatch of an ARM (R32). -/
  | arm
  /-- STOP: dispatch of a STOP (R39). -/
  | stop
  /-- FORCE: dispatch of a FORCE (R36). -/
  | force
  /-- REDECODE: dispatch of a REDECODE (R125). -/
  | redecode
  /-- RENDER: dispatch of a RENDER (R135). -/
  | render
  /-- SWAP: dispatch of a SWAP (R134). -/
  | swap
  /-- READOUT: dispatch of a READOUT (R171). -/
  | readout
  /-- CANCEL: dispatch of a CANCEL (R173). -/
  | cancel
  /-- STATUS_DEVICE: dispatch of a STATUS DEVICE, or of a STATUS that names no report (R178). -/
  | statusDevice
  /-- STATUS_SEGMENT: dispatch of a STATUS SEGMENT (R178). -/
  | statusSegment
  /-- STATUS_LANE: dispatch of a STATUS LANE (R178). -/
  | statusLane
  /-- STATUS_SEQUENCER: dispatch of a STATUS SEQUENCER (R84). -/
  | statusSequencer
  /-- STATUS_RENDER: dispatch of a STATUS RENDER (R151). -/
  | statusRender
  /-- POWER_RUN: dispatch of a POWER Run, or of a POWER that names no state (R181). -/
  | powerRun
  /-- POWER_STANDBY: dispatch of a POWER Standby (R181). -/
  | powerStandby
  /-- POWER_SLEEP: dispatch of a POWER Sleep (R181). -/
  | powerSleep
  /-- RESET: dispatch of a RESET (R174). -/
  | reset
  /-- IDLE_TIMEOUT (R182). -/
  | idleTimeout
  /-- WAKE_ACTIVITY (R183). -/
  | wakeActivity
  /-- WAKE_COMPLETE (R183). -/
  | wakeComplete
  /-- NOTICE_CELL_SENT (R166). -/
  | noticeCellSent
  /-- FILL_CELL_SENT (R166). -/
  | fillCellSent
  /-- PRESENCE_SENSE_CHANGE: a pod's presence sense takes a level (R4). -/
  | presenceSenseChange (pod : Fin 4) (level : Bool)
  /-- COMPARATOR_OUTPUT_CHANGE: a probe input takes a voltage, in half millivolts, and its comparator
  decides anew (R3). -/
  | comparatorOutputChange (channel : Fin 32) (halfMillivolts : Int)
  deriving DecidableEq, Repr

end Sys2Proof
end

