-- ==== Sys2Proof/Decode.lean ====
section
/-! DEFINITION. spec/opcode_table.json gives no bits to any of its rows (each has no "fixed" and no
"fields"), so no word spells a step of the part: a step is offered by name. The encodings the part does
have, of cells, tables, records and symbols, are in Machine/Operands.lean (R185 to R187). -/

namespace Sys2Proof

/-- The step a word of `nbits` bits spells: none, since the table gives no row any bits. -/
def decodeTableWord (_nbits _w : Nat) : Option Instr := none

end Sys2Proof
end

