-- ==== Sys2Proof/Machine/Types.lean ====
section
/-! DEFINITION. The data the blocks of the part hold: table entries, records, symbols, status records,
decoder states, the render job, replies and notices. Plain data; the meanings are in the other files. -/

namespace Sys2Proof.Machine

/-! ### Probes, sampling and the Signal Generator (chapter 1) -/

/-- A polarity or clock edge: Rising, Falling or Either (R9, R66). -/
inductive Polarity where
  | rising | falling | either
  deriving DecidableEq, Repr

/-- A pod table entry: threshold in millivolts and hysteresis in millivolts (R1). -/
structure PodEntry where
  threshold  : Int
  hysteresis : Nat
  deriving DecidableEq, Repr

/-- A pod's presence sense pin, its Present and Changed flags, the tick at which the presence filter last
(re)started, and whether Present became true at this very tick (R4, R5). -/
structure PodState where
  sense       : Bool
  present     : Bool
  changed     : Bool
  filterStart : Time
  inserted    : Bool
  deriving DecidableEq, Repr

/-- The Probe Front End: pod table, pods, the 32 probe inputs in half millivolts (the smallest step the
bounds T ± H/2 can tell apart, R1, R3) and the 32 comparator outputs, channel k in bit k. -/
structure Pfe where
  table   : Vector PodEntry 4
  pods    : Vector PodState 4
  inputs  : Vector Int 32
  outputs : Word
  deriving DecidableEq, Repr

/-- The modes of a Signal Generator output (R15). -/
inductive GenMode where
  | off | square | burst | burstOnTrigger
  deriving DecidableEq, Repr

/-- A generator table entry: mode, half-period in ticks, burst count in periods (R15). -/
structure GenEntry where
  mode  : GenMode
  half  : Nat
  burst : Nat
  deriving DecidableEq, Repr

/-- The run states of a Signal Generator output (R15). -/
inductive GenRun where
  | held | running | bursting | waiting
  deriving DecidableEq, Repr

/-- The state of an output: driven level, run state, ticks left in the half-period, periods left (R15). -/
structure GenOutput where
  level       : Bool
  run         : GenRun
  ticksLeft   : Nat
  periodsLeft : Nat
  deriving DecidableEq, Repr

/-- The Signal Generator: table 2, CAL0 and CAL1, and the loop counter (R14, R15). -/
structure Gen where
  table       : Vector GenEntry 2
  outputs     : Vector GenOutput 2
  loopCounter : BitVec 6
  deriving DecidableEq, Repr

/-- The capture modes (R9). -/
inductive CaptureMode where
  | timing | state
  deriving DecidableEq, Repr

/-- The capture widths (R9). -/
inductive Width where
  | wide | narrow
  deriving DecidableEq, Repr

/-- The acquisition table entry: the sampler fields (R9) and the capture fields (R30). -/
structure AcqEntry where
  mode          : CaptureMode
  divisor       : Nat
  width         : Width
  clockChannel  : Fin 32
  clockEdge     : Polarity
  loop          : Bool
  postTrigger   : Nat
  preFill       : Nat
  retainFloor   : Nat
  sequenceCount : Nat
  deriving DecidableEq, Repr

/-! ### Records and the Capture Engine (chapter 2) -/

/-- A sample: its stamp and the 32 channel levels (1.4). -/
structure Sample where
  stamp  : Time
  levels : Word
  deriving DecidableEq, Repr

/-- A capture record: value, duration in ticks and the four flags (R19). -/
structure Record where
  value        : Word
  duration     : Nat
  triggerPoint : Bool
  continuation : Bool
  gap          : Bool
  loop         : Bool
  deriving DecidableEq, Repr

/-- The open record: value, start time and flags; its duration is not yet fixed (2.2). -/
structure OpenRecord where
  value        : Word
  start        : Time
  triggerPoint : Bool
  continuation : Bool
  loop         : Bool
  deriving DecidableEq, Repr

/-- A loss episode: V, L and the time at which it begins (R25, R27). -/
structure Episode where
  value : Word
  lost  : Nat
  start : Time
  deriving DecidableEq, Repr

/-- The states of the Capture Engine (R31). -/
inductive EngineState where
  | idle | preFill | armed | triggered | closing
  deriving DecidableEq, Repr

/-- The end reasons of a capture (2.9). -/
inductive EndReason where
  | postComplete | memoryLimit | stalled | stopped | reset
  deriving DecidableEq, Repr

/-- A trigger cause: the stage that fired, or Forced (R53). -/
inductive Cause where
  | stage (n : Fin 8)
  | forced
  deriving DecidableEq, Repr

/-- The reasons a sequence ends with (R41). -/
inductive SequenceEnd where
  | complete | noSegment | stopped
  deriving DecidableEq, Repr

/-- The Capture Engine. `handled` is the number of samples handled in the segment, so it is also the
index of the next sample to handle; `endIndex` is m + P once the trigger cut at sample m is made (R38);
`heldForce` says that a FORCE waits for the first sample (R36); `toPush` are the segment's last records
that wait in Closing for room in the queue (R40); `stopTaken` says that STOP ended this capture (R39). -/
structure Ce where
  table      : AcqEntry
  engine     : EngineState
  segment    : Option (Fin 32)
  sequence   : Nat
  done       : Nat
  preFill    : Nat
  post       : Nat
  startTick  : Time
  nextTick   : Time
  clock      : Option Bool
  taken      : Nat
  handled    : Nat
  staging    : List Sample
  previous   : Option Word
  openRecord : Option OpenRecord
  queue      : List Record
  lastValue  : Word
  episode    : Option Episode
  heldForce  : Bool
  endIndex   : Option Nat
  reason     : Option EndReason
  endTime    : Option Time
  toPush     : List Record
  stopTaken  : Bool
  deriving DecidableEq, Repr

/-! ### Segments and the memory plan (chapter 3) -/

/-- The region table entry (R45). -/
structure Regions where
  captureEnd : Nat
  symbolEnd  : Nat
  deriving DecidableEq, Repr

/-- A segment plan entry (R48). -/
structure PlanEntry where
  planned      : Bool
  captureFirst : Nat
  captureCount : Nat
  symbolFirst  : Nat
  symbolCount  : Nat
  deriving DecidableEq, Repr

/-- The states of a segment status record (R53). -/
inductive SegmentState where
  | empty | filling | closed
  deriving DecidableEq, Repr

/-- The symbol statuses of a segment (R53). -/
inductive SymbolStatus where
  | complete | truncated | redecoded | redecodedTruncated | incomplete
  deriving DecidableEq, Repr

/-- A segment status record (R53). -/
structure SegmentStatus where
  state           : SegmentState
  oldest          : Option Nat
  newest          : Option Nat
  recordCount     : Nat
  startTime       : Option Time
  endTime         : Option Time
  triggerTime     : Option Time
  triggerPosition : Option Nat
  triggerCause    : Option Cause
  endReason       : Option EndReason
  gapCount        : Nat
  podLost         : Bool
  loop            : Bool
  symbolFirst     : Option Nat
  symbolCount     : Nat
  symbolLost      : Nat
  symbolStatus    : Option SymbolStatus
  holdCount       : Nat
  deriving DecidableEq, Repr

/-- Which WRITE began a frame-buffer fill: of the region table (R47) or of the panel table (R153). -/
inductive FillKind where
  | region | panel
  deriving DecidableEq, Repr

/-- A frame-buffer fill in progress: the next block to fill and the blocks left (R47, R153). -/
structure Fill where
  kind : FillKind
  next : Nat
  left : Nat
  deriving DecidableEq, Repr

/-- The Memory Port: DRAM size, region table and the fill in progress (R44, R45, R47). -/
structure Mp where
  size    : DramSize
  regions : Regions
  fill    : Option Fill
  deriving DecidableEq, Repr

/-! ### Symbols (chapter 6) -/

/-- The symbol kinds, in the order of R114. -/
inductive SymbolKind where
  | start | restart | stop | address | data | dataB | brk | field
  deriving DecidableEq, Repr

/-- A symbol (R114). `tags` holds the set of R185: Parity bit 0, Framing 1, Short 2, Lost 3, Timeout 4,
Nack 5, Wide 6, Read 7. -/
structure Symbol where
  lane     : Fin 4
  kind     : SymbolKind
  value    : Word
  start    : Time
  duration : Nat
  tags     : Byte
  position : Nat
  deriving DecidableEq, Repr

/-! ### The Trigger Sequencer (chapter 4) -/

/-- The sense of a Field term (R66). -/
inductive Sense where
  | inside | outside
  deriving DecidableEq, Repr

/-- A term's kind with its own parameters (R66). Kind sets and tag sets are held as bits (R185). -/
inductive TermKind where
  | never
  | pattern (mask value : Word)
  | edge (channel : Fin 32) (polarity : Polarity)
  | symbol (lane : Fin 4) (kinds required forbidden : Byte) (mask value : Word)
  | field (number : Fin 32) (sense : Sense) (low high : Word)
  | counterExpired (counter : Fin 2)
  deriving DecidableEq, Repr

/-- A term table entry (R66). -/
structure Term where
  negate : Bool
  kind   : TermKind
  deriving DecidableEq, Repr

/-- A branch's target (R71). -/
inductive Target where
  | stage (n : Fin 8)
  | fire
  | stay
  deriving DecidableEq, Repr

/-- A branch's counter action (R71, R76). -/
inductive CounterAction where
  | none | start | stop
  deriving DecidableEq, Repr

/-- A branch of a stage (R71); `any` is the combine rule OR. -/
structure Branch where
  terms       : List (Fin 16)
  any         : Bool
  count       : Nat
  consecutive : Bool
  target      : Target
  action0     : CounterAction
  action1     : CounterAction
  deriving DecidableEq, Repr

/-- A stage table entry (R71). -/
structure Stage where
  primary   : Branch
  secondary : Branch
  deriving DecidableEq, Repr

/-- A counter's source (R75). -/
inductive CounterSource where
  | samples
  | ticks (p : Fin 16)
  | termTrue (term : Fin 16)
  | edge (channel : Fin 32) (polarity : Polarity)
  deriving DecidableEq, Repr

/-- A counter table entry (R75). -/
structure CounterEntry where
  preload    : Nat
  source     : CounterSource
  autoReload : Bool
  deriving DecidableEq, Repr

/-- A counter's running state (R75). `expiredEarly` is the model's own: it says that a COUNTER_EXPIRY step
has already taken step 2 of the coming evaluation for this counter (R78, R79). -/
structure CounterState where
  running      : Bool
  value        : Nat
  expiredEarly : Bool
  deriving DecidableEq, Repr

/-- The run states of the TS (R80). -/
inductive RunState where
  | off | running | fired | halted
  deriving DecidableEq, Repr

/-- A stage history entry (R83). -/
structure HistoryEntry where
  stage     : Fin 8
  secondary : Bool
  target    : Target
  time      : Time
  deriving DecidableEq, Repr

/-- The Trigger Sequencer: its three tables and its running state. `lastExpiry` holds which counters
expired in the previous evaluated sample (R70); `waiting` the symbols received and not yet presented
(R65); `lastStamp` the stamp of the latest evaluated sample, and `sinceFirst` the ticks from the first one
to it (R65). -/
structure Ts where
  terms        : Vector Term 16
  stages       : Vector Stage 8
  counterTable : Vector CounterEntry 2
  run          : RunState
  stage        : Option (Fin 8)
  primary      : Nat
  secondary    : Nat
  counters     : Vector CounterState 2
  lastExpiry   : Vector Bool 2
  history      : List HistoryEntry
  triggerTime  : Option Time
  triggerCause : Option Cause
  waiting      : List Symbol
  lastStamp    : Option Time
  sinceFirst   : Nat
  deriving DecidableEq, Repr

/-! ### The Decode Lanes (chapter 5) -/

/-- The parity settings of an Async lane (R87). -/
inductive Parity where
  | none | even | odd | mark | space
  deriving DecidableEq, Repr

/-- The parameters of an Async lane (R87). -/
structure AsyncParams where
  data     : Fin 32
  idleHigh : Bool
  dataBits : Nat
  parity   : Parity
  stopBits : Nat
  msbFirst : Bool
  bq       : Nat
  deriving DecidableEq, Repr

/-- The parameters of a Clocked lane (R87). -/
structure ClockedParams where
  clock       : Fin 32
  dataA       : Fin 32
  dataB       : Option (Fin 32)
  select      : Option (Fin 32)
  fallingEdge : Bool
  selectHigh  : Bool
  wordSize    : Nat
  msbFirst    : Bool
  deriving DecidableEq, Repr

/-- The parameters of a TwoWire lane (R87). -/
structure TwoWireParams where
  clock   : Fin 32
  data    : Fin 32
  stretch : Nat
  deriving DecidableEq, Repr

/-- The parameters of a Strobed lane (R87). -/
structure StrobedParams where
  base          : Fin 32
  width         : Nat
  dataStrobe    : Fin 32
  addressStrobe : Option (Fin 32)
  direction     : Option (Fin 32)
  wait          : Option (Fin 32)
  limit         : Nat
  deriving DecidableEq, Repr

/-- A lane's kind with its parameters (R87). -/
inductive LaneKind where
  | async (p : AsyncParams)
  | clocked (p : ClockedParams)
  | twoWire (p : TwoWireParams)
  | strobed (p : StrobedParams)
  deriving DecidableEq, Repr

/-- A lane descriptor (R86). -/
structure LaneEntry where
  enable   : Bool
  kind     : LaneKind
  deglitch : Nat
  gap      : Nat
  deriving DecidableEq, Repr

/-- The states of a lane (R90). -/
inductive LaneMode where
  | idle | running | replaying
  deriving DecidableEq, Repr

/-- A lane's bus frame (R92, R93): whether it is open, the time E of its latest event, the ticks between
its two latest events, and whether a Strobed deadline passed during a cycle (R109). -/
structure Frame where
  isOpen   : Bool
  latest   : Option Time
  interval : Option Nat
  passed   : Bool
  deriving DecidableEq, Repr

/-- The states of an Async decoder (R94): Receiving holds t0 and the levels of the cells read so far,
in order. -/
inductive AsyncPhase where
  | hunting
  | receiving (t0 : Time) (cells : List Bool)
  | waitIdle
  deriving DecidableEq, Repr

/-- A Clocked decoder's word in progress: its bits taken, the A and B values, its first and its latest
bit's stamps (R98). -/
structure ClockedWord where
  bits  : Nat
  a     : Word
  b     : Word
  first : Time
  last  : Time
  deriving DecidableEq, Repr

/-- A kept first byte of a ten-bit address (R104). -/
structure KeptAddress where
  start : Time
  upper : Nat
  read  : Bool
  nack  : Bool
  stop  : Time
  deriving DecidableEq, Repr

/-- What a TwoWire frame expects next (R102 to R104). -/
inductive TwoWireExpect where
  | address
  | second (kept : KeptAddress)
  | data
  deriving DecidableEq, Repr

/-- A TwoWire decoder (R102 to R106): expectation, direction, the byte in progress, the consecutive low
samples of the clock, whether this low interval has been marked, and a timeout not yet placed. -/
structure TwoWireState where
  expect  : TwoWireExpect
  read    : Bool
  bits    : Nat
  value   : Nat
  first   : Time
  last    : Time
  low     : Nat
  marked  : Bool
  timeout : Bool
  deriving DecidableEq, Repr

/-- A Strobed cycle: the fall's stamp, the samples since the fall, and whether wait has read 0 in time
(R107, R108). -/
structure StrobeCycle where
  start   : Time
  samples : Nat
  seen    : Bool
  deriving DecidableEq, Repr

/-- A Strobed decoder: the recorded cycle of each strobe (R107). -/
structure StrobedState where
  data    : Option StrobeCycle
  address : Option StrobeCycle
  deriving DecidableEq, Repr

/-- The counters of a lane (R110). -/
structure LaneCounters where
  emitted     : Nat
  parity      : Nat
  framing     : Nat
  short       : Nat
  timeout     : Nat
  nack        : Nat
  wide        : Nat
  read        : Nat
  lost        : Nat
  glitches    : Nat
  falseStarts : Nat
  deriving DecidableEq, Repr

/-- A source held in a lane's FX span buffer (R119). -/
structure FxSource where
  position : Nat
  value    : Word
  start    : Time
  stop     : Time
  tags     : Byte
  deriving DecidableEq, Repr

/-- A decoder: the bus frame and the decoder state of each kind (only that of the lane's kind is used). -/
structure Decoder where
  frame   : Frame
  async   : AsyncPhase
  clocked : ClockedWord
  twoWire : TwoWireState
  strobed : StrobedState
  deriving DecidableEq, Repr

/-- A lane: its state, deglitch filters, decoder, word count, counters, FIFO, pending-Lost flag and FX
span buffer (R90 to R120). `window` holds the samples awaiting release; `raw` and `filtered` are the raw
and filtered levels of the sample processed last; `dataPosition` is the frame position of the latest Data. -/
structure Lane where
  mode         : LaneMode
  window       : List Sample
  raw          : Option Word
  filtered     : Option Word
  decoder      : Decoder
  wordCount    : Nat
  dataPosition : Nat
  counters     : LaneCounters
  fifo         : List Symbol
  pendingLost  : Bool
  fx           : List FxSource
  deriving DecidableEq, Repr

/-- A field map entry (R118). -/
structure FieldEntry where
  enable   : Bool
  lane     : Fin 4
  first    : Nat
  span     : Nat
  startBit : Nat
  width    : Nat
  invert   : Bool
  deriving DecidableEq, Repr

/-- The Symbol Merger's own state: the stamps of the latest samples taken (or replay samples given),
newest first, 17 at most; the seventeenth is the merge horizon (R121). -/
structure Sm where
  stamps : List Time
  deriving DecidableEq, Repr

/-- A redecode in progress (R126 to R128): its segment, the divisor, the next replay sample's stamp, the
ring position and count of the records still to read, the start of the next record, and whether the span
has refused a symbol. -/
structure Redecode where
  segment : Fin 32
  divisor : Nat
  stamp   : Time
  next    : Nat
  left    : Nat
  start   : Time
  refused : Bool
  deriving DecidableEq, Repr

/-! ### Rendering (chapter 7) -/

/-- The time from which a view's origin offset counts (R131). -/
inductive Reference where
  | trigger | start
  deriving DecidableEq, Repr

/-- Entry 0 of a view set (R131). -/
structure View where
  segment   : Fin 32
  reference : Reference
  origin    : Int
  zoom      : Nat
  left      : Nat
  top       : Nat
  width     : Nat
  height    : Nat
  rowCount  : Nat
  deriving DecidableEq, Repr

/-- The kinds of a view-set row (R132). -/
inductive RowKind where
  | spacer
  | channel (k : Fin 32)
  | group (mask : Word)
  | lane (l : Fin 4)
  deriving DecidableEq, Repr

/-- A row of a view set (R132). -/
structure Row where
  kind     : RowKind
  height   : Nat
  line     : Byte
  activity : Byte
  text     : Byte
  deriving DecidableEq, Repr

/-- A view set: entry 0 and rows 1 to 40 (7.1). -/
structure ViewSet where
  view : View
  rows : Vector Row 40
  deriving DecidableEq, Repr

/-- View set A (table 10) or B (table 11). -/
inductive SetName where
  | a | b
  deriving DecidableEq, Repr

/-- The states of the render job (7.2). -/
inductive JobState where
  | idle | drawing | waitFlip
  deriving DecidableEq, Repr

/-- The outcomes of a render, in the order of R186. -/
inductive RenderOutcome where
  | done | noData | overrun | aborted | annotationsOmitted
  deriving DecidableEq, Repr

/-- A cursor as the render snapshots it: enabled flag and offset (R136). -/
structure CursorAt where
  enabled : Bool
  offset  : Int
  deriving DecidableEq, Repr

/-- The snapshot of a render (R136). -/
structure Snapshot where
  view        : View
  rows        : List Row
  panelWidth  : Nat
  panelHeight : Nat
  cursor1     : CursorAt
  cursor2     : CursorAt
  noData      : Bool
  filling     : Bool
  oldest      : Nat
  newest      : Nat
  recordCount : Nat
  startTime   : Option Time
  endTime     : Option Time
  triggerTime : Option Time
  symbolFirst : Nat
  symbolCount : Nat
  reference   : Option Time
  buffer      : Bool
  redecoding  : Bool
  deriving DecidableEq, Repr

/-- A row placed in the stack: the row and its first pixel line (R142). -/
structure PlacedRow where
  row : Row
  top : Nat
  deriving DecidableEq, Repr

/-- A run of pixels of one back-buffer row, waiting for its grant (R59). -/
structure PixelRun where
  x      : Nat
  y      : Nat
  pixels : List Byte
  deriving DecidableEq, Repr

/-- A record read by a render, with its start time (R141). -/
structure TimedRecord where
  start  : Time
  record : Record
  deriving DecidableEq, Repr

/-- Where a render's reading stands (R141, R146): the ring or span position to read next and the reads
left at most; the locate walk knows the end of the record to read, the forward pass its start. -/
inductive DrawPhase where
  | locate (position left : Nat) (stop : Time)
  | forward (position left : Nat) (start : Time)
  | symbols (position left : Nat)
  | finished
  deriving DecidableEq, Repr

/-- The bounds of a render (R149). -/
structure Bounds where
  firstColumn : Option Nat
  lastColumn  : Option Nat
  firstStart  : Option Time
  lastEnd     : Option Time
  recordsRead : Nat
  symbolsDrawn : Nat
  deriving DecidableEq, Repr

/-- The cursor readings of a render (R150): the two values, and the time difference with the 32 edge
counts. -/
structure Readings where
  value1   : Option Word
  value2   : Option Word
  interval : Option (Nat × List Nat)
  deriving DecidableEq, Repr

/-- A render that is Drawing or in WaitFlip: snapshot, placed rows, pixel runs not yet written, where the
reading stands, the records used, the next data column, the columns drawn, the counts, how many ring and
span positions the capture has written since the start (R143, R146), whether a redecode has touched the
span (R148), and what the render leaves at its flip. -/
structure Draw where
  snapshot    : Snapshot
  placed      : List PlacedRow
  writes      : List PixelRun
  phase       : DrawPhase
  used        : List TimedRecord
  nextColumn  : Nat
  firstColumn : Option Nat
  lastColumn  : Option Nat
  reads       : Nat
  drawn       : Nat
  ringWrites  : Nat
  spanWrites  : Nat
  omitted     : Bool
  outcome     : RenderOutcome
  bounds      : Option Bounds
  readings    : Option Readings
  deriving DecidableEq, Repr

/-- The Render Engine (chapter 7). `draw` is present while the job is Drawing or in WaitFlip. -/
structure Re where
  setA        : ViewSet
  setB        : ViewSet
  active      : SetName
  job         : JobState
  pending     : Bool
  draw        : Option Draw
  segment     : Option (Fin 32)
  outcome     : Option RenderOutcome
  rowsClipped : Option Nat
  bounds      : Option Bounds
  readings    : Option Readings
  stale       : Bool
  deriving DecidableEq, Repr

/-! ### Panel scan-out (chapter 8) -/

/-- The panel table entry (R152). -/
structure Panel where
  enabled        : Bool
  width          : Nat
  height         : Nat
  hFront         : Nat
  hSync          : Nat
  hBack          : Nat
  vFront         : Nat
  vSync          : Nat
  vBack          : Nat
  hActiveHigh    : Bool
  vActiveHigh    : Bool
  divisor        : Nat
  deriving DecidableEq, Repr

/-- Entry 0 or 1 of the cursor table (R158). -/
structure Cursor where
  enabled : Bool
  offset  : Int
  colour  : Byte
  deriving DecidableEq, Repr

/-- The cursor table (R158). -/
structure CursorTable where
  cursor1 : Cursor
  cursor2 : Cursor
  marker  : Byte
  deriving DecidableEq, Repr

/-- The front-frame view handed over at a flip (R137, R159). -/
structure FrontView where
  left        : Nat
  top         : Nat
  width       : Nat
  height      : Nat
  reference   : Option Time
  origin      : Int
  zoom        : Nat
  segment     : Fin 32
  triggerTime : Option Time
  deriving DecidableEq, Repr

/-- A row of the front buffer read for the panel: its active line and its pixels (R155). -/
structure ScanRow where
  line   : Nat
  pixels : List Byte
  deriving DecidableEq, Repr

/-- The Scan-out Unit: the tables as stored, and what it took up at the latest frame boundary (R154). A
glyph is 60 bits, line L in bits 6L to 6L+5, pixel 0 in bit 6L. `scanBase` is the first block of the frame
buffers it scans (R47); `resizing` says that a WRITE of a new active size waits for the boundary (R153);
`shown` and `read` are the two latest rows read (R155). -/
structure Su where
  panel          : Panel
  palette        : Vector (BitVec 16) 256
  glyphs         : Vector (BitVec 60) 64
  cursors        : CursorTable
  applied        : Panel
  appliedPalette : Vector (BitVec 16) 256
  appliedCursors : CursorTable
  front          : Bool
  frontView      : Option FrontView
  frameView      : Option FrontView
  frameStart     : Time
  scanBase       : Nat
  resizing       : Bool
  shown          : Option ScanRow
  read           : Option ScanRow
  deriving DecidableEq, Repr

/-! ### The link (chapters 9 to 11) -/

/-- The refusal codes, in the order of R165. -/
inductive RefusalCode where
  | badCommand | badTable | badIndex | badLength | badValue | busy | outOfRegion | overlap | held
  | notPlanned | retained | notClosed | rateTooHigh | channelUnavailable | laneNeedsTiming | asleep
  deriving DecidableEq, Repr

/-- The reports STATUS can name (R178). -/
inductive StatusReport where
  | device
  | segment (n : Fin 32)
  | lane (n : Fin 4)
  | sequencer (part : Fin 3)
  | render (part : Fin 3)
  deriving DecidableEq, Repr

/-- What a reply carries: Done with its data, Done with a report taken when the reply begins to be sent
(R178), Done of a RESET (R174), Accepted, or Refused with its code and index (R165). -/
inductive ReplyBody where
  | done (data : List Byte)
  | status (report : StatusReport)
  | reset
  | accepted
  | refused (code : RefusalCode) (index : Byte)
  deriving DecidableEq, Repr

/-- A reply in the reply slot (R164). -/
structure Reply where
  tag  : Byte
  body : ReplyBody
  deriving DecidableEq, Repr

/-- A command still being carried out after its dispatch: a WRITE that waits for a frame-buffer fill
(R47, R153), or a POWER that waits for its wake (R183). -/
inductive InProgress where
  | fill (tag : Byte)
  | wake (tag : Byte)
  deriving DecidableEq, Repr

/-- The item kinds of a readout (R171). -/
inductive ItemKind where
  | records | symbols
  deriving DecidableEq, Repr

/-- A stream cell that is ready: its first ordinal, its item count and the items' bytes (R172). -/
structure StreamCell where
  ordinal : Nat
  items   : Nat
  data    : List Byte
  deriving DecidableEq, Repr

/-- A readout stream (R171 to R173): `next` is the ordinal of the next item to read, `left` the items of
the run still to read, `length` the run's length, `sent` the items sent. -/
structure Readout where
  tag       : Byte
  segment   : Fin 32
  kind      : ItemKind
  next      : Nat
  left      : Nat
  length    : Nat
  sent      : Nat
  ready     : Option StreamCell
  cancelled : Bool
  deriving DecidableEq, Repr

/-- The kinds of an upstream cell (R162). -/
inductive UpKind where
  | reply | stream | notice | fill
  deriving DecidableEq, Repr

/-- The upstream cell being sent; `items` is the item count of a stream cell (R166, R186). -/
structure UpCell where
  kind    : UpKind
  tag     : Byte
  code    : Byte
  payload : List Byte
  items   : Nat
  deriving DecidableEq, Repr

/-- The ten kinds of notice, in priority order (R175). -/
inductive NoticeKind where
  | commandDropped | triggered | captureClosed | sequenceEnded | laneLost | podChange | redecodeDone
  | renderDone | readoutDone | wake
  deriving DecidableEq, Repr

/-- The cause of a wake (R175). -/
inductive WakeCause where
  | activity (channel : Fin 32)
  | link
  deriving DecidableEq, Repr

/-- The snapshot of a notice (R175). -/
inductive NoticeSnapshot where
  | commandDropped (tag : Byte) (count : Nat)
  | triggered (segment : Fin 32) (time : Time) (cause : Cause)
  | captureClosed (segment : Fin 32) (reason : EndReason) (records : Nat)
  | sequenceEnded (done : Nat) (reason : SequenceEnd)
  | laneLost (lane : Fin 4)
  | podChange (pod : Fin 4) (present : Bool)
  | redecodeDone (segment : Fin 32) (status : SymbolStatus) (count lost : Nat)
  | renderDone (segment : Fin 32) (outcome : RenderOutcome)
  | readoutDone (segment : Fin 32) (kind : ItemKind) (items : Nat) (complete : Bool)
  | wake (cause : WakeCause)
  deriving DecidableEq, Repr

/-- A notice slot: pending flag, occurrence count and snapshot (R175). -/
structure NoticeSlot where
  pending  : Bool
  count    : Nat
  snapshot : Option NoticeSnapshot
  deriving DecidableEq, Repr

/-- The Link Port: command queue, reply slot, the command still carried out, the upstream cell being
sent, the dropped-command count, the readout stream, the notice slots in priority order, and whether the
reply of a RESET has just left, so that the link reset is due (R174). -/
structure Lp where
  queue      : List LinkCell
  slot       : Option Reply
  inProgress : Option InProgress
  sending    : Option UpCell
  dropped    : Nat
  readout    : Option Readout
  notices    : Vector NoticeSlot 10
  resetDue   : Bool
  deriving DecidableEq, Repr

/-! ### Power (chapter 10) -/

/-- The kinds of reset (R179). -/
inductive ResetCause where
  | power | pin | link
  deriving DecidableEq, Repr

/-- The power states (10.3). -/
inductive PowerState where
  | run | standby | sleep
  deriving DecidableEq, Repr

/-- The power and notice table entry: the notice enables, the kind of priority k in bit k − 1, the idle
exponent and the wake mask (R177). -/
structure PowerEntry where
  enables  : BitVec 10
  exponent : Nat
  wakeMask : Word
  deriving DecidableEq, Repr

/-- A wake in progress: its cause and the power state it leads to (R183). -/
structure WakeProgress where
  cause  : WakeCause
  target : PowerState
  deriving DecidableEq, Repr

/-- The Power and Reset Unit. `mask` and `recorded` are the wake mask and the channel levels taken at the
entry to Sleep; `changed` the masked channels seen to differ since (R183). -/
structure Pru where
  table     : PowerEntry
  power     : PowerState
  cause     : ResetCause
  idleStart : Time
  mask      : Word
  recorded  : Word
  changed   : Word
  wake      : Option WakeProgress
  deriving DecidableEq, Repr

end Sys2Proof.Machine
end

