-- ==== Sys2Proof/Machine/Defaults.lean ====
section
/-! DEFINITION. The values of every table and block after a power-on or pin reset, from the reset columns
of the chapters. -/

namespace Sys2Proof.Machine

/-- The total block count of a DRAM size (R44). -/
def totalBlocks : DramSize → Nat
  | .mib64 => 1024
  | .mib128 => 2048
  | .mib256 => 4096

/-- Table 1 after reset (R1). -/
def defaultPod : PodEntry := { threshold := 1400, hysteresis := 50 }

/-- A pod that is absent, with nothing noted. -/
def emptyPod : PodState :=
  { sense := false, present := false, changed := false, filterStart := 0, inserted := false }

/-- Table 2 after reset (R15). -/
def defaultGenEntry : GenEntry := { mode := .off, half := 200000, burst := 1 }

/-- A Signal Generator output after reset: Off, Held and driving 0 (R18). -/
def heldOutput : GenOutput := { level := false, run := .held, ticksLeft := 0, periodsLeft := 0 }

/-- Table 0 after reset (R9, R30). -/
def defaultAcq : AcqEntry :=
  { mode := .timing, divisor := 4, width := .wide, clockChannel := 0, clockEdge := .rising, loop := false
    postTrigger := 4096, preFill := 0, retainFloor := 0, sequenceCount := 1 }

/-- The Capture Engine after reset (R43). -/
def idleCe : Ce :=
  { table := defaultAcq, engine := .idle, segment := none, sequence := 0, done := 0, preFill := 0, post := 0
    startTick := 0, nextTick := 0, clock := none, taken := 0, handled := 0, staging := [], previous := none
    openRecord := none, queue := [], lastValue := 0, episode := none, heldForce := false, endIndex := none
    reason := none, endTime := none, toPush := [], stopTaken := false }

/-- Table 3 after reset (R45). -/
def defaultRegions (d : DramSize) : Regions :=
  { captureEnd := totalBlocks d - 128, symbolEnd := totalBlocks d - 24 }

/-- An entry of table 4 after reset (R48). -/
def unplanned : PlanEntry :=
  { planned := false, captureFirst := 0, captureCount := 1, symbolFirst := 0, symbolCount := 0 }

/-- The fields of an Empty status record, with a given hold count (R53). -/
def emptySegment (holds : Nat) : SegmentStatus :=
  { state := .empty, oldest := none, newest := none, recordCount := 0, startTime := none, endTime := none
    triggerTime := none, triggerPosition := none, triggerCause := none, endReason := none, gapCount := 0
    podLost := false, loop := false, symbolFirst := none, symbolCount := 0, symbolLost := 0
    symbolStatus := none, holdCount := holds }

/-- An entry of table 5 after reset (R66). -/
def neverTerm : Term := { negate := false, kind := .never }

/-- A branch after reset, with its default target (R71). -/
def defaultBranch (t : Target) : Branch :=
  { terms := [], any := false, count := 1, consecutive := false, target := t, action0 := .none
    action1 := .none }

/-- An entry of table 6 after reset (R71). -/
def defaultStage : Stage := { primary := defaultBranch .fire, secondary := defaultBranch .stay }

/-- An entry of table 7 after reset (R75). -/
def defaultCounterEntry : CounterEntry := { preload := 1, source := .samples, autoReload := false }

/-- A counter when the TS enters Off (R80). -/
def stoppedCounter : CounterState := { running := false, value := 0, expiredEarly := false }

/-- The Trigger Sequencer after reset (4.8). -/
def defaultTs : Ts :=
  { terms := Vector.replicate 16 neverTerm, stages := Vector.replicate 8 defaultStage
    counterTable := Vector.replicate 2 defaultCounterEntry, run := .off, stage := none, primary := 0
    secondary := 0, counters := Vector.replicate 2 stoppedCounter, lastExpiry := Vector.replicate 2 false
    history := [], triggerTime := none, triggerCause := none, waiting := []
    lastStamp := none, sinceFirst := 0 }

/-- The Async parameters after reset (R87). -/
def defaultAsync : AsyncParams :=
  { data := 0, idleHigh := true, dataBits := 8, parity := .none, stopBits := 1, msbFirst := false
    bq := 888889 }

/-- An entry of table 8 after reset (R86). -/
def defaultLaneEntry : LaneEntry :=
  { enable := false, kind := .async defaultAsync, deglitch := 0, gap := 10 }

/-- A closed bus frame with no event (R90). -/
def closedFrame : Frame := { isOpen := false, latest := none, interval := none, passed := false }

/-- An empty word in progress (R98). -/
def emptyWord : ClockedWord := { bits := 0, a := 0, b := 0, first := 0, last := 0 }

/-- A TwoWire decoder with nothing in progress (R102). -/
def idleTwoWire : TwoWireState :=
  { expect := .address, read := false, bits := 0, value := 0, first := 0, last := 0, low := 0
    marked := false, timeout := false }

/-- A decoder at its initial state (R90). -/
def freshDecoder : Decoder :=
  { frame := closedFrame, async := .hunting, clocked := emptyWord, twoWire := idleTwoWire
    strobed := { data := none, address := none } }

/-- Lane counters at 0 (R111). -/
def zeroCounters : LaneCounters :=
  { emitted := 0, parity := 0, framing := 0, short := 0, timeout := 0, nack := 0, wide := 0, read := 0
    lost := 0, glitches := 0, falseStarts := 0 }

/-- A lane after reset (R113, R117, R119). -/
def idleLane : Lane :=
  { mode := .idle, window := [], raw := none, filtered := none, decoder := freshDecoder, wordCount := 0
    dataPosition := 0, counters := zeroCounters, fifo := [], pendingLost := false, fx := [] }

/-- An entry of table 9 after reset (R118). -/
def defaultFieldEntry : FieldEntry :=
  { enable := false, lane := 0, first := 0, span := 1, startBit := 0, width := 8, invert := false }

/-- Entry 0 of a view set after reset (R131). -/
def defaultView : View :=
  { segment := 0, reference := .trigger, origin := 0, zoom := 25600, left := 0, top := 0, width := 800
    height := 480, rowCount := 0 }

/-- A row of a view set after reset (R132). -/
def defaultRow : Row := { kind := .spacer, height := 16, line := 1, activity := 2, text := 3 }

/-- A view set after reset (R133). -/
def defaultViewSet : ViewSet := { view := defaultView, rows := Vector.replicate 40 defaultRow }

/-- The Render Engine after reset (R138). The segment of the latest render is absent before the first one
(assumption 63). -/
def idleRe : Re :=
  { setA := defaultViewSet, setB := defaultViewSet, active := .a, job := .idle, pending := false
    draw := none, segment := none, outcome := none, rowsClipped := some 0, bounds := none
    readings := none, stale := false }

/-- Table 15 after reset (R152). -/
def defaultPanel : Panel :=
  { enabled := false, width := 800, height := 480, hFront := 40, hSync := 48, hBack := 88, vFront := 13
    vSync := 3, vBack := 29, hActiveHigh := false, vActiveHigh := false, divisor := 12 }

/-- Table 13 after reset (R156). -/
def defaultPalette : Vector (BitVec 16) 256 :=
  ((((((Vector.replicate 256 0#16).set 1 0xFFFF#16).set 2 0xFD20#16).set 3 0xFFE0#16).set 4 0x07FF#16).set 5
    0xF81F#16).set 6 0x07E0#16

/-- The five pixels of a glyph line, pixel 0 written first, as bits with pixel 0 in bit 0. -/
def glyphLine (n : Nat) : Nat :=
  n / 16 % 2 + 2 * (n / 8 % 2) + 4 * (n / 4 % 2) + 8 * (n / 2 % 2) + 16 * (n % 2)

/-- The bits of a glyph from the lines of R157's table, the first of them being the given line. -/
def glyphBits : Nat → List Nat → Nat
  | _, [] => 0
  | line, n :: ns => glyphLine n * 2 ^ (6 * line) + glyphBits (line + 1) ns

/-- Lines 1 to 7 of glyphs 0 to 15 (R157). -/
def digitLines : List (List Nat) :=
  [ [0b01110, 0b10001, 0b10011, 0b10101, 0b11001, 0b10001, 0b01110],
    [0b00100, 0b01100, 0b00100, 0b00100, 0b00100, 0b00100, 0b01110],
    [0b01110, 0b10001, 0b00001, 0b00010, 0b00100, 0b01000, 0b11111],
    [0b11111, 0b00010, 0b00100, 0b00010, 0b00001, 0b10001, 0b01110],
    [0b00010, 0b00110, 0b01010, 0b10010, 0b11111, 0b00010, 0b00010],
    [0b11111, 0b10000, 0b11110, 0b00001, 0b00001, 0b10001, 0b01110],
    [0b00110, 0b01000, 0b10000, 0b11110, 0b10001, 0b10001, 0b01110],
    [0b11111, 0b00001, 0b00010, 0b00100, 0b01000, 0b01000, 0b01000],
    [0b01110, 0b10001, 0b10001, 0b01110, 0b10001, 0b10001, 0b01110],
    [0b01110, 0b10001, 0b10001, 0b01111, 0b00001, 0b00010, 0b01100],
    [0b01110, 0b10001, 0b10001, 0b11111, 0b10001, 0b10001, 0b10001],
    [0b11110, 0b10001, 0b10001, 0b11110, 0b10001, 0b10001, 0b11110],
    [0b01110, 0b10001, 0b10000, 0b10000, 0b10000, 0b10001, 0b01110],
    [0b11100, 0b10010, 0b10001, 0b10001, 0b10001, 0b10010, 0b11100],
    [0b11111, 0b10000, 0b10000, 0b11110, 0b10000, 0b10000, 0b11111],
    [0b11111, 0b10000, 0b10000, 0b11110, 0b10000, 0b10000, 0b10000] ]

/-- Lines 1 to 7 of glyphs 16 to 23: S, R, P, A, D, B, K, F (R157). -/
def letterLines : List (List Nat) :=
  [ [0b01111, 0b10000, 0b10000, 0b01110, 0b00001, 0b00001, 0b11110],
    [0b11110, 0b10001, 0b10001, 0b11110, 0b10100, 0b10010, 0b10001],
    [0b11110, 0b10001, 0b10001, 0b11110, 0b10000, 0b10000, 0b10000],
    [0b01110, 0b10001, 0b10001, 0b11111, 0b10001, 0b10001, 0b10001],
    [0b11100, 0b10010, 0b10001, 0b10001, 0b10001, 0b10010, 0b11100],
    [0b11110, 0b10001, 0b10001, 0b11110, 0b10001, 0b10001, 0b11110],
    [0b10001, 0b10010, 0b10100, 0b11000, 0b10100, 0b10010, 0b10001],
    [0b11111, 0b10000, 0b10000, 0b11110, 0b10000, 0b10000, 0b10000] ]

/-- The glyphs drawn at reset: 0 to 23. -/
def drawnGlyphs : List (BitVec 60) :=
  (digitLines ++ letterLines).map fun ls => BitVec.ofNat 60 (glyphBits 1 ls)

/-- Table 14 after reset (R157). -/
def defaultGlyphs : Vector (BitVec 60) 64 :=
  ⟨(drawnGlyphs ++ List.replicate 40 0#60).toArray, by simp [drawnGlyphs, digitLines, letterLines]⟩

/-- Table 12 after reset (R158). -/
def defaultCursors : CursorTable :=
  { cursor1 := { enabled := false, offset := 0, colour := 4 }
    cursor2 := { enabled := false, offset := 0, colour := 5 }
    marker := 6 }

/-- The Scan-out Unit after reset. Its first frame begins at tick 0, so the fill of R61 that comes before it
takes no tick (R155, R161; assumption 65). -/
def defaultSu (symbolEnd : Nat) : Su :=
  { panel := defaultPanel, palette := defaultPalette, glyphs := defaultGlyphs, cursors := defaultCursors
    applied := defaultPanel, appliedPalette := defaultPalette, appliedCursors := defaultCursors
    front := false, frontView := none, frameView := none, frameStart := 0, scanBase := symbolEnd
    resizing := false, shown := none, read := none }

/-- A notice slot that is not pending (R176). -/
def clearSlot : NoticeSlot := { pending := false, count := 0, snapshot := none }

/-- The Link Port after reset: the queue, the dropped count and the notices as R163 and R176 give, and nothing
replied, in progress or being sent (assumption 43). -/
def defaultLp : Lp :=
  { queue := [], slot := none, inProgress := none, sending := none, dropped := 0, readout := none
    notices := Vector.replicate 10 clearSlot, resetDue := false }

/-- Table 16 after reset (R177). -/
def defaultPowerEntry : PowerEntry := { enables := BitVec.allOnes 10, exponent := 0, wakeMask := 0 }

/-- The Power and Reset Unit after a reset of the given cause (R179, R184). -/
def defaultPru (cause : ResetCause) : Pru :=
  { table := defaultPowerEntry, power := .run, cause := cause, idleStart := 0, mask := 0, recorded := 0
    changed := 0, wake := none }

end Sys2Proof.Machine
end

