-- ==== Sys2Proof/Machine/State.lean ====
section
/-! DEFINITION. The whole state of the part as plain data, the reasons a step can stop, and the machine
right after a power-on reset. -/

namespace Sys2Proof.Machine

/-- The DRAM: (address, byte) pairs with addresses strictly rising and no byte 0; an unlisted byte reads
as 0 (R52; assumption 1). -/
abbrev Memory := List Host.Cell

/-- Everything the spec gives the part, and `pending`, the model's queue of offered steps.
`time` is the Time Base (R7), `prescaler` the free prescaler (R8). `noticesSent` is the model's own: it
counts the Notice cells sent, to tell their free tags apart (assumption 4). -/
structure State where
  pending   : List Instr
  time      : Time
  prescaler : BitVec 16
  pfe       : Pfe
  gen       : Gen
  ce        : Ce
  plan      : Vector PlanEntry 32
  segments  : Vector SegmentStatus 32
  ts        : Ts
  laneTable : Vector LaneEntry 4
  lanes     : Vector Lane 4
  fieldMap  : Vector FieldEntry 32
  sm        : Sm
  redecode  : Option Redecode
  mp        : Mp
  dram      : Memory
  re        : Re
  su        : Su
  lp        : Lp
  pru       : Pru
  noticesSent : Nat
  deriving DecidableEq, Repr

/-- The reasons the machine stops with a fault. -/
inductive Fault where
  /-- Raised by a DRAM grant whose address lies outside the DRAM that the strap selected (R44, R52). Safe:
  the checks of R46 and R50 keep every span inside the DRAM, so no run from reset raises it. -/
  | addressOutsideDram
  deriving DecidableEq, Repr

/-- The reasons a step is refused. -/
inductive Refusal where
  /-- Raised by an arm of exec whose step has no meaning yet (no arm, at present). Safe. -/
  | notModelled (mnemonic : String)
  /-- Raised by COMMAND_CELL_ARRIVAL of a term that is no cell: its payload has not the number of bytes its
  Length asks for (R186). Safe: no such cell can arrive. -/
  | notACell
  deriving DecidableEq, Repr

/-- The machine right after a power-on reset with the 64 MiB strap, no pod inserted and every probe input
at 0 mV (R179; assumption 2). -/
def State.reset : State where
  pending := []
  time := 0
  prescaler := 0
  pfe :=
    { table := Vector.replicate 4 defaultPod
      pods := Vector.replicate 4 emptyPod
      inputs := Vector.replicate 32 0
      outputs := 0 }
  gen :=
    { table := Vector.replicate 2 defaultGenEntry, outputs := Vector.replicate 2 heldOutput
      loopCounter := 0 }
  ce := idleCe
  plan := Vector.replicate 32 unplanned
  segments := Vector.replicate 32 (emptySegment 0)
  ts := defaultTs
  laneTable := Vector.replicate 4 defaultLaneEntry
  lanes := Vector.replicate 4 idleLane
  fieldMap := Vector.replicate 32 defaultFieldEntry
  sm := { stamps := [] }
  redecode := none
  mp := { size := .mib64, regions := defaultRegions .mib64, fill := none }
  dram := []
  re := idleRe
  su := defaultSu (defaultRegions .mib64).symbolEnd
  lp := defaultLp
  pru := defaultPru .power
  noticesSent := 0

end Sys2Proof.Machine
end

