-- ==== Sys2Proof/WellFormed.lean ====
section
/-! DEFINITION. Which steps are well-formed. Every operand but a cell's payload has a type that admits
only legal values; a cell carries exactly the payload bytes its Length asks for. -/

namespace Sys2Proof

/-- The payload bytes the part reads after a header with this Length: at most 60 (R186). -/
def LinkCell.payloadLength (c : LinkCell) : Nat := min c.length.toNat Config.maxPayload

/-- A cell is whole when its payload has as many bytes as its Length says, and 60 when its Length is
above 60 (R162, R186). -/
def LinkCell.wellFormed (c : LinkCell) : Bool := c.payload.length == c.payloadLength

/-- The steps the outside world can offer. -/
def Instr.wellFormed : Instr → Bool
  | .commandCellArrival c => c.wellFormed
  | _ => true

end Sys2Proof
end

