-- ==== Sys2Proof/Machine/Ops.lean ====
section
/-! DEFINITION. The shared operations: absolute times, byte order, the DRAM, notices, replies and the
dispatch of the command at the head of the link's queue. -/

namespace Sys2Proof.Machine

/-! ### Absolute times (R7) -/

/-- The difference a − b of two absolute times, modulo 2^48 and read as signed (R7). -/
def timeDiff (a b : Time) : Int := (a - b).toInt

/-- a is earlier than b (R7). -/
def before (a b : Time) : Bool := decide (timeDiff a b < 0)

/-- a is at or before b (R7). -/
def atOrBefore (a b : Time) : Bool := decide (timeDiff a b ≤ 0)

/-- How many ticks a lies after b: the signed difference of R7, and 0 where a is not later. -/
def ticksAfter (a b : Time) : Nat := (timeDiff a b).toNat

/-- The ticks of a period of samples from b up to a, however long the state clock pauses in it: their
difference modulo 2^48, read as a count from 0 on (R23 and R77 count the whole of a pause; assumption 49). -/
def elapsed (a b : Time) : Nat := (a - b).toNat

/-- The time n ticks after t. -/
def addTicks (t : Time) (n : Nat) : Time := t + BitVec.ofNat 48 n

/-- The millisecond time of a Time Base value (R8). -/
def millisecondTime (t : Time) : Nat := t.toNat / Config.ticksPerMs

/-- A 32-bit count increased by n, saturating (R53, R110). -/
def saturate32 (n : Nat) : Nat := min n Config.max32

/-! ### Byte order (R185) -/

/-- The k bytes of n, least significant first. -/
def leBytes : Nat → Nat → List Byte
  | 0, _ => []
  | k + 1, n => BitVec.ofNat 8 n :: leBytes k (n / 256)

/-- The number some bytes hold, least significant first. -/
def leNat : List Byte → Nat
  | [] => 0
  | b :: bs => b.toNat + 256 * leNat bs

/-- The k bytes of a signed quantity in two's complement. -/
def signedBytes (k : Nat) (i : Int) : List Byte := leBytes k (i % (256 ^ k : Nat)).toNat

/-- The signed quantity some bytes hold in two's complement. -/
def leInt (bs : List Byte) : Int :=
  if 2 * leNat bs < 256 ^ bs.length then (leNat bs : Int) else (leNat bs : Int) - (256 ^ bs.length : Nat)

/-- Byte i of an item, as a number. -/
def byteAt (bs : List Byte) (i : Nat) : Nat := (bs.getD i 0).toNat

/-- The n bytes of an item from an offset. -/
def bytesAt (bs : List Byte) (offset n : Nat) : List Byte := (bs.drop offset).take n

/-- The number in the n bytes of an item from an offset. -/
def numAt (bs : List Byte) (offset n : Nat) : Nat := leNat (bytesAt bs offset n)

/-! ### The DRAM (R44, R52; assumption 1) -/

/-- The byte at an address; 0 where none is listed. -/
def memRead : Memory → Nat → Byte
  | [], _ => 0
  | (k, v) :: m, a => if k = a then v else memRead m a

/-- Memory with one byte stored, in canonical form. -/
def memWrite : Memory → Nat → Byte → Memory
  | [], a, b => if b = 0 then [] else [(a, b)]
  | (k, v) :: m, a, b =>
    if a < k then (if b = 0 then (k, v) :: m else (a, b) :: (k, v) :: m)
    else if a = k then (if b = 0 then m else (a, b) :: m)
    else (k, v) :: memWrite m a b

/-- The n bytes from an address on. -/
def memReadBytes (m : Memory) (a : Nat) : Nat → List Byte
  | 0 => []
  | n + 1 => memRead m a :: memReadBytes m (a + 1) n

/-- Memory with bytes stored from an address on. -/
def memWriteBytes (m : Memory) (a : Nat) : List Byte → Memory
  | [] => m
  | b :: bs => memWriteBytes (memWrite m a b) (a + 1) bs

/-- Memory with n bytes from an address on made 0. -/
def memClear (m : Memory) (a n : Nat) : Memory := m.filter fun c => c.1 < a || a + n ≤ c.1

/-- Every listed address lies above a bound, strictly rising, and no listed byte is 0. -/
def memWfFrom : Nat → Memory → Bool
  | _, [] => true
  | lo, (k, v) :: m => decide (lo ≤ k) && decide (v ≠ 0) && memWfFrom (k + 1) m

/-- The canonical form of the DRAM: equal memories are equal lists. -/
def memWf (m : Memory) : Bool := memWfFrom 0 m

/-- The DRAM's size in bytes (R44). -/
def dramBytes (s : State) : Nat := totalBlocks s.mp.size * Config.blockBytes

/-- n bytes from an address on lie inside the DRAM. -/
def inDram (s : State) (a n : Nat) : Bool := decide (a + n ≤ dramBytes s)

/-! ### Records and symbols in DRAM (R52, R185) -/

/-- A flag as a number. -/
def flag (b : Bool) : Nat := if b then 1 else 0

/-- The 8 bytes of a record (R185). -/
def recordBytes (r : Record) : List Byte :=
  leBytes 4 r.value.toNat ++ leBytes 3 r.duration ++
    [BitVec.ofNat 8 (flag r.triggerPoint + 2 * flag r.continuation + 4 * flag r.gap + 8 * flag r.loop)]

/-- The record 8 bytes hold (R185). -/
def recordOf (bs : List Byte) : Record :=
  let f := bs.getD 7 0
  { value := BitVec.ofNat 32 (numAt bs 0 4), duration := numAt bs 4 3
    triggerPoint := f.getLsbD 0, continuation := f.getLsbD 1, gap := f.getLsbD 2, loop := f.getLsbD 3 }

/-- The code of a symbol kind: its position in the list of R114 (R185). -/
def symbolKindCode : SymbolKind → Nat
  | .start => 0 | .restart => 1 | .stop => 2 | .address => 3
  | .data => 4 | .dataB => 5 | .brk => 6 | .field => 7

/-- The symbol kind of a code (R185). -/
def symbolKindOf (n : Nat) : SymbolKind :=
  match n with
  | 0 => .start | 1 => .restart | 2 => .stop | 3 => .address
  | 4 => .data | 5 => .dataB | 6 => .brk | _ => .field

/-- The 16 bytes of a symbol (R185). -/
def symbolBytes (y : Symbol) : List Byte :=
  leBytes 4 y.value.toNat ++ leBytes 6 y.start.toNat ++ leBytes 3 y.duration ++
    [BitVec.ofNat 8 (y.lane.val + 4 * symbolKindCode y.kind), y.tags, BitVec.ofNat 8 y.position]

/-- The symbol 16 bytes hold (R185). -/
def symbolOf (bs : List Byte) : Symbol :=
  { lane := Fin.ofNat 4 (byteAt bs 13), kind := symbolKindOf (byteAt bs 13 / 4 % 8)
    value := BitVec.ofNat 32 (numAt bs 0 4), start := BitVec.ofNat 48 (numAt bs 4 6)
    duration := numAt bs 10 3, tags := bs.getD 14 0, position := byteAt bs 15 }

/-- A symbol's end time: its start time plus its carried duration (R114). -/
def symbolEnd (y : Symbol) : Time := addTicks y.start y.duration

/-- The records a segment's ring holds (R48). -/
def ringCapacity (p : PlanEntry) : Nat := p.captureCount * Config.recordsPerBlock

/-- The symbols a segment's span holds (R48). -/
def spanCapacity (p : PlanEntry) : Nat := p.symbolCount * Config.symbolsPerBlock

/-- The address of the record at a ring position (R52). -/
def recordAddress (p : PlanEntry) (position : Nat) : Nat :=
  p.captureFirst * Config.blockBytes + position * 8

/-- The address of the symbol at a span position (R52). -/
def symbolAddress (p : PlanEntry) (position : Nat) : Nat :=
  p.symbolFirst * Config.blockBytes + position * 16

/-- The record at a ring position of a segment. -/
def readRecord (s : State) (n : Fin 32) (position : Nat) : Record :=
  recordOf (memReadBytes s.dram (recordAddress s.plan[n] position) 8)

/-- The symbol at a span position of a segment. -/
def readSymbol (s : State) (n : Fin 32) (position : Nat) : Symbol :=
  symbolOf (memReadBytes s.dram (symbolAddress s.plan[n] position) 16)

/-! ### Parts of the state -/

/-- The state with one segment's status record changed. -/
def modifySegment (n : Fin 32) (f : SegmentStatus → SegmentStatus) (s : State) : State :=
  { s with segments := s.segments.set n (f s.segments[n]) }

/-- The state with one lane changed. -/
def modifyLane (l : Fin 4) (f : Lane → Lane) (s : State) : State :=
  { s with lanes := s.lanes.set l (f s.lanes[l]) }

/-- A hold placed on a segment (R55, R56). -/
def placeHold (n : Fin 32) (s : State) : State :=
  modifySegment n (fun g => { g with holdCount := g.holdCount + 1 }) s

/-- A hold on a segment released (R55, R56). -/
def releaseHold (n : Fin 32) (s : State) : State :=
  modifySegment n (fun g => { g with holdCount := g.holdCount - 1 }) s

/-- A capture, or a closing, is in progress. -/
def engineIdle (s : State) : Bool := s.ce.engine == .idle

/-- The engine is in PreFill, Armed or Triggered: a segment is being captured. -/
def capturing (s : State) : Bool :=
  s.ce.engine == .preFill || s.ce.engine == .armed || s.ce.engine == .triggered

/-- A readout runs. -/
def readoutRuns (s : State) : Bool := s.lp.readout.isSome

/-- A redecode of a given segment runs. -/
def redecodesSegment (s : State) (n : Fin 32) : Bool :=
  match s.redecode with
  | some r => r.segment == n
  | none => false

/-- A readout of the symbols of a given segment runs. -/
def readsSymbolsOf (s : State) (n : Fin 32) : Bool :=
  match s.lp.readout with
  | some r => r.segment == n && r.kind == .symbols
  | none => false

/-! ### Replies and dispatch (R164, R165, R170) -/

/-- A reply placed in the reply slot. -/
def putReply (tag : Byte) (body : ReplyBody) (s : State) : State :=
  { s with lp.slot := some { tag := tag, body := body } }

/-- The idle timer restarted, in Run (R182). -/
def restartIdle (s : State) : State :=
  if s.pru.power = .run then { s with pru.idleStart := s.time } else s

/-- The part enters Run: the idle timer starts anew (R182). -/
def enterRun (s : State) : State := { s with pru.power := .run, pru.idleStart := s.time }

/-- The row of the opcode table that carries out a WRITE, by the table its payload names. -/
def writeRow (payload : List Byte) : Instr :=
  if payload.length < 2 then .write
  else match byteAt payload 0 with
    | 1 => .writePods
    | 2 => .writeGenerator
    | 3 => .writeRegions
    | 4 => .writeSegmentPlan
    | 12 => .writeCursors
    | 15 => .writePanel
    | 16 => .writePowerAndNotice
    | _ => .write

/-- The row of a STATUS, by its selector; STATUS_DEVICE for a selector that names no report. -/
def statusRow (payload : List Byte) : Instr :=
  if payload.isEmpty then .statusDevice
  else match byteAt payload 0 with
    | 1 => .statusSegment
    | 2 => .statusLane
    | 3 => .statusSequencer
    | 4 => .statusRender
    | _ => .statusDevice

/-- The row of a POWER, by its target; POWER_RUN for a target that names no state. -/
def powerRow (payload : List Byte) : Instr :=
  match byteAt payload 0 with
  | 1 => .powerStandby
  | 2 => .powerSleep
  | _ => .powerRun

/-- The row of the opcode table that carries out a command cell (R186). -/
def commandRow (c : LinkCell) : Instr :=
  match c.code.toNat with
  | 1 => writeRow c.payload
  | 2 => .read
  | 3 => .arm
  | 4 => .stop
  | 5 => .force
  | 6 => .redecode
  | 7 => .render
  | 8 => .swap
  | 9 => .readout
  | 10 => .cancel
  | 11 => statusRow c.payload
  | 12 => powerRow c.payload
  | 13 => .reset
  | _ => .badCommand

/-- The ticks from one sample, or examination, to the next (R11, R12). -/
def samplerStep (e : AcqEntry) : Nat :=
  match e.mode, e.width with
  | .timing, _ => e.divisor
  | .state, .narrow => 1
  | .state, .wide => 2

/-- The sampler has taken its sample of this tick, or examined the clock at it, and is due again one step
later (R11, R12). -/
def sampledNow (s : State) : Bool :=
  !engineIdle s && s.ce.nextTick == addTicks s.time (samplerStep s.ce.table)

/-- A FORCE that is taken now would raise an output: it triggers, and an output in BurstOnTrigger stands at 0
(R17, R36). -/
def forceRaises (s : State) : Bool :=
  (s.ce.engine == .preFill || s.ce.engine == .armed) &&
    (List.finRange 2).any fun i => s.gen.table[i].mode == .burstOnTrigger && !s.gen.outputs[i].level

/-- A command that changes the outputs at the tick it is taken: a WRITE of table 2, and a FORCE (R15, R17). -/
def changesOutputs (c : LinkCell) (s : State) : Bool :=
  match commandRow c with
  | .writeGenerator => true
  | .force => forceRaises s
  | _ => false

/-- DESIGN CHOICE (assumption 58). A command waits for the next tick: it would change the outputs at a tick
whose loop-mode sample, which holds their levels, has been taken already (R13, R14). -/
def waitsForTick (c : LinkCell) (s : State) : Bool :=
  s.ce.table.loop && sampledNow s && changesOutputs c s

/-- The LP may dispatch: the reply slot is empty, no command is being carried out, no wake is in progress
and no link reset is due (R164, R174, R183). -/
def mayDispatch (s : State) : Bool :=
  s.lp.slot.isNone && s.lp.inProgress.isNone && s.pru.wake.isNone && !s.lp.resetDue

/-- The head of the command queue taken for dispatch, when it is a command of the given row and need not wait
for the next tick (R164; assumption 58). A command is then in progress, so the idle timer restarts (R182). -/
def takeCommand (row : Instr) (s : State) : Option (LinkCell × State) :=
  match s.lp.queue with
  | [] => none
  | c :: rest =>
    if mayDispatch s ∧ waitsForTick c s = false ∧ commandRow c = row then
      some (c, restartIdle { s with lp.queue := rest })
    else none

/-- The refusal of R170's checks 2 and 3 and of a Length above 60 (R186): the payload must have the given
number of bytes, when one is given, and in Sleep only some commands are taken. A Length above 60 comes first,
for WRITE too (assumption 8). -/
def formRefusal (c : LinkCell) (length : Option Nat) (inSleep : Bool) (s : State) : Option RefusalCode :=
  if c.length.toNat > Config.maxPayload then some .badLength
  else if length.any (fun n => n != c.payload.length) then some .badLength
  else if s.pru.power = .sleep ∧ inSleep = false then some .asleep
  else none

/-- The dispatch of a command of one row: its form is checked, then its owner carries it out. Where no
such command can be dispatched, the step does not occur and nothing changes (assumption 3). -/
def dispatch (row : Instr) (length : Option Nat) (inSleep : Bool) (s : State)
    (owner : LinkCell → State → State) : Host.Outcome State Fault Refusal :=
  match takeCommand row s with
  | none => .next s
  | some (c, s1) =>
    match formRefusal c length inSleep s1 with
    | some code => .next (putReply c.tag (.refused code 0) s1)
    | none => .next (owner c s1)

/-- In Standby, ARM, RENDER, REDECODE and READOUT first return the part to Run (R181). -/
def leaveStandby (s : State) : State := if s.pru.power = .standby then enterRun s else s

end Sys2Proof.Machine
end

