-- ==== Sys2Proof/Machine/Columns.lean ====
section
/-! DEFINITION. What the Render Engine and the Scan-out Unit share: the column of a time (R139) and the
layout of the frame buffers (R45). -/

namespace Sys2Proof.Machine

/-- Where a time falls on the columns of a view (R139). -/
inductive Column where
  | left
  | at (c : Nat)
  | right
  deriving DecidableEq, Repr

/-- The column of an offset d from the view origin, for a zoom and an area width (R139). -/
def columnOf (zoom width : Nat) (d : Int) : Column :=
  if d < 0 then .left
  else if (width * zoom : Nat) ≤ d * 256 then .right
  else .at (d.toNat * 256 / zoom)

/-- The blocks of one frame buffer: ceil(W × H / 65536) (R45). -/
def bufferBlocks (width height : Nat) : Nat := (width * height + 65535) / 65536

/-- The first byte of frame buffer 0 or 1, when buffer 0 begins at a block (R45). -/
def bufferAddress (firstBlock width height : Nat) (second : Bool) : Nat :=
  (firstBlock + flag second * bufferBlocks width height) * Config.blockBytes

end Sys2Proof.Machine
end

