-- ==== Sys2Proof/Machine/Flags.lean ====
section
/-! DEFINITION. The notice flags of the Link Port: how an occurrence is folded into its kind's slot (R175). -/

namespace Sys2Proof.Machine

/-- The kind of notice a snapshot belongs to (R175). -/
def noticeKind : NoticeSnapshot → NoticeKind
  | .commandDropped .. => .commandDropped
  | .triggered .. => .triggered
  | .captureClosed .. => .captureClosed
  | .sequenceEnded .. => .sequenceEnded
  | .laneLost .. => .laneLost
  | .podChange .. => .podChange
  | .redecodeDone .. => .redecodeDone
  | .renderDone .. => .renderDone
  | .readoutDone .. => .readoutDone
  | .wake .. => .wake

/-- The slot of a notice kind: its priority less 1 (R175). -/
def noticeIndex : NoticeKind → Fin 10
  | .commandDropped => 0
  | .triggered => 1
  | .captureClosed => 2
  | .sequenceEnded => 3
  | .laneLost => 4
  | .podChange => 5
  | .redecodeDone => 6
  | .renderDone => 7
  | .readoutDone => 8
  | .wake => 9

/-- The notice kind is enabled in table 16 (R175, R177). -/
def noticeEnabled (s : State) (k : NoticeKind) : Bool := s.pru.table.enables.getLsbD (noticeIndex k)

/-- A slot after an occurrence: set pending with count 1, or counted, saturating at 255, with the snapshot
replaced (R175). -/
def raiseSlot (slot : NoticeSlot) (n : NoticeSnapshot) : NoticeSlot :=
  if slot.pending then { pending := true, count := min (slot.count + 1) 255, snapshot := some n }
  else { pending := true, count := 1, snapshot := some n }

/-- A notice raised: nothing when its kind is masked (R175). -/
def raiseNotice (n : NoticeSnapshot) (s : State) : State :=
  let i := noticeIndex (noticeKind n)
  if noticeEnabled s (noticeKind n) then
    { s with lp.notices := s.lp.notices.set i (raiseSlot s.lp.notices[i] n) }
  else s

/-- The pending notice of highest priority (R176). -/
def firstPending (s : State) : Option (Fin 10) :=
  (List.finRange 10).find? fun i => s.lp.notices[i].pending

end Sys2Proof.Machine
end

