-- ==== Sys2Proof/Machine/Operands.lean ====
section
/-! DEFINITION. The operand forms: how the bytes of a table entry are read and adjusted ("stored as",
"clamped", or BadValue), and how a stored entry is sent back (R187). A reader answers none where the entry
is refused with BadValue. -/

namespace Sys2Proof.Machine

/-! ### Fields -/

/-- A number that names one of n things. -/
def toFin (n k : Nat) : Option (Fin n) := if h : k < n then some ⟨k, h⟩ else none

/-- A field that is a flag: 0 or 1 (an Off/On or No/Yes enumeration). -/
def toFlag (k : Nat) : Option Bool := if k = 0 then some false else if k = 1 then some true else none

/-- An optional channel: FFh is None (R185). -/
def toOptionalChannel (k : Nat) : Option (Option (Fin 32)) :=
  if k = 255 then some none else (toFin 32 k).map some

/-- The code of an optional channel (R185). -/
def optionalChannelCode : Option (Fin 32) → Nat
  | none => 255
  | some k => k.val

/-- A value clamped to a range: replaced by the nearer limit. -/
def clamp (lo hi n : Nat) : Nat := max lo (min hi n)

/-- A signed value clamped to a range. -/
def clampInt (lo hi i : Int) : Int := max lo (min hi i)

/-- Bit i of a byte given as a number. -/
def bitAt (n i : Nat) : Bool := n.testBit i

/-- Zero bytes. -/
def zeros (n : Nat) : List Byte := List.replicate n 0

/-! ### Table 0: acquisition (R9, R30) -/

/-- The capture mode of a code. -/
def toCaptureMode (k : Nat) : Option CaptureMode :=
  if k = 0 then some .timing else if k = 1 then some .state else none

/-- The width of a code. -/
def toWidth (k : Nat) : Option Width := if k = 0 then some .wide else if k = 1 then some .narrow else none

/-- The polarity or clock edge of a code. -/
def toPolarity (k : Nat) : Option Polarity :=
  if k = 0 then some .rising else if k = 1 then some .falling else if k = 2 then some .either else none

/-- The code of a polarity. -/
def polarityCode : Polarity → Nat
  | .rising => 0 | .falling => 1 | .either => 2

/-- An acquisition entry read and adjusted (R9, R30). -/
def readAcq (bs : List Byte) : Option AcqEntry := do
  let mode ← toCaptureMode (byteAt bs 0)
  let width ← toWidth (byteAt bs 1)
  let clock ← toFin 32 (byteAt bs 2)
  let edge ← toPolarity (byteAt bs 3)
  let loop ← toFlag (byteAt bs 4)
  some { mode := mode, divisor := clamp 1 1048576 (numAt bs 8 4), width := width, clockChannel := clock
         clockEdge := edge, loop := loop, postTrigger := numAt bs 12 4, preFill := numAt bs 16 4
         retainFloor := min 32 (byteAt bs 5), sequenceCount := min 32 (byteAt bs 6) }

/-- A stored acquisition entry as sent. -/
def acqBytes (e : AcqEntry) : List Byte :=
  leBytes 1 (match e.mode with | .timing => 0 | .state => 1) ++
  leBytes 1 (match e.width with | .wide => 0 | .narrow => 1) ++
  leBytes 1 e.clockChannel ++ leBytes 1 (polarityCode e.clockEdge) ++ leBytes 1 (flag e.loop) ++
  leBytes 1 e.retainFloor ++ leBytes 1 e.sequenceCount ++ zeros 1 ++
  leBytes 4 e.divisor ++ leBytes 4 e.postTrigger ++ leBytes 4 e.preFill

/-! ### Table 1: pods (R1) -/

/-- A threshold as stored: clamped, then rounded toward zero to a multiple of 10 mV. -/
def storedThreshold (mv : Int) : Int := (clampInt (-5000) 5000 mv).tdiv 10 * 10

/-- A hysteresis as stored: 100 for any value other than 0, 25, 50 and 100. -/
def storedHysteresis (mv : Nat) : Nat := if mv = 0 ∨ mv = 25 ∨ mv = 50 then mv else 100

/-- A pod entry read and adjusted (R1). No value is refused. -/
def readPod (bs : List Byte) : PodEntry :=
  { threshold := storedThreshold (leInt (bytesAt bs 0 2)), hysteresis := storedHysteresis (numAt bs 2 2) }

/-- A stored pod entry as sent. -/
def podBytes (e : PodEntry) : List Byte := signedBytes 2 e.threshold ++ leBytes 2 e.hysteresis

/-! ### Table 2: generator (R15) -/

/-- The generator mode of a code. -/
def toGenMode (k : Nat) : Option GenMode :=
  if k = 0 then some .off else if k = 1 then some .square else if k = 2 then some .burst
  else if k = 3 then some .burstOnTrigger else none

/-- The code of a generator mode. -/
def genModeCode : GenMode → Nat
  | .off => 0 | .square => 1 | .burst => 2 | .burstOnTrigger => 3

/-- A generator entry read and adjusted (R15). -/
def readGen (bs : List Byte) : Option GenEntry := do
  let mode ← toGenMode (byteAt bs 0)
  some { mode := mode, half := clamp 1 16777216 (numAt bs 4 4), burst := max 1 (numAt bs 2 2) }

/-- A stored generator entry as sent. -/
def genBytes (e : GenEntry) : List Byte :=
  leBytes 1 (genModeCode e.mode) ++ zeros 1 ++ leBytes 2 e.burst ++ leBytes 4 e.half

/-! ### Tables 3 and 4: regions and segment plan (R45, R48) -/

/-- A region entry read. -/
def readRegions (bs : List Byte) : Regions := { captureEnd := numAt bs 0 2, symbolEnd := numAt bs 2 2 }

/-- A stored region entry as sent. -/
def regionBytes (e : Regions) : List Byte := leBytes 2 e.captureEnd ++ leBytes 2 e.symbolEnd

/-- A plan entry read; its span fields are stored as written (R48, R187). -/
def readPlan (bs : List Byte) : Option PlanEntry := do
  let planned ← toFlag (byteAt bs 0)
  some { planned := planned, captureFirst := numAt bs 2 2, captureCount := numAt bs 4 2
         symbolFirst := numAt bs 6 2, symbolCount := numAt bs 8 2 }

/-- A stored plan entry as sent. -/
def planBytes (e : PlanEntry) : List Byte :=
  leBytes 1 (flag e.planned) ++ zeros 1 ++ leBytes 2 e.captureFirst ++ leBytes 2 e.captureCount ++
  leBytes 2 e.symbolFirst ++ leBytes 2 e.symbolCount

/-! ### Table 5: terms (R66) -/

/-- The kind and parameters of a term entry. -/
def readTermKind (bs : List Byte) : Option TermKind :=
  match byteAt bs 0 with
  | 0 => some .never
  | 1 => some (.pattern (BitVec.ofNat 32 (numAt bs 4 4)) (BitVec.ofNat 32 (numAt bs 8 4)))
  | 2 => do
    let k ← toFin 32 (byteAt bs 4)
    let p ← toPolarity (byteAt bs 5)
    some (.edge k p)
  | 3 => do
    let l ← toFin 4 (byteAt bs 4)
    some (.symbol l (bs.getD 5 0) (bs.getD 6 0) (bs.getD 7 0) (BitVec.ofNat 32 (numAt bs 8 4))
      (BitVec.ofNat 32 (numAt bs 12 4)))
  | 4 => do
    let f ← toFin 32 (byteAt bs 4)
    let out ← toFlag (byteAt bs 5)
    some (.field f (if out then .outside else .inside) (BitVec.ofNat 32 (numAt bs 8 4))
      (BitVec.ofNat 32 (numAt bs 12 4)))
  | 5 => do
    let c ← toFin 2 (byteAt bs 4)
    some (.counterExpired c)
  | _ => none

/-- A term entry read (R66). Bits that the layout does not name are not read, here as in every entry below
(R187; assumption 61). -/
def readTerm (bs : List Byte) : Option Term := do
  let kind ← readTermKind bs
  some { negate := bitAt (byteAt bs 1) 0, kind := kind }

/-- A stored term entry as sent: 16 bytes, unused parameter bytes 0. -/
def termBytes (e : Term) : List Byte :=
  let head (k : Nat) := leBytes 1 k ++ leBytes 1 (flag e.negate) ++ zeros 2
  match e.kind with
  | .never => head 0 ++ zeros 12
  | .pattern mask value => head 1 ++ leBytes 4 mask.toNat ++ leBytes 4 value.toNat ++ zeros 4
  | .edge k p => head 2 ++ leBytes 1 k ++ leBytes 1 (polarityCode p) ++ zeros 10
  | .symbol l kinds required forbidden mask value =>
    head 3 ++ leBytes 1 l ++ [kinds, required, forbidden] ++ leBytes 4 mask.toNat ++ leBytes 4 value.toNat
  | .field f sense low high =>
    head 4 ++ leBytes 1 f ++ leBytes 1 (match sense with | .inside => 0 | .outside => 1) ++ zeros 2 ++
      leBytes 4 low.toNat ++ leBytes 4 high.toNat
  | .counterExpired c => head 5 ++ leBytes 1 c ++ zeros 11

/-! ### Table 6: stages (R71) -/

/-- The term numbers in the first n bytes, each 15 or below. -/
def readTermList : Nat → List Byte → Option (List (Fin 16))
  | 0, _ => some []
  | _ + 1, [] => none
  | n + 1, b :: bs => do
    let t ← toFin 16 b.toNat
    let ts ← readTermList n bs
    some (t :: ts)

/-- The target of a code: a stage 0 to 7, Fire 8, Stay 9 (R185). -/
def toTarget (k : Nat) : Option Target :=
  if h : k < 8 then some (.stage ⟨k, h⟩) else if k = 8 then some .fire else if k = 9 then some .stay
  else none

/-- The code of a target (R185). -/
def targetCode : Target → Nat
  | .stage n => n.val
  | .fire => 8
  | .stay => 9

/-- The counter action of a code. -/
def toAction (k : Nat) : Option CounterAction :=
  if k = 0 then some .none else if k = 1 then some .start else if k = 2 then some .stop else none

/-- The code of a counter action. -/
def actionCode : CounterAction → Nat
  | .none => 0 | .start => 1 | .stop => 2

/-- A branch read and adjusted (R71; assumption 61): 10 bytes. -/
def readBranch (bs : List Byte) : Option Branch :=
  if byteAt bs 4 > 4 then none
  else do
    let terms ← readTermList (byteAt bs 4) bs
    let target ← toTarget (byteAt bs 6)
    let a0 ← toAction (byteAt bs 7 % 4)
    let a1 ← toAction (byteAt bs 7 / 4 % 4)
    some { terms := terms, any := bitAt (byteAt bs 5) 0, count := max 1 (numAt bs 8 2)
           consecutive := bitAt (byteAt bs 5) 1, target := target, action0 := a0, action1 := a1 }

/-- A stored branch as sent. -/
def branchBytes (b : Branch) : List Byte :=
  b.terms.map (fun t => BitVec.ofNat 8 t.val) ++ zeros (4 - b.terms.length) ++ leBytes 1 b.terms.length ++
  leBytes 1 (flag b.any + 2 * flag b.consecutive) ++ leBytes 1 (targetCode b.target) ++
  leBytes 1 (actionCode b.action0 + 4 * actionCode b.action1) ++ leBytes 2 b.count

/-- A stage entry read and adjusted (R71). -/
def readStage (bs : List Byte) : Option Stage := do
  let p ← readBranch (bytesAt bs 0 10)
  let q ← readBranch (bytesAt bs 10 10)
  some { primary := p, secondary := q }

/-- A stored stage entry as sent. -/
def stageBytes (e : Stage) : List Byte := branchBytes e.primary ++ branchBytes e.secondary

/-! ### Table 7: counters (R75) -/

/-- The source of a counter entry. -/
def readSource (bs : List Byte) : Option CounterSource :=
  match byteAt bs 4 with
  | 0 => some .samples
  | 1 => (toFin 16 (byteAt bs 5)).map .ticks
  | 2 => (toFin 16 (byteAt bs 5)).map .termTrue
  | 3 => do
    let k ← toFin 32 (byteAt bs 5)
    let p ← toPolarity (byteAt bs 6)
    some (.edge k p)
  | _ => none

/-- A counter entry read and adjusted (R75; assumption 61). -/
def readCounter (bs : List Byte) : Option CounterEntry := do
  let source ← readSource bs
  some { preload := max 1 (numAt bs 0 4), source := source, autoReload := bitAt (byteAt bs 7) 0 }

/-- A stored counter entry as sent. -/
def counterBytes (e : CounterEntry) : List Byte :=
  leBytes 4 e.preload ++
  (match e.source with
    | .samples => [0, 0, 0]
    | .ticks p => leBytes 1 1 ++ leBytes 1 p ++ zeros 1
    | .termTrue j => leBytes 1 2 ++ leBytes 1 j ++ zeros 1
    | .edge k p => leBytes 1 3 ++ leBytes 1 k ++ leBytes 1 (polarityCode p)) ++
  leBytes 1 (flag e.autoReload)

/-! ### Table 8: lanes (R86, R87) -/

/-- The channels a lane assigns, in the descriptor's order, those of a Strobed data range included. -/
def laneChannels : LaneKind → List Nat
  | .async p => [p.data]
  | .clocked p =>
    [p.clock.val, p.dataA.val] ++ (p.dataB.toList ++ p.select.toList).map (·.val)
  | .twoWire p => [p.clock, p.data]
  | .strobed p =>
    (List.range p.width).map (p.base.val + ·) ++ [p.dataStrobe.val] ++
      (p.addressStrobe.toList ++ p.direction.toList ++ p.wait.toList).map (·.val)

/-- No channel is assigned twice (R87). -/
def channelsDiffer (k : LaneKind) : Bool := decide (laneChannels k).Nodup

/-- The parity of a code. -/
def toParity (k : Nat) : Option Parity :=
  match k with
  | 0 => some .none | 1 => some .even | 2 => some .odd | 3 => some .mark | 4 => some .space | _ => none

/-- The code of a parity. -/
def parityCode : Parity → Nat
  | .none => 0 | .even => 1 | .odd => 2 | .mark => 3 | .space => 4

/-- The parameters of an Async lane read and adjusted. Idle level High is code 0 and Low is code 1. -/
def readAsync (bs : List Byte) : Option AsyncParams := do
  let data ← toFin 32 (byteAt bs 6)
  let low ← toFlag (byteAt bs 7)
  let parity ← toParity (byteAt bs 9)
  let msb ← toFlag (byteAt bs 11)
  if 5 ≤ byteAt bs 8 ∧ byteAt bs 8 ≤ 9 ∧ 1 ≤ byteAt bs 10 ∧ byteAt bs 10 ≤ 2 then
    some { data := data, idleHigh := !low, dataBits := byteAt bs 8, parity := parity
           stopBits := byteAt bs 10, msbFirst := msb, bq := max 1 (numAt bs 12 3) }
  else none

/-- The parameters of a Clocked lane read and adjusted. -/
def readClocked (bs : List Byte) : Option ClockedParams := do
  let clock ← toFin 32 (byteAt bs 6)
  let a ← toFin 32 (byteAt bs 7)
  let b ← toOptionalChannel (byteAt bs 8)
  let select ← toOptionalChannel (byteAt bs 9)
  let falling ← toFlag (byteAt bs 10)
  let high ← toFlag (byteAt bs 11)
  let msb ← toFlag (byteAt bs 13)
  if 4 ≤ byteAt bs 12 ∧ byteAt bs 12 ≤ 32 then
    some { clock := clock, dataA := a, dataB := b, select := select, fallingEdge := falling
           selectHigh := high, wordSize := byteAt bs 12, msbFirst := msb }
  else none

/-- The parameters of a TwoWire lane read and adjusted. -/
def readTwoWire (bs : List Byte) : Option TwoWireParams := do
  let clock ← toFin 32 (byteAt bs 6)
  let data ← toFin 32 (byteAt bs 7)
  some { clock := clock, data := data, stretch := clamp 1 16777216 (numAt bs 8 4) }

/-- The parameters of a Strobed lane read and adjusted. -/
def readStrobed (bs : List Byte) : Option StrobedParams := do
  let base ← toFin 32 (byteAt bs 6)
  let strobe ← toFin 32 (byteAt bs 8)
  let address ← toOptionalChannel (byteAt bs 9)
  let direction ← toOptionalChannel (byteAt bs 10)
  let wait ← toOptionalChannel (byteAt bs 11)
  if 1 ≤ byteAt bs 7 ∧ byteAt bs 7 ≤ 16 ∧ base.val + byteAt bs 7 ≤ 32 then
    some { base := base, width := byteAt bs 7, dataStrobe := strobe, addressStrobe := address
           direction := direction, wait := wait, limit := max 1 (numAt bs 12 2) }
  else none

/-- The kind and parameters of a lane descriptor. -/
def readLaneKind (bs : List Byte) : Option LaneKind :=
  match byteAt bs 1 with
  | 0 => (readAsync bs).map .async
  | 1 => (readClocked bs).map .clocked
  | 2 => (readTwoWire bs).map .twoWire
  | 3 => (readStrobed bs).map .strobed
  | _ => none

/-- A lane descriptor read and adjusted (R86, R87). -/
def readLane (bs : List Byte) : Option LaneEntry := do
  let enable ← toFlag (byteAt bs 0)
  let kind ← readLaneKind bs
  if channelsDiffer kind then
    some { enable := enable, kind := kind, deglitch := min 15 (byteAt bs 2)
           gap := clamp 1 1024 (numAt bs 4 2) }
  else none

/-- The ten parameter bytes of a lane kind as sent. -/
def laneKindBytes : LaneKind → List Byte
  | .async p =>
    leBytes 1 p.data ++ leBytes 1 (flag (!p.idleHigh)) ++ leBytes 1 p.dataBits ++
    leBytes 1 (parityCode p.parity) ++ leBytes 1 p.stopBits ++ leBytes 1 (flag p.msbFirst) ++
    leBytes 3 p.bq ++ zeros 1
  | .clocked p =>
    leBytes 1 p.clock ++ leBytes 1 p.dataA ++ leBytes 1 (optionalChannelCode p.dataB) ++
    leBytes 1 (optionalChannelCode p.select) ++ leBytes 1 (flag p.fallingEdge) ++
    leBytes 1 (flag p.selectHigh) ++ leBytes 1 p.wordSize ++ leBytes 1 (flag p.msbFirst) ++ zeros 2
  | .twoWire p => leBytes 1 p.clock ++ leBytes 1 p.data ++ leBytes 4 p.stretch ++ zeros 4
  | .strobed p =>
    leBytes 1 p.base ++ leBytes 1 p.width ++ leBytes 1 p.dataStrobe ++
    leBytes 1 (optionalChannelCode p.addressStrobe) ++ leBytes 1 (optionalChannelCode p.direction) ++
    leBytes 1 (optionalChannelCode p.wait) ++ leBytes 2 p.limit ++ zeros 2

/-- The code of a lane kind. -/
def laneKindCode : LaneKind → Nat
  | .async _ => 0 | .clocked _ => 1 | .twoWire _ => 2 | .strobed _ => 3

/-- A stored lane descriptor as sent. -/
def laneBytes (e : LaneEntry) : List Byte :=
  leBytes 1 (flag e.enable) ++ leBytes 1 (laneKindCode e.kind) ++ leBytes 1 e.deglitch ++ zeros 1 ++
  leBytes 2 e.gap ++ laneKindBytes e.kind

/-! ### Table 9: field map (R118) -/

/-- A field map entry read and adjusted (R118; assumption 61). -/
def readField (bs : List Byte) : Option FieldEntry := do
  let lane ← toFin 4 (byteAt bs 1)
  if byteAt bs 2 ≤ 63 ∧ 1 ≤ byteAt bs 3 ∧ byteAt bs 3 ≤ 4 ∧ byteAt bs 2 + byteAt bs 3 ≤ 64 ∧
      byteAt bs 4 ≤ 127 then
    some { enable := bitAt (byteAt bs 0) 0, lane := lane, first := byteAt bs 2, span := byteAt bs 3
           startBit := byteAt bs 4, width := clamp 1 32 (byteAt bs 5), invert := bitAt (byteAt bs 0) 1 }
  else none

/-- A stored field map entry as sent. -/
def fieldBytes (e : FieldEntry) : List Byte :=
  leBytes 1 (flag e.enable + 2 * flag e.invert) ++ leBytes 1 e.lane ++ leBytes 1 e.first ++
  leBytes 1 e.span ++ leBytes 1 e.startBit ++ leBytes 1 e.width ++ zeros 2

/-! ### Tables 10 and 11: view sets (R131, R132) -/

/-- The four area fields clamped in the order left, top, width, height against the panel (R131). -/
def clampArea (panelWidth panelHeight : Nat) (v : View) : View :=
  let left := min v.left (panelWidth - 1)
  let top := min v.top (panelHeight - 1)
  { v with left := left, top := top, width := clamp 1 (panelWidth - left) v.width
           height := clamp 1 (panelHeight - top) v.height }

/-- The largest magnitude of an origin or cursor offset (R131, R158). -/
def maxOffset : Int := 140737488355327

/-- Entry 0 of a view set read and adjusted, against the panel as stored (R131). -/
def readView (panelWidth panelHeight : Nat) (bs : List Byte) : Option View := do
  let segment ← toFin 32 (byteAt bs 0)
  let start ← toFlag (byteAt bs 1)
  some (clampArea panelWidth panelHeight
    { segment := segment, reference := if start then .start else .trigger
      origin := clampInt (-maxOffset) maxOffset (leInt (bytesAt bs 4 6)), zoom := max 1 (numAt bs 10 4)
      left := numAt bs 14 2, top := numAt bs 16 2, width := numAt bs 18 2, height := numAt bs 20 2
      rowCount := min 40 (byteAt bs 2) })

/-- A stored view as sent. -/
def viewBytes (v : View) : List Byte :=
  leBytes 1 v.segment ++ leBytes 1 (match v.reference with | .trigger => 0 | .start => 1) ++
  leBytes 1 v.rowCount ++ zeros 1 ++ signedBytes 6 v.origin ++ leBytes 4 v.zoom ++ leBytes 2 v.left ++
  leBytes 2 v.top ++ leBytes 2 v.width ++ leBytes 2 v.height ++ zeros 2

/-- The kind and parameter of a row, under the row kind codes of R187. -/
def readRowKind (bs : List Byte) : Option RowKind :=
  match byteAt bs 0 with
  | 0 => some .spacer
  | 1 => (toFin 32 (byteAt bs 8)).map .channel
  | 2 => some (.group (BitVec.ofNat 32 (numAt bs 8 4)))
  | 3 => (toFin 4 (byteAt bs 8)).map .lane
  | _ => none

/-- A row read and adjusted (R132). -/
def readRow (bs : List Byte) : Option Row := do
  let kind ← readRowKind bs
  some { kind := kind, height := clamp 8 64 (byteAt bs 1), line := bs.getD 2 0, activity := bs.getD 3 0
         text := bs.getD 4 0 }

/-- A stored row as sent. -/
def rowBytes (r : Row) : List Byte :=
  let head (k : Nat) := leBytes 1 k ++ leBytes 1 r.height ++ [r.line, r.activity, r.text] ++ zeros 3
  (match r.kind with
    | .spacer => head 0 ++ zeros 4
    | .channel k => head 1 ++ leBytes 4 k
    | .group m => head 2 ++ leBytes 4 m.toNat
    | .lane l => head 3 ++ leBytes 4 l) ++ zeros 12

/-! ### Tables 12 to 16 (R152, R156 to R158, R177) -/

/-- A cursor entry read and adjusted (R158; assumption 61). -/
def readCursor (bs : List Byte) : Cursor :=
  { enabled := bitAt (byteAt bs 0) 0, offset := clampInt (-maxOffset) maxOffset (leInt (bytesAt bs 2 6))
    colour := bs.getD 1 0 }

/-- A stored cursor entry as sent. -/
def cursorBytes (c : Cursor) : List Byte :=
  leBytes 1 (flag c.enabled) ++ [c.colour] ++ signedBytes 6 c.offset

/-- The trigger marker entry as sent. -/
def markerBytes (colour : Byte) : List Byte := zeros 1 ++ [colour] ++ zeros 6

/-- A panel entry read and adjusted (R152; assumption 61). -/
def readPanel (bs : List Byte) : Option Panel := do
  let enabled ← toFlag (byteAt bs 0)
  some { enabled := enabled, width := clamp 320 800 (numAt bs 2 2), height := clamp 240 480 (numAt bs 4 2)
         hFront := max 1 (byteAt bs 6), hSync := max 1 (byteAt bs 7), hBack := max 1 (byteAt bs 8)
         vFront := max 1 (byteAt bs 9), vSync := clamp 1 63 (byteAt bs 10), vBack := max 1 (byteAt bs 11)
         hActiveHigh := bitAt (byteAt bs 1) 0, vActiveHigh := bitAt (byteAt bs 1) 1
         divisor := clamp 4 64 (byteAt bs 12) }

/-- A stored panel entry as sent. -/
def panelBytes (p : Panel) : List Byte :=
  leBytes 1 (flag p.enabled) ++ leBytes 1 (flag p.hActiveHigh + 2 * flag p.vActiveHigh) ++
  leBytes 2 p.width ++ leBytes 2 p.height ++ leBytes 1 p.hFront ++ leBytes 1 p.hSync ++
  leBytes 1 p.hBack ++ leBytes 1 p.vFront ++ leBytes 1 p.vSync ++ leBytes 1 p.vBack ++
  leBytes 1 p.divisor ++ zeros 3

/-- A power and notice entry read and adjusted (R177; assumption 61). -/
def readPower (bs : List Byte) : PowerEntry :=
  { enables := BitVec.ofNat 10 (numAt bs 0 2), exponent := min 15 (byteAt bs 2)
    wakeMask := BitVec.ofNat 32 (numAt bs 4 4) }

/-- A stored power and notice entry as sent. -/
def powerBytes (p : PowerEntry) : List Byte :=
  leBytes 2 p.enables.toNat ++ leBytes 1 p.exponent ++ zeros 1 ++ leBytes 4 p.wakeMask.toNat

/-! ### The tables as a whole (9.5, R187) -/

/-- The number of entries of a table (9.5). -/
def tableEntries (t : Nat) : Nat :=
  [1, 4, 2, 1, 32, 16, 8, 2, 4, 32, 41, 41, 3, 256, 64, 1, 1].getD t 0

/-- The bytes of an entry of a table (R187). -/
def entrySize (t : Nat) : Nat :=
  [20, 4, 8, 4, 10, 16, 20, 8, 16, 8, 24, 24, 8, 2, 8, 16, 8].getD t 1

/-- Entry i of a view set as sent. -/
def viewSetEntryBytes (v : ViewSet) (i : Nat) : List Byte :=
  if i = 0 then viewBytes v.view else (v.rows[i - 1]?.map rowBytes).getD []

/-- Entry i of the cursor table as sent. -/
def cursorEntryBytes (c : CursorTable) (i : Nat) : List Byte :=
  match i with
  | 0 => cursorBytes c.cursor1
  | 1 => cursorBytes c.cursor2
  | _ => markerBytes c.marker

/-- The stored entry i of table t, as sent by READ (R169, R187). -/
def entryBytes (s : State) (t i : Nat) : List Byte :=
  match t with
  | 0 => acqBytes s.ce.table
  | 1 => (s.pfe.table[i]?.map podBytes).getD []
  | 2 => (s.gen.table[i]?.map genBytes).getD []
  | 3 => regionBytes s.mp.regions
  | 4 => (s.plan[i]?.map planBytes).getD []
  | 5 => (s.ts.terms[i]?.map termBytes).getD []
  | 6 => (s.ts.stages[i]?.map stageBytes).getD []
  | 7 => (s.ts.counterTable[i]?.map counterBytes).getD []
  | 8 => (s.laneTable[i]?.map laneBytes).getD []
  | 9 => (s.fieldMap[i]?.map fieldBytes).getD []
  | 10 => viewSetEntryBytes s.re.setA i
  | 11 => viewSetEntryBytes s.re.setB i
  | 12 => cursorEntryBytes s.su.cursors i
  | 13 => (s.su.palette[i]?.map fun c => leBytes 2 c.toNat).getD []
  | 14 => (s.su.glyphs[i]?.map fun g => leBytes 8 g.toNat).getD []
  | 15 => panelBytes s.su.panel
  | 16 => powerBytes s.pru.table
  | _ => []

/-! ### Codes of reply and notice fields (R185, R186) -/

/-- The number of a refusal code (R186). -/
def refusalNumber : RefusalCode → Nat
  | .badCommand => 1 | .badTable => 2 | .badIndex => 3 | .badLength => 4 | .badValue => 5 | .busy => 6
  | .outOfRegion => 7 | .overlap => 8 | .held => 9 | .notPlanned => 10 | .retained => 11
  | .notClosed => 12 | .rateTooHigh => 13 | .channelUnavailable => 14 | .laneNeedsTiming => 15
  | .asleep => 16

/-- The code of a trigger cause: a stage 0 to 7, Forced 8 (R185). -/
def causeCode : Cause → Nat
  | .stage n => n.val
  | .forced => 8

/-- The code of an end reason (R185). -/
def endReasonCode : EndReason → Nat
  | .postComplete => 0 | .memoryLimit => 1 | .stalled => 2 | .stopped => 3 | .reset => 4

/-- The code of a symbol status, in the order of R53 (R185). -/
def symbolStatusCode : SymbolStatus → Nat
  | .complete => 0 | .truncated => 1 | .redecoded => 2 | .redecodedTruncated => 3 | .incomplete => 4

/-- The code of a sequence end (R186). -/
def sequenceEndCode : SequenceEnd → Nat
  | .complete => 0 | .noSegment => 1 | .stopped => 2

/-- The code of a render outcome (R186). -/
def outcomeCode : RenderOutcome → Nat
  | .done => 0 | .noData => 1 | .overrun => 2 | .aborted => 3 | .annotationsOmitted => 4

/-- The code of an item kind (R186). -/
def itemKindCode : ItemKind → Nat
  | .records => 0 | .symbols => 1

/-- The bytes of a notice snapshot (R186). -/
def snapshotBytes : NoticeSnapshot → List Byte
  | .commandDropped tag count => [tag] ++ leBytes 4 count
  | .triggered n t c => leBytes 1 n ++ leBytes 6 t.toNat ++ leBytes 1 (causeCode c)
  | .captureClosed n r k => leBytes 1 n ++ leBytes 1 (endReasonCode r) ++ leBytes 4 k
  | .sequenceEnded d r => leBytes 1 d ++ leBytes 1 (sequenceEndCode r)
  | .laneLost l => leBytes 1 l
  | .podChange p b => leBytes 1 p ++ leBytes 1 (flag b)
  | .redecodeDone n st k lost =>
    leBytes 1 n ++ leBytes 1 (symbolStatusCode st) ++ leBytes 4 k ++ leBytes 4 lost
  | .renderDone n o => leBytes 1 n ++ leBytes 1 (outcomeCode o)
  | .readoutDone n k items complete =>
    leBytes 1 n ++ leBytes 1 (itemKindCode k) ++ leBytes 4 items ++ leBytes 1 (flag (!complete))
  | .wake (.activity k) => leBytes 1 0 ++ leBytes 1 k
  | .wake .link => [1, 255]

end Sys2Proof.Machine
end

