-- ==== Sys2Proof/Machine/Render.lean ====
section
/-! DEFINITION. The Render Engine (chapter 7): snapshot, stacking, reading, column reduction, annotations,
bounds, readings, flip and abort. Times are taken relative to the snapshot's reference R, as exact integers
(R139). -/

namespace Sys2Proof.Machine

/-! ### Times of a snapshot (R136, R139 to R141) -/

/-- A time relative to the reference R (R139). -/
def relTime (sn : Snapshot) (t : Time) : Int := timeDiff t (sn.reference.getD 0)

/-- The segment's start S. -/
def relStart (sn : Snapshot) : Int := relTime sn (sn.startTime.getD 0)

/-- The segment's end E. -/
def relEnd (sn : Snapshot) : Int := relTime sn (sn.endTime.getD 0)

/-- The right edge time TR (R139). -/
def rightEdge (sn : Snapshot) : Int :=
  sn.view.origin + ((sn.view.width * sn.view.zoom + 255) / 256 : Nat)

/-- The column of a time (R139). -/
def timeColumn (sn : Snapshot) (t : Int) : Column :=
  columnOf sn.view.zoom sn.view.width (t - sn.view.origin)

/-- A column is a data column (R140). -/
def isDataColumn (sn : Snapshot) (c : Nat) : Bool :=
  decide (c < sn.view.width ∧ (c * sn.view.zoom : Nat) < (relEnd sn - sn.view.origin) * 256 ∧
    (relStart sn - sn.view.origin) * 256 < ((c + 1) * sn.view.zoom : Nat))

/-- The instant of a column (R140). -/
def columnInstant (sn : Snapshot) (c : Nat) : Int :=
  max (relStart sn) (sn.view.origin + (c * sn.view.zoom / 256 : Nat))

/-- The offsets of the enabled cursors that lie within [S, E) (R141). -/
def cursorsInside (sn : Snapshot) : List Int :=
  ([sn.cursor1, sn.cursor2].filter fun c =>
    c.enabled && decide (relStart sn ≤ c.offset ∧ c.offset < relEnd sn)).map (·.offset)

/-- The start Ts of the window that is read (R141). -/
def windowStart (sn : Snapshot) : Int :=
  max (relStart sn) ((cursorsInside sn).foldl min sn.view.origin)

/-- The end Te of the window that is read (R141). -/
def windowEnd (sn : Snapshot) : Int :=
  min (relEnd sn) ((cursorsInside sn).foldl (fun t c => max t (c + 1)) (rightEdge sn))

/-- The start of a record. -/
def recordStart (sn : Snapshot) (r : TimedRecord) : Int := relTime sn r.start

/-- The end of a record. -/
def recordEnd (sn : Snapshot) (r : TimedRecord) : Int := relTime sn r.start + r.record.duration

/-! ### Column reduction (R140, R144, R145) -/

/-- Each record of a list with the record before it. -/
def neighbours : List TimedRecord → List (TimedRecord × TimedRecord)
  | a :: b :: rest => (a, b) :: neighbours (b :: rest)
  | _ => []

/-- The record that contains a time. -/
def recordAt (sn : Snapshot) (used : List TimedRecord) (t : Int) : Option TimedRecord :=
  used.find? fun r => decide (recordStart sn r ≤ t ∧ t < recordEnd sn r)

/-- What a column is reduced to: value in force, change count up to 2, and whether it is wholly a gap. -/
structure Reduced where
  value   : Nat
  changes : Nat
  gap     : Bool
  deriving DecidableEq, Repr

/-- A column reduced for a row that shows some value of the levels (R140, R144, R145). -/
def reduceColumn (sn : Snapshot) (used : List TimedRecord) (value : Word → Nat) (c : Nat) : Reduced :=
  let a := columnInstant sn c
  let inside := (neighbours used).filter fun p => timeColumn sn (recordStart sn p.2) == .at c
  let changes := (inside.filter fun p => value p.1.record.value != value p.2.record.value).length
  match recordAt sn used a with
  | none => { value := 0, changes := min changes 2, gap := false }
  | some r =>
    { value := value r.record.value, changes := min changes 2
      gap := r.record.gap && inside.all fun p => decide (recordStart sn p.2 ≤ a) }

/-- The group value of some levels: the bits at the mask's channels, gathered in channel order (R145). -/
def groupValue (mask w : Word) : Nat :=
  lsbNumber (((List.range 32).filter fun i => mask.getLsbD i).map fun i => w.getLsbD i)
where
  /-- The number some bits form, the first the least significant. -/
  lsbNumber : List Bool → Nat
    | [] => 0
    | b :: bs => flag b + 2 * lsbNumber bs

/-- The value a row shows of the levels, for the rows that show one. -/
def rowValue : RowKind → Option (Word → Nat)
  | .channel k => some fun w => flag (w.getLsbD k.val)
  | .group m => some (groupValue m)
  | _ => none

/-! ### Pixels (R142, R144 to R147) -/

/-- The high line of a placed row (R142). -/
def highLine (p : PlacedRow) : Nat := p.top + 1

/-- The low line of a placed row (R142). -/
def lowLine (p : PlacedRow) : Nat := p.top + p.row.height - 2

/-- The lines of a placed row's span (R142). -/
def spanLines (p : PlacedRow) : List Nat := (List.range (p.row.height - 2)).map (p.top + 1 + ·)

/-- One pixel to write; traces, box sides and glyphs go out one pixel a grant (R59; assumption 54). -/
def onePixel (x y : Nat) (colour : Byte) : PixelRun := { x := x, y := y, pixels := [colour] }

/-- The pixels a column of a Channel or Group row sets, from the high line down (R144, R145; their order is
assumption 54). -/
def columnPixels (p : PlacedRow) (group : Bool) (q : Reduced) (x : Nat) : List PixelRun :=
  if q.gap then
    ((spanLines p).filter fun y => (x + y) % 2 == 0).map fun y => onePixel x y p.row.activity
  else match q.changes with
    | 0 =>
      if group then [onePixel x (highLine p) p.row.line, onePixel x (lowLine p) p.row.line]
      else [onePixel x (if q.value = 1 then highLine p else lowLine p) p.row.line]
    | 1 => (spanLines p).map fun y => onePixel x y p.row.line
    | _ => (spanLines p).map fun y => onePixel x y p.row.activity

/-- The set pixels of one glyph at a place, line by line from the top and from the left in each (R145, R147,
R157; their order is assumption 54). -/
def glyphPixels (g : BitVec 60) (x y : Nat) (colour : Byte) : List PixelRun :=
  (List.range 60).filterMap fun i =>
    if g.getLsbD i then some (onePixel (x + i % 6) (y + i / 6) colour) else none

/-- The set pixels of a row of glyphs, 6 columns apart, glyph after glyph from the left (R145, R147; their
order is assumption 54). -/
def textPixels (glyphs : Vector (BitVec 60) 64) (y : Nat) (colour : Byte) : List Nat → Nat → List PixelRun
  | [], _ => []
  | n :: ns, x =>
    glyphPixels (glyphs.toArray.getD n 0) x y colour ++ textPixels glyphs y colour ns (x + 6)

/-- The hexadecimal digits of a number, m of them, most significant first. -/
def hexDigits (m n : Nat) : List Nat := (List.range m).map fun i => n / 16 ^ (m - 1 - i) % 16

/-- The fewest hexadecimal digits that show a number, at least one (R147). -/
def digitCount (n : Nat) : Nat :=
  max 1 ((List.range 8).filter fun i => decide (16 ^ i ≤ n)).length

/-! ### Stacking (R142) -/

/-- The rows placed from an offset in an area of some height: rows are placed until one does not fit. -/
def stackRows (top height : Nat) : Nat → List Row → List PlacedRow
  | _, [] => []
  | y, r :: rs =>
    if y + r.height ≤ height then
      { row := r, top := top + y } :: stackRows top height (y + r.height) rs
    else []

/-- The runs that clear the area, one along each line, from the top line down (R142; the length and the order
of the runs are assumption 54). -/
def clearRuns (v : View) : List PixelRun :=
  (List.range v.height).map fun i =>
    { x := v.left, y := v.top + i, pixels := List.replicate v.width 0 }

/-! ### The stable runs of a Group row (R145) -/

/-- A column of a Group row is part of a stable run. -/
def isStable (sn : Snapshot) (used : List TimedRecord) (mask : Word) (c : Nat) : Bool :=
  let q := reduceColumn sn used (groupValue mask) c
  isDataColumn sn c && !q.gap && q.changes == 0

/-- The length of the stable run that ends just before a column. -/
def runBefore (sn : Snapshot) (used : List TimedRecord) (mask : Word) : Nat → Nat
  | 0 => 0
  | c + 1 => if isStable sn used mask c then runBefore sn used mask c + 1 else 0

/-- The text of the stable run that ends just before a column (R145). -/
def runText (glyphs : Vector (BitVec 60) 64) (sn : Snapshot) (used : List TimedRecord) (p : PlacedRow)
    (mask : Word) (c : Nat) : List PixelRun :=
  let digits := (((List.range 32).filter fun i => mask.getLsbD i).length + 3) / 4
  let len := runBefore sn used mask c
  if 1 ≤ digits ∧ 12 ≤ p.row.height ∧ 6 * digits + 2 ≤ len then
    let value := (reduceColumn sn used (groupValue mask) (c - 1)).value
    textPixels glyphs (p.top + (p.row.height - 10) / 2) p.row.text (hexDigits digits value)
      (sn.view.left + (c - len) + (len - 6 * digits) / 2)
  else []

/-- The text of the runs that column c shows to have ended: the run before it, where c is not part of it,
and the run it ends itself, where it is the last data column. -/
def endedText (glyphs : Vector (BitVec 60) 64) (sn : Snapshot) (used : List TimedRecord) (p : PlacedRow)
    (mask : Word) (c : Nat) : List PixelRun :=
  (if isStable sn used mask c then [] else runText glyphs sn used p mask c) ++
    (if isStable sn used mask c && !isDataColumn sn (c + 1) then runText glyphs sn used p mask (c + 1)
     else [])

/-- What one placed row sets in a data column itself (R144, R145). -/
def rowTrace (sn : Snapshot) (used : List TimedRecord) (c : Nat) (p : PlacedRow) : List PixelRun :=
  match p.row.kind with
  | .channel k =>
    columnPixels p false (reduceColumn sn used (fun w => flag (w.getLsbD k.val)) c) (sn.view.left + c)
  | .group m => columnPixels p true (reduceColumn sn used (groupValue m) c) (sn.view.left + c)
  | _ => []

/-- The text of one placed row that a data column shows to be complete (R145). -/
def rowText (glyphs : Vector (BitVec 60) 64) (sn : Snapshot) (used : List TimedRecord) (c : Nat)
    (p : PlacedRow) : List PixelRun :=
  match p.row.kind with
  | .group m => endedText glyphs sn used p m c
  | _ => []

/-- What one placed row sets in a data column, and the text that ends there, before the next row (R144, R145;
assumption 54). -/
def rowColumn (glyphs : Vector (BitVec 60) 64) (sn : Snapshot) (used : List TimedRecord) (c : Nat)
    (p : PlacedRow) : List PixelRun :=
  rowTrace sn used c p ++ rowText glyphs sn used c p

/-! ### Drawing the traces (R141, R144, R145) -/

/-- The render draws one data column, row after row as they are placed (assumption 54); where it sets a pixel
there, the column counts for the bounds (R149). -/
def drawColumn (glyphs : Vector (BitVec 60) 64) (c : Nat) (d : Draw) : Draw :=
  let drawn := !(d.placed.flatMap (rowTrace d.snapshot d.used c)).isEmpty
  { d with
    writes := d.writes ++ d.placed.flatMap (rowColumn glyphs d.snapshot d.used c)
    firstColumn := if drawn then some (d.firstColumn.getD c) else d.firstColumn
    lastColumn := if drawn then some c else d.lastColumn }

/-- The render draws the columns whose records it has all read: those that end at or before a time, which
is absent once the forward pass has ended (R141). -/
def drawColumns (glyphs : Vector (BitVec 60) 64) (upTo : Option Int) : Nat → Draw → Draw
  | 0, d => d
  | fuel + 1, d =>
    let sn := d.snapshot
    let c := d.nextColumn
    let ready := match upTo with
      | some t => decide (((c + 1) * sn.view.zoom : Nat) ≤ (t - sn.view.origin) * 256)
      | none => true
    if c < sn.view.width ∧ ready = true then
      drawColumns glyphs upTo fuel
        { (if isDataColumn sn c then drawColumn glyphs c d else d) with nextColumn := c + 1 }
    else d

/-! ### Reading (R141, R143, R146) -/

/-- A count of reads or boxes, saturating (R149). -/
def countUp (n : Nat) : Nat := saturate32 (n + 1)

/-- A position has been written since the render's start, when positions after a newest one have been
written in order (R143, R146). -/
def overwritten (capacity newest written position : Nat) : Bool :=
  decide ((position + 2 * capacity - newest % capacity - 1) % capacity < written)

/-- A Lane row is placed. -/
def lanePlaced (d : Draw) : Bool :=
  d.placed.any fun p => match p.row.kind with | .lane _ => true | _ => false

/-- Where the reading goes on once the records are read: to the span, if there is anything to read in it
(R146, R148). -/
def spanPhase (d : Draw) : DrawPhase :=
  if lanePlaced d && !d.omitted && d.snapshot.symbolCount != 0 then
    .symbols d.snapshot.symbolFirst d.snapshot.symbolCount
  else .finished

/-- Where the reading of a render begins (R141). -/
def firstPhase (d : Draw) : DrawPhase :=
  if d.snapshot.noData then .finished
  else if windowEnd d.snapshot ≤ windowStart d.snapshot then spanPhase d
  else .locate d.snapshot.newest d.snapshot.recordCount (d.snapshot.endTime.getD 0)

/-- The ring position before one. -/
def positionBefore (capacity p : Nat) : Nat := if p = 0 then capacity - 1 else p - 1

/-- The position after one. -/
def positionAfter (capacity p : Nat) : Nat := (p + 1) % capacity

/-- One record read by the locate walk (R141). -/
def locateRead (capacity position left : Nat) (stop : Time) (r : Record) (d : Draw) : Draw :=
  let start := stop - BitVec.ofNat 48 r.duration
  { d with
    reads := countUp d.reads
    phase :=
      if relTime d.snapshot start < windowStart d.snapshot ∨ left ≤ 1 then
        .forward position (d.snapshot.recordCount - left + 1) start
      else .locate (positionBefore capacity position) (left - 1) start }

/-- One record read by the forward pass, with the columns it lets draw (R141). -/
def forwardRead (glyphs : Vector (BitVec 60) 64) (capacity position left : Nat) (start : Time) (r : Record)
    (d : Draw) : Draw :=
  let t := { start := start, record := r }
  let d1 := { d with reads := countUp d.reads, used := d.used ++ [t] }
  let stop := recordEnd d.snapshot t
  if windowEnd d.snapshot ≤ stop ∨ left ≤ 1 then
    let d2 := drawColumns glyphs none d.snapshot.view.width d1
    { d2 with phase := spanPhase d2 }
  else
    { drawColumns glyphs (some stop) d.snapshot.view.width d1 with
      phase := .forward (positionAfter capacity position) (left - 1) (addTicks start r.duration) }

/-! ### Annotations (R146, R147) -/

/-- The tags of damage: Parity, Framing, Short, Lost, Timeout, Nack (R146). -/
def damageTags : Byte := 0x3F

/-- The glyphs of a symbol's text (R147). -/
def symbolGlyphs (y : Symbol) : List Nat :=
  let v := y.value.toNat
  match y.kind with
  | .start => [16]
  | .restart => [17]
  | .stop => [18]
  | .address => 19 :: hexDigits (digitCount v) v
  | .data => 20 :: hexDigits (digitCount v) v
  | .dataB => 21 :: hexDigits (digitCount v) v
  | .brk => [22]
  | .field => 23 :: hexDigits (digitCount v) v

/-- The text of a box from column cs of width w, where it fits (R147). -/
def boxText (glyphs : Vector (BitVec 60) 64) (left : Nat) (p : PlacedRow) (y : Symbol) (cs w : Nat) :
    List PixelRun :=
  let gs := symbolGlyphs y
  if 12 ≤ p.row.height ∧ 6 * gs.length + 2 ≤ w then
    textPixels glyphs (p.top + (p.row.height - 10) / 2) p.row.text gs
      (left + cs + 1 + (w - 2 - 6 * gs.length) / 2)
  else []

/-- A symbol's box or tick from column cs to ce in one placed row, whether or not those columns are data
columns (R146 over R140; assumption 55): the high line, the low line and the sides from the top down, an order
the spec does not give (assumption 54), and the text over them (R147). -/
def boxPixels (glyphs : Vector (BitVec 60) 64) (left : Nat) (y : Symbol) (cs ce : Nat) (p : PlacedRow) :
    List PixelRun :=
  let colour := if y.tags &&& damageTags = 0 then p.row.line else p.row.activity
  if cs = ce then (spanLines p).map fun l => onePixel (left + cs) l colour
  else
    let along (l : Nat) : PixelRun :=
      { x := left + cs, y := l, pixels := List.replicate (ce - cs + 1) colour }
    [along (highLine p), along (lowLine p)] ++
      (spanLines p).flatMap (fun l => [onePixel (left + cs) l colour, onePixel (left + ce) l colour]) ++
      boxText glyphs left p y cs (ce - cs + 1)

/-- The first and last column of a symbol's box, where it is drawn at all (R146). Its end is a time of its
own, mapped as R139 maps a time. -/
def boxColumns (sn : Snapshot) (y : Symbol) : Option (Nat × Nat) :=
  if before (symbolEnd y) (sn.startTime.getD 0) then none
  else match timeColumn sn (relTime sn y.start), timeColumn sn (relTime sn (symbolEnd y)) with
    | .right, _ => none
    | _, .left => none
    | .left, .at c => some (0, c)
    | .left, .right => some (0, sn.view.width - 1)
    | .at a, .at c => some (a, c)
    | .at a, .right => some (a, sn.view.width - 1)

/-- The data columns from cs to ce, where a box covers them with pixels (R149). -/
def boxedColumns (sn : Snapshot) (runs : List PixelRun) (cs ce : Nat) : List Nat :=
  if runs.isEmpty then [] else (List.range' cs (ce + 1 - cs)).filter (isDataColumn sn)

/-- A symbol drawn in every placed Lane row of its lane (R146), row after row as they are placed (assumption
54); the data columns it covers count for the bounds (R149). -/
def drawSymbol (glyphs : Vector (BitVec 60) 64) (y : Symbol) (d : Draw) : Draw :=
  match boxColumns d.snapshot y with
  | none => d
  | some (cs, ce) =>
    let rows := d.placed.filter fun p => p.row.kind == .lane y.lane
    let runs := rows.flatMap (boxPixels glyphs d.snapshot.view.left y cs ce)
    let columns := boxedColumns d.snapshot runs cs ce
    { d with
      writes := d.writes ++ runs
      firstColumn := Option.merge min d.firstColumn columns.head?
      lastColumn := Option.merge max d.lastColumn columns.getLast?
      drawn := saturate32 (d.drawn + rows.length) }

/-- One symbol read from the span (R146). -/
def symbolRead (glyphs : Vector (BitVec 60) 64) (capacity position left : Nat) (y : Symbol) (d : Draw) :
    Draw :=
  let last := left ≤ 1 ∨
    rightEdge d.snapshot ≤ relTime d.snapshot (symbolEnd y) - (Config.maxDuration : Nat)
  { drawSymbol glyphs y d with
    phase := if last then .finished else .symbols (positionAfter capacity position) (left - 1) }

/-! ### Bounds and readings (R149, R150) -/

/-- The bounds of a render as they stand (R149). -/
def boundsOf (d : Draw) : Bounds :=
  { firstColumn := d.firstColumn, lastColumn := d.lastColumn
    firstStart := d.used.head?.map (·.start)
    lastEnd := d.used.getLast?.map fun r => addTicks r.start r.record.duration
    recordsRead := d.reads, symbolsDrawn := d.drawn }

/-- A cursor's value reading (R150). -/
def valueReading (d : Draw) (c : CursorAt) : Option Word :=
  if c.enabled ∧ relStart d.snapshot ≤ c.offset ∧ c.offset < relEnd d.snapshot then
    (recordAt d.snapshot d.used c.offset).map (·.record.value)
  else none

/-- The edge count of a channel in (lower, upper] (R7, R150). -/
def edgeCount (d : Draw) (lower upper : Time) (k : Nat) : Nat :=
  min 65535 ((neighbours d.used).filter fun p =>
    before lower p.2.start && atOrBefore p.2.start upper &&
      p.1.record.value.getLsbD k != p.2.record.value.getLsbD k).length

/-- A cursor's time: the reference plus its offset (R150). -/
def cursorTime (sn : Snapshot) (c : CursorAt) : Time := sn.reference.getD 0 + BitVec.ofInt 48 c.offset

/-- The interval readings (R150). The cursors' times are ordered, and their difference taken, as R7 does with
any two times; for two that lie 2^47 ticks apart, each before the other, see assumption 62. -/
def intervalReading (d : Draw) : Option (Nat × List Nat) :=
  let a := d.snapshot.cursor1
  let b := d.snapshot.cursor2
  if a.enabled ∧ b.enabled then
    let first := cursorTime d.snapshot a
    let second := cursorTime d.snapshot b
    let lower := if before second first then second else first
    let upper := if before second first then first else second
    some ((upper - lower).toNat, (List.range 32).map (edgeCount d lower upper))
  else none

/-- The readings a render records at its end (R150). -/
def readingsOf (d : Draw) : Readings :=
  { value1 := valueReading d d.snapshot.cursor1, value2 := valueReading d d.snapshot.cursor2
    interval := intervalReading d }

/-- A render whose drawing is finished: outcome, bounds and readings (R136, R148 to R150). -/
def completeDraw (d : Draw) : Draw :=
  if d.snapshot.noData then { d with outcome := .noData, bounds := some (boundsOf d), readings := none }
  else
    { d with outcome := if d.omitted then .annotationsOmitted else .done
             bounds := some (boundsOf d), readings := some (readingsOf d) }

/-- A render that ends at a read that comes too late: Overrun, or AnnotationsOmitted where it met that first
(R143, R148 to R150; assumption 26). -/
def overrunDraw (d : Draw) : Draw :=
  { d with
    phase := .finished, outcome := if d.omitted then .annotationsOmitted else .overrun
    bounds := some (boundsOf d), readings := none }

/-! ### The render job (R135 to R138) -/

/-- The active view set (R134). -/
def activeSet (r : Re) : ViewSet :=
  match r.active with
  | .a => r.setA
  | .b => r.setB

/-- The reference R of a view (R131, R136). -/
def referenceOf (v : View) (g : SegmentStatus) : Option Time :=
  match v.reference, g.triggerTime with
  | .trigger, some t => some t
  | _, _ => g.startTime

/-- The snapshot a render takes at its start (R136). -/
def snapshotOf (s : State) : Snapshot :=
  let set := activeSet s.re
  let p := s.su.panel
  let v := clampArea p.width p.height set.view
  let g := s.segments[v.segment]
  { view := v, rows := set.rows.toList.take v.rowCount, panelWidth := p.width, panelHeight := p.height
    cursor1 := { enabled := s.su.cursors.cursor1.enabled, offset := s.su.cursors.cursor1.offset }
    cursor2 := { enabled := s.su.cursors.cursor2.enabled, offset := s.su.cursors.cursor2.offset }
    noData := g.state == .empty || g.recordCount == 0
    filling := g.state == .filling
    oldest := g.oldest.getD 0, newest := g.newest.getD 0, recordCount := g.recordCount
    startTime := g.startTime, endTime := g.endTime, triggerTime := g.triggerTime
    symbolFirst := g.symbolFirst.getD 0, symbolCount := g.symbolCount
    reference := referenceOf v g, buffer := !s.su.front
    redecoding := redecodesSegment s v.segment }

/-- A render just started on a snapshot: the area is to be cleared, and its rows are stacked (R136, R142). -/
def newDraw (sn : Snapshot) : Draw :=
  let d : Draw :=
    { snapshot := sn, placed := stackRows sn.view.top sn.view.height 0 sn.rows
      writes := clearRuns sn.view, phase := .finished, used := [], nextColumn := 0, firstColumn := none
      lastColumn := none, reads := 0, drawn := 0, ringWrites := 0, spanWrites := 0
      omitted := sn.redecoding, outcome := .done, bounds := none, readings := none }
  { d with phase := firstPhase d }

/-- A render starts: the last render's results go, the snapshot is taken, a hold is placed, and the job is
Drawing (R55, R136). -/
def startRender (s : State) : State :=
  let sn := snapshotOf s
  let re := { s.re with
    job := .drawing, pending := false, draw := some (newDraw sn), segment := some sn.view.segment
    outcome := none, rowsClipped := none, bounds := none, readings := none, stale := false }
  placeHold sn.view.segment { s with re := re }

/-- The front-frame view a render hands over (R137). -/
def frontViewOf (sn : Snapshot) : FrontView :=
  { left := sn.view.left, top := sn.view.top, width := sn.view.width, height := sn.view.height
    reference := sn.reference, origin := sn.view.origin, zoom := sn.view.zoom
    segment := sn.view.segment, triggerTime := sn.triggerTime }

/-- The render of a given draw leaves its results and the job is Idle (R137). -/
def endRender (d : Draw) (r : Re) : Re :=
  { r with job := .idle, draw := none, outcome := some d.outcome, bounds := d.bounds
           readings := d.readings }

/-- The flip of a render in WaitFlip, and the start of a pending one (R137). -/
def flip (s : State) : State :=
  match s.re.job, s.re.draw with
  | .waitFlip, some d =>
    let su := { s.su with front := d.snapshot.buffer, frontView := some (frontViewOf d.snapshot) }
    let s1 := releaseHold d.snapshot.view.segment { s with su := su, re := endRender d s.re }
    let s2 := raiseNotice (.renderDone d.snapshot.view.segment d.outcome) s1
    if s.re.pending then startRender s2 else s2
  | _, _ => s

/-- A link reset ends a render under way with outcome Aborted (R138). -/
def abortRender (s : State) : State :=
  match s.re.draw with
  | none => s
  | some d =>
    let re := { s.re with job := .idle, pending := false, draw := none, outcome := some .aborted
                          bounds := none, readings := none }
    releaseHold d.snapshot.view.segment { s with re := re }

/-- A render has not ended its span reading: it still reads, or it has nothing to read and still clears its
area, which comes before every reading (R142, R148). -/
def annotationsOpen (r : Re) (d : Draw) : Bool :=
  d.phase != .finished || (r.job == .drawing && r.rowsClipped.isNone)

/-- A REDECODE of a segment is taken: a render of it that has not ended its span reading draws no more of
its annotations (R148). -/
def omitAnnotations (n : Fin 32) (s : State) : State :=
  match s.re.draw with
  | none => s
  | some d =>
    if d.snapshot.view.segment = n ∧ annotationsOpen s.re d = true then
      let phase := match d.phase with
        | .symbols _ _ => .finished
        | p => p
      { s with re.draw := some { d with omitted := true, phase := phase } }
    else s

/-! ### What a render waits for (R59) -/

/-- The render waits to write pixels. -/
def wantsPixels (s : State) : Bool :=
  match s.re.draw with
  | some d => s.re.job == .drawing && !d.writes.isEmpty
  | none => false

/-- The render waits to read a record; it does so once every queued run is written (assumption 54). -/
def wantsRecord (s : State) : Bool :=
  match s.re.draw with
  | some d =>
    s.re.job == .drawing && d.writes.isEmpty &&
      (match d.phase with | .locate .. | .forward .. => true | _ => false)
  | none => false

/-- The render waits to read a symbol; it does so once every queued run is written (assumption 54). -/
def wantsSymbol (s : State) : Bool :=
  match s.re.draw with
  | some d =>
    s.re.job == .drawing && d.writes.isEmpty && (match d.phase with | .symbols .. => true | _ => false)
  | none => false

/-- The drawing is finished: nothing is left to read or to write (R136). -/
def drawingFinished (s : State) : Bool :=
  match s.re.draw with
  | some d => s.re.job == .drawing && d.writes.isEmpty && d.phase == .finished
  | none => false

/-- The address of a pixel run in the render's back buffer (R45, R142). -/
def runAddress (s : State) (d : Draw) (w : PixelRun) : Nat :=
  bufferAddress s.mp.regions.symbolEnd d.snapshot.panelWidth d.snapshot.panelHeight d.snapshot.buffer +
    w.y * d.snapshot.panelWidth + w.x

/-- A pixel run is written; with the last run of the clearing the rows are stacked, and RowsClipped stands
from then on (R136, R142). -/
def wrotePixels (d : Draw) (rest : List PixelRun) (r : Re) : Re :=
  { r with
    draw := some { d with writes := rest }
    rowsClipped :=
      if rest.isEmpty ∧ r.rowsClipped.isNone then some (d.snapshot.rows.length - d.placed.length)
      else r.rowsClipped }

end Sys2Proof.Machine
end

