-- ==== Sys2Proof/Machine/ScanOut.lean ====
section
/-! DEFINITION. The Scan-out Unit (chapter 8): frame timing, row requests, the overlay and the panel port. -/

namespace Sys2Proof.Machine

/-! ### Frame timing (R154) -/

/-- The ticks of a line: horizontal total × pixel divisor (R154). -/
def lineTicks (p : Panel) : Nat := (p.width + p.hFront + p.hSync + p.hBack) * p.divisor

/-- The lines of a frame: vertical total (R154). -/
def frameLines (p : Panel) : Nat := p.height + p.vFront + p.vSync + p.vBack

/-- The ticks of a frame (R154). -/
def frameTicks (p : Panel) : Nat := frameLines p * lineTicks p

/-- The lines of a frame before active line 0: vertical sync, then back porch (R154). -/
def leadLines (p : Panel) : Nat := p.vSync + p.vBack

/-- The SU runs: in Run and Standby (R161). -/
def scanning (s : State) : Bool := s.pru.power != .sleep

/-- The ticks since the frame's boundary. -/
def frameAge (s : State) : Nat := ticksAfter s.time s.su.frameStart

/-- The frame boundary is reached (R154). -/
def boundaryDue (s : State) : Bool := scanning s && decide (frameTicks s.su.applied ≤ frameAge s)

/-- The line of the frame being sent, counted from the frame boundary. -/
def currentLine (s : State) : Nat := frameAge s / lineTicks s.su.applied

/-- The active line whose row the SU asks for during the current line: line y is asked for at the start of
the line before it, line 0 at the start of the back porch's last line (R155). -/
def requestLine (s : State) : Option Nat :=
  let p := s.su.applied
  if leadLines p ≤ currentLine s + 1 ∧ currentLine s + 1 < leadLines p + p.height then
    some (currentLine s + 1 - leadLines p)
  else none

/-- A row of a line is among the rows read. -/
def hasRow (su : Su) (y : Nat) : Bool :=
  (match su.read with | some r => r.line == y | none => false) ||
    (match su.shown with | some r => r.line == y | none => false)

/-- The row read the SU waits for (R155). -/
def wantedRow (s : State) : Option Nat :=
  if scanning s then (requestLine s).filter fun y => !hasRow s.su y else none

/-- The address of a row of the front buffer, where the SU scans it (R47, R155). -/
def rowAddress (su : Su) (y : Nat) : Nat :=
  bufferAddress su.scanBase su.applied.width su.applied.height su.front + y * su.applied.width

/-- The SU has read a row: the row before it is the one being shown (R155). -/
def takeRow (y : Nat) (pixels : List Byte) (su : Su) : Su :=
  { su with shown := su.read, read := some { line := y, pixels := pixels } }

/-! ### The overlay (R159, R160) -/

/-- The column of an offset from the view's reference (R139, R159). -/
def viewColumn (v : FrontView) (offset : Int) : Column := columnOf v.zoom v.width (offset - v.origin)

/-- A pixel lies in the view's area. -/
def inArea (v : FrontView) (x y : Nat) : Bool :=
  decide (v.left ≤ x ∧ x < v.left + v.width ∧ v.top ≤ y ∧ y < v.top + v.height)

/-- A pixel of an arrow: k columns in from its edge it covers the lines m − (2 − k) to m + (2 − k) (R160). -/
def inArrow (k m y : Nat) : Bool := decide (k ≤ 2 ∧ m ≤ y + (2 - k) ∧ y ≤ m + (2 - k))

/-- A cursor covers a pixel, with its arrows' centre line (R159, R160). -/
def cursorCovers (v : FrontView) (c : Cursor) (centre x y : Nat) : Bool :=
  c.enabled && inArea v x y &&
    (match viewColumn v c.offset with
      | .at k => x == v.left + k
      | .left => inArrow (x - v.left) centre y
      | .right => inArrow (v.left + v.width - 1 - x) centre y)

/-- The trigger marker covers a pixel (R159). -/
def markerCovers (v : FrontView) (x y : Nat) : Bool :=
  match v.reference, v.triggerTime with
  | some r, some t =>
    inArea v x y && decide ((y - v.top) % 4 < 2) &&
      (match viewColumn v (timeDiff t r) with
        | .at k => x == v.left + k
        | _ => false)
  | _, _ => false

/-- The palette index the overlay lays over a pixel, if any: cursor 1 over cursor 2 over the marker (R159). -/
def overlayIndex (su : Su) (x y : Nat) : Option Byte :=
  match su.frameView with
  | none => none
  | some v =>
    if v.reference.isNone then none
    else
      let c := su.appliedCursors
      if cursorCovers v c.cursor1 (v.top + v.height / 3) x y then some c.cursor1.colour
      else if cursorCovers v c.cursor2 (v.top + 2 * v.height / 3) x y then some c.cursor2.colour
      else if markerCovers v x y then some c.marker
      else none

/-! ### The panel port (R154 to R156) -/

/-- The levels of the panel port: the pixel clock, both sync outputs and the 16 pixel-data outputs. -/
structure PanelPins where
  clock : Bool
  hSync : Bool
  vSync : Bool
  data  : BitVec 16
  deriving DecidableEq, Repr

/-- A panel fill runs, so every active pixel is shown as palette entry 0 (R153). -/
def panelFillRuns (s : State) : Bool :=
  match s.mp.fill with
  | some f => f.kind == .panel
  | none => false

/-- The index the front buffer gives pixel x of line y: 0 where its row was not read in time (R155). -/
def bufferIndex (s : State) (x y : Nat) : Byte :=
  if panelFillRuns s then 0
  else match s.su.read, s.su.shown with
    | some r, q =>
      if r.line = y then r.pixels.getD x 0
      else (match q with | some z => if z.line = y then z.pixels.getD x 0 else 0 | none => 0)
    | none, _ => 0

/-- The colour of an active pixel (R155, R156, R159). -/
def pixelColour (s : State) (x y : Nat) : BitVec 16 :=
  s.su.appliedPalette[(((overlayIndex s.su x y).getD (bufferIndex s x y)).toFin : Fin 256)]

/-- The level of the pixel clock at a tick of the frame: its period is the pixel divisor, and its level at
each tick of the period is a free value (R154; assumption 30). -/
def pixelClock (p : Panel) (age : Nat) : Bool := Config.pixelClockLevel p.divisor (age % p.divisor)

/-- The panel port at this tick (R154, R161). -/
def panelPins (s : State) : PanelPins :=
  let p := s.su.applied
  if p.enabled = false ∨ scanning s = false then { clock := false, hSync := false, vSync := false, data := 0 }
  else
    let line := currentLine s
    let x := frameAge s % lineTicks p / p.divisor
    let inH := decide (p.width + p.hFront ≤ x ∧ x < p.width + p.hFront + p.hSync)
    let active := decide (x < p.width ∧ leadLines p ≤ line ∧ line < leadLines p + p.height)
    { clock := pixelClock p (frameAge s), hSync := inH == p.hActiveHigh
      vSync := decide (line < p.vSync) == p.vActiveHigh
      data := if active then pixelColour s x (line - leadLines p) else 0 }

/-! ### The frame boundary (R153, R154) -/

/-- The SU takes up its tables and the front-frame view for the frame that begins now (R154, R159). -/
def takeUp (now : Time) (su : Su) : Su :=
  { su with applied := su.panel, appliedPalette := su.palette, appliedCursors := su.cursors
            frameView := su.frontView, frameStart := now, shown := none, read := none, resizing := false }

/-- The fill of both frame buffers under the stored regions and panel, from the lowest block up (R45, R47,
R153; assumption 50). -/
def fillBoth (kind : FillKind) (s : State) : Fill :=
  { kind := kind, next := s.mp.regions.symbolEnd
    left := 2 * bufferBlocks s.su.panel.width s.su.panel.height }

/-- A new active size takes effect at the boundary: the front-frame view goes and the fill begins (R153). -/
def applyResize (s : State) : State :=
  if s.su.resizing then { s with su.frontView := none, mp.fill := some (fillBoth .panel s) } else s

/-- What the SU does at a frame boundary, once a render in WaitFlip has flipped (R153, R154). -/
def beginFrame (s : State) : State :=
  let s1 := applyResize s
  { s1 with su := takeUp s1.time s1.su }

end Sys2Proof.Machine
end

