-- ==== Sys2Proof/Machine/Lanes.lean ====
section
/-! DEFINITION. The Decode Lanes (chapter 5): the deglitch filter and the decoders of the four kinds, as
functions of a lane alone. What a lane emits goes on in Machine/Symbols.lean. -/

namespace Sys2Proof.Machine

/-! ### Tags (R114, R185) -/

/-- The Parity tag. -/
def tagParity : Byte := 0x01
/-- The Framing tag. -/
def tagFraming : Byte := 0x02
/-- The Short tag. -/
def tagShort : Byte := 0x04
/-- The Lost tag. -/
def tagLost : Byte := 0x08
/-- The Timeout tag. -/
def tagTimeout : Byte := 0x10
/-- The Nack tag. -/
def tagNack : Byte := 0x20
/-- The Wide tag. -/
def tagWide : Byte := 0x40
/-- The Read tag. -/
def tagRead : Byte := 0x80

/-- A tag if a condition holds, and no tag otherwise. -/
def tagIf (b : Bool) (t : Byte) : Byte := if b then t else 0

/-! ### What a decoder sees and gives -/

/-- A symbol as a decoder gives it, before its lane adds lane number and frame position (R92). -/
structure Emitted where
  kind  : SymbolKind
  value : Nat
  start : Time
  stop  : Time
  tags  : Byte
  deriving DecidableEq, Repr

/-- The sample a lane processes: its stamp, the ticks of its period, the filtered levels of the sample
processed before it, and its own (R90, R91). -/
structure LaneSample where
  stamp    : Time
  period   : Nat
  previous : Option Word
  current  : Word
  deriving DecidableEq, Repr

/-- What processing gives: the decoder after it, the symbols in order, and the false starts counted. -/
structure LaneResult where
  decoder     : Decoder
  symbols     : List Emitted
  falseStarts : Nat
  deriving DecidableEq, Repr

/-- The level of a channel. -/
def levelOf (w : Word) (k : Fin 32) : Bool := w.getLsbD k.val

/-- The level of an optional channel, and a default where none is assigned. -/
def levelOr (w : Word) (d : Bool) (k : Option (Fin 32)) : Bool :=
  match k with
  | some c => levelOf w c
  | none => d

/-- A channel goes from one level to another between the sample before and this one. -/
def goes (x : LaneSample) (k : Fin 32) (f t : Bool) : Bool :=
  match x.previous with
  | some w => levelOf w k == f && levelOf x.current k == t
  | none => false

/-- A time lies within the sample's period. -/
def inPeriod (x : LaneSample) (t : Time) : Bool :=
  atOrBefore x.stamp t && before t (addTicks x.stamp x.period)

/-- A time lies within the sample's period or before it. -/
def reached (x : LaneSample) (t : Time) : Bool := before t (addTicks x.stamp x.period)

/-- A Start at a time (R92). -/
def startAt (t : Time) : Emitted := { kind := .start, value := 0, start := t, stop := t, tags := 0 }

/-- A Stop at a time with its tags (R92). -/
def stopAt (t : Time) (tags : Byte) : Emitted :=
  { kind := .stop, value := 0, start := t, stop := t, tags := tags }

/-- A frame just opened by a Start. -/
def openFrame : Frame := { isOpen := true, latest := none, interval := none, passed := false }

/-- A frame with a new latest event (R93). -/
def frameEvent (f : Frame) (t : Time) : Frame :=
  { f with latest := some t, interval := f.latest.map fun e => ticksAfter t e }

/-- The number some bits form, the first the least significant. -/
def lsbValue : List Bool → Nat
  | [] => 0
  | b :: bs => flag b + 2 * lsbValue bs

/-! ### The gap deadline (R93) -/

/-- G periods of ticks between the two latest events, at least one sample period each (R93). -/
def gapTicks (gap period : Nat) (f : Frame) : Nat := gap * max period (f.interval.getD 0)

/-- The gap deadline of a lane's open frame, where it has one (R93). For Async it counts only while
Hunting. -/
def gapDeadline (e : LaneEntry) (period : Nat) (d : Decoder) : Option Time :=
  if d.frame.isOpen then
    match d.frame.latest, e.kind with
    | some t, .async p => if d.async = .hunting then some (addTicks t (e.gap * p.bq / 256)) else none
    | some t, .clocked p =>
      if p.select.isNone then some (addTicks t (gapTicks e.gap period d.frame)) else none
    | some t, .strobed _ => some (addTicks t (gapTicks e.gap period d.frame))
    | _, _ => none
  else none

/-- A strobe was low in the sample processed before (R93, R109). -/
def strobeWasLow (p : StrobedParams) (x : LaneSample) : Bool :=
  match x.previous with
  | some w => !levelOf w p.dataStrobe || !levelOr w true p.addressStrobe
  | none => false

/-- The tick of the Stop that this sample brings by the gap timeout, if it brings one (R93, R109). -/
def gapStopTime (e : LaneEntry) (x : LaneSample) (d : Decoder) : Option Time :=
  match e.kind with
  | .strobed p =>
    if strobeWasLow p x then none
    else if d.frame.isOpen && d.frame.passed then some x.stamp
    else (gapDeadline e x.period d).filter (reached x)
  | _ => (gapDeadline e x.period d).filter (reached x)

/-! ### Clocked words (R98 to R101) -/

/-- The Data of a word, and its DataB when channel B is assigned, with their tags (R99, R100). -/
def wordSymbols (p : ClockedParams) (w : ClockedWord) (tags : Byte) : List Emitted :=
  let data := { kind := .data, value := w.a.toNat, start := w.first, stop := w.last, tags := tags }
  let dataB := { kind := .dataB, value := w.b.toNat, start := w.first, stop := w.last, tags := tags }
  if p.dataB.isSome then [data, dataB] else [data]

/-- A word in progress cut short, if it has a bit (R100, R101). -/
def shortWord (p : ClockedParams) (w : ClockedWord) : List Emitted :=
  if w.bits = 0 then [] else wordSymbols p w tagShort

/-- A value with one more bit (R98). -/
def appendBit (msbFirst : Bool) (bits : Nat) (v : Word) (b : Bool) : Word :=
  if msbFirst then (v <<< 1) ||| (if b then 1 else 0) else v ||| (if b then 1#32 <<< bits else 0)

/-- The word in progress with the bits of a taken edge (R98). -/
def takeBit (p : ClockedParams) (x : LaneSample) (w : ClockedWord) : ClockedWord :=
  { bits := w.bits + 1
    a := appendBit p.msbFirst w.bits w.a (levelOf x.current p.dataA)
    b := appendBit p.msbFirst w.bits w.b (levelOr x.current false p.dataB)
    first := if w.bits = 0 then x.stamp else w.first
    last := x.stamp }

/-- The Stop of a passed gap deadline, before anything else the lane does for the sample: a Clocked word in
progress goes out short before it (R93, R101, R109). -/
def gapStop (e : LaneEntry) (x : LaneSample) (d : Decoder) : Decoder × List Emitted :=
  match gapStopTime e x d with
  | none => (d, [])
  | some t =>
    let cut := match e.kind with
      | .clocked p => shortWord p d.clocked
      | _ => []
    ({ d with frame := closedFrame, clocked := emptyWord }, cut ++ [stopAt t 0])

/-- This sample holds an active edge of the clock (R98). -/
def activeEdge (p : ClockedParams) (x : LaneSample) : Bool :=
  if p.fallingEdge then goes x p.clock true false else goes x p.clock false true

/-- A taken edge: a bit enters the word, and a full word goes out (R98, R99). -/
def takeEdge (p : ClockedParams) (x : LaneSample) (d : Decoder) : Decoder × List Emitted :=
  let w := takeBit p x d.clocked
  let frame := frameEvent d.frame x.stamp
  if w.bits ≥ p.wordSize then ({ d with clocked := emptyWord, frame := frame }, wordSymbols p w 0)
  else ({ d with clocked := w, frame := frame }, [])

/-- A Clocked lane with a select channel processes a sample (R98 to R100). -/
def selectedStep (p : ClockedParams) (sel : Fin 32) (x : LaneSample) (d : Decoder) :
    Decoder × List Emitted :=
  if goes x sel (!p.selectHigh) p.selectHigh then
    let d1 := { d with frame := openFrame, clocked := emptyWord }
    if activeEdge p x then
      let r := takeEdge p x d1
      (r.1, startAt x.stamp :: r.2)
    else (d1, [startAt x.stamp])
  else if goes x sel p.selectHigh (!p.selectHigh) then
    if d.frame.isOpen then
      ({ d with frame := closedFrame, clocked := emptyWord },
        shortWord p d.clocked ++ [stopAt x.stamp 0])
    else (d, [])
  else if d.frame.isOpen && levelOf x.current sel == p.selectHigh && activeEdge p x then takeEdge p x d
  else (d, [])

/-- A Clocked lane without a select channel processes a sample (R98, R99, R101). -/
def unselectedStep (p : ClockedParams) (x : LaneSample) (d : Decoder) : Decoder × List Emitted :=
  if activeEdge p x then
    if d.frame.isOpen then takeEdge p x d
    else
      let r := takeEdge p x { d with frame := openFrame, clocked := emptyWord }
      (r.1, startAt x.stamp :: r.2)
  else (d, [])

/-- A Clocked lane processes a sample. -/
def clockedStep (p : ClockedParams) (x : LaneSample) (d : Decoder) : LaneResult :=
  let r := match p.select with
    | some sel => selectedStep p sel x d
    | none => unselectedStep p x d
  { decoder := r.1, symbols := r.2, falseStarts := 0 }

/-! ### Async (R94 to R97) -/

/-- The bit cells of a character: K (R94). -/
def asyncCells (p : AsyncParams) : Nat :=
  1 + p.dataBits + (if p.parity = .none then 0 else 1) + p.stopBits

/-- The instant of cell k: t0 + floor((2k + 1) × Bq / 512) (R95). -/
def asyncInstant (p : AsyncParams) (t0 : Time) (k : Nat) : Time := addTicks t0 ((2 * k + 1) * p.bq / 512)

/-- The parity cell matches the Parity field (R96). -/
def parityMatches (m : Parity) (data : List Bool) (cell : Bool) : Bool :=
  let ones := (data.filter id).length + flag cell
  match m with
  | .none => true
  | .even => ones % 2 == 0
  | .odd => ones % 2 == 1
  | .mark => cell
  | .space => !cell

/-- The Data or Break of a complete character (R96, R97). -/
def characterSymbol (p : AsyncParams) (t0 : Time) (cells : List Bool) : Emitted :=
  let stop := asyncInstant p t0 (asyncCells p - 1)
  if cells.all (· == !p.idleHigh) then { kind := .brk, value := 0, start := t0, stop := stop, tags := 0 }
  else
    let data := (cells.drop 1).take p.dataBits
    let parityOk := parityMatches p.parity data (cells.getD (1 + p.dataBits) false)
    let stopsOk := (cells.drop (asyncCells p - p.stopBits)).all (· == p.idleHigh)
    { kind := .data, value := lsbValue (if p.msbFirst then data.reverse else data), start := t0
      stop := stop, tags := tagIf (!parityOk) tagParity ||| tagIf (!stopsOk) tagFraming }

/-- An Async lane processes a sample (R94 to R97). -/
def asyncStep (p : AsyncParams) (x : LaneSample) (d : Decoder) : LaneResult :=
  let level := levelOf x.current p.data
  let stay : LaneResult := { decoder := d, symbols := [], falseStarts := 0 }
  match d.async with
  | .hunting =>
    if goes x p.data p.idleHigh (!p.idleHigh) then
      { decoder :=
          { d with async := .receiving x.stamp [], frame := if d.frame.isOpen then d.frame else openFrame }
        symbols := if d.frame.isOpen then [] else [startAt x.stamp]
        falseStarts := 0 }
    else stay
  | .receiving t0 cells =>
    let t := asyncInstant p t0 cells.length
    if inPeriod x t then
      if cells.isEmpty && level == p.idleHigh then
        { decoder := { d with async := .hunting, frame := frameEvent d.frame t }, symbols := []
          falseStarts := 1 }
      else
        let all := cells ++ [level]
        if all.length ≥ asyncCells p then
          let y := characterSymbol p t0 all
          { decoder :=
              { d with async := if y.kind = .brk then .waitIdle else .hunting
                       frame := frameEvent d.frame y.stop }
            symbols := [y], falseStarts := 0 }
        else { decoder := { d with async := .receiving t0 all }, symbols := [], falseStarts := 0 }
    else stay
  | .waitIdle =>
    if level = p.idleHigh then
      { decoder := { d with async := .hunting, frame := frameEvent d.frame x.stamp }, symbols := []
        falseStarts := 0 }
    else stay

/-! ### TwoWire (R102 to R106) -/

/-- The Timeout tag of a timeout not yet placed goes to the next symbol the lane emits (R106). -/
def placeTimeout (st : TwoWireState) (ys : List Emitted) : List Emitted :=
  match ys with
  | [] => []
  | y :: rest => { y with tags := y.tags ||| tagIf st.timeout tagTimeout } :: rest

/-- The Address of a kept ten-bit first byte with n bits of the second byte: the kept bits stand above
them (R104, R105). -/
def keptSymbol (k : KeptAddress) (bits value : Nat) (stop : Time) (tags : Byte) : Emitted :=
  { kind := .address, value := k.upper * 2 ^ bits + value, start := k.start, stop := stop
    tags := tagWide ||| tags }

/-- What a condition cuts: the byte in progress, or a kept first byte, goes out with Short (R104, R105). A
short second byte of a ten-bit address starts at its own bit 1, as every cut byte does (R105). -/
def cutByte (st : TwoWireState) : List Emitted :=
  match st.expect with
  | .second k =>
    if st.bits = 0 then
      [keptSymbol k 0 0 k.stop (tagShort ||| tagIf k.read tagRead ||| tagIf k.nack tagNack)]
    else
      [{ keptSymbol k st.bits st.value st.last
          (tagShort ||| tagIf (st.bits == 8 && st.value % 2 == 1) tagRead) with start := st.first }]
  | .address =>
    if st.bits = 0 then []
    else
      [{ kind := .address, value := st.value, start := st.first, stop := st.last
         tags := tagShort ||| tagIf (st.bits == 8 && st.value % 2 == 1) tagRead }]
  | .data =>
    if st.bits = 0 then []
    else
      [{ kind := .data, value := st.value, start := st.first, stop := st.last
         tags := tagShort ||| tagIf st.read tagRead }]

/-- A start condition (R102). -/
def startCondition (x : LaneSample) (d : Decoder) : Decoder × List Emitted :=
  let st := d.twoWire
  let kind : SymbolKind := if d.frame.isOpen then .restart else .start
  let y := { kind := kind, value := 0, start := x.stamp, stop := x.stamp, tags := 0 }
  ({ d with frame := if d.frame.isOpen then d.frame else openFrame, twoWire := idleTwoWire },
    placeTimeout st (if d.frame.isOpen then cutByte st ++ [y] else [y]))

/-- A stop condition (R102). -/
def stopCondition (x : LaneSample) (d : Decoder) : Decoder × List Emitted :=
  if d.frame.isOpen then
    ({ d with frame := closedFrame, twoWire := idleTwoWire },
      placeTimeout d.twoWire (cutByte d.twoWire ++ [stopAt x.stamp 0]))
  else (d, [])

/-- The state after the symbol of a complete byte: no byte in progress, Data expected, the timeout placed. -/
def afterByte (st : TwoWireState) (read : Bool) : TwoWireState :=
  { st with expect := .data, read := read, bits := 0, value := 0, timeout := false }

/-- Bit 9 of a byte: the byte is complete (R103, R104). -/
def completeByte (x : LaneSample) (st : TwoWireState) (ack : Bool) : TwoWireState × List Emitted :=
  match st.expect with
  | .address =>
    let read := st.value % 2 == 1
    if st.value / 8 = 0b11110 then
      ({ st with expect := .second { start := st.first, upper := st.value / 2 % 4, read := read, nack := ack
                                     stop := x.stamp }
                 bits := 0, value := 0 }, [])
    else
      (afterByte st read,
        placeTimeout st
          [{ kind := .address, value := st.value / 2, start := st.first, stop := x.stamp
             tags := tagIf read tagRead ||| tagIf ack tagNack }])
  | .second k =>
    (afterByte st k.read,
      placeTimeout st
        [keptSymbol k 8 st.value x.stamp (tagIf k.read tagRead ||| tagIf (k.nack || ack) tagNack)])
  | .data =>
    (afterByte st st.read,
      placeTimeout st
        [{ kind := .data, value := st.value, start := st.first, stop := x.stamp
           tags := tagIf ack tagNack ||| tagIf st.read tagRead }])

/-- A clock rising edge while the frame is open: a bit of the byte in progress (R103). -/
def takeWireBit (p : TwoWireParams) (x : LaneSample) (st : TwoWireState) : TwoWireState × List Emitted :=
  let b := levelOf x.current p.data
  if st.bits ≥ 8 then completeByte x st b
  else
    ({ st with bits := st.bits + 1, value := 2 * st.value + flag b
               first := if st.bits = 0 then x.stamp else st.first, last := x.stamp }, [])

/-- This sample carries the clock's low interval past the stretch limit for the first time (R106). -/
def stretchReached (p : TwoWireParams) (x : LaneSample) (d : Decoder) : Bool :=
  d.frame.isOpen && !levelOf x.current p.clock && decide (p.stretch < d.twoWire.low + 1) &&
    !d.twoWire.marked

/-- A timeout marked for the low interval in progress (R106). -/
def markTimeout (d : Decoder) : Decoder :=
  { d with twoWire := { d.twoWire with marked := true, timeout := true } }

/-- The watch on the clock held low (R106). -/
def watchClock (p : TwoWireParams) (x : LaneSample) (d : Decoder) : Decoder :=
  let d1 := if stretchReached p x d then markTimeout d else d
  if levelOf x.current p.clock then { d1 with twoWire := { d1.twoWire with low := 0, marked := false } }
  else { d1 with twoWire := { d1.twoWire with low := d1.twoWire.low + 1 } }

/-- The data line changes from one level to the other while the clock reads 1 in both samples (R102). -/
def wireCondition (p : TwoWireParams) (x : LaneSample) (f t : Bool) : Bool :=
  goes x p.data f t && goes x p.clock true true

/-- A TwoWire lane processes a sample (R102 to R106). -/
def twoWireStep (p : TwoWireParams) (x : LaneSample) (d0 : Decoder) : LaneResult :=
  let d := watchClock p x d0
  let r : Decoder × List Emitted :=
    if wireCondition p x true false then startCondition x d
    else if wireCondition p x false true then stopCondition x d
    else if d.frame.isOpen && goes x p.clock false true then
      let q := takeWireBit p x d.twoWire
      ({ d with twoWire := q.1 }, q.2)
    else (d, [])
  { decoder := r.1, symbols := r.2, falseStarts := 0 }

/-! ### Strobed (R107 to R109) -/

/-- Wait is assigned and reads 0 in this sample (R108). -/
def waitActive (p : StrobedParams) (x : LaneSample) : Bool := !levelOr x.current true p.wait

/-- A recorded cycle seen in one more sample: wait counts up to the handshake limit (R108). -/
def ageCycle (p : StrobedParams) (x : LaneSample) (c : StrobeCycle) : StrobeCycle :=
  { c with samples := c.samples + 1
           seen := c.seen || (decide (c.samples + 1 ≤ p.limit) && waitActive p x) }

/-- The cycle a fall begins (R107, R108). -/
def newCycle (p : StrobedParams) (x : LaneSample) : StrobeCycle :=
  { start := x.stamp, samples := 0, seen := waitActive p x }

/-- The symbol of a released strobe with a recorded fall (R107, R108). -/
def strobeSymbol (p : StrobedParams) (x : LaneSample) (kind : SymbolKind) (c : StrobeCycle) : Emitted :=
  { kind := kind, value := (x.current.toNat / 2 ^ p.base.val) % 2 ^ p.width, start := c.start
    stop := x.stamp
    tags := tagIf (levelOr x.current false p.direction) tagRead |||
      tagIf (p.wait.isSome && !c.seen) tagTimeout }

/-- One strobe's part of a sample: its cycle after it and the symbol its release emits (R107). -/
def strobeStep (p : StrobedParams) (x : LaneSample) (kind : SymbolKind) (strobe : Option (Fin 32))
    (cycle : Option StrobeCycle) : Option StrobeCycle × List Emitted :=
  match strobe with
  | none => (none, [])
  | some k =>
    if goes x k true false then (some (newCycle p x), [])
    else if goes x k false true then
      (none, (cycle.map fun c => strobeSymbol p x kind (ageCycle p x c)).toList)
    else (cycle.map (ageCycle p x), [])

/-- A strobe falls, or is released, in this sample (R107). -/
def strobeGoes (p : StrobedParams) (x : LaneSample) (f t : Bool) : Bool :=
  goes x p.dataStrobe f t || (match p.addressStrobe with | some k => goes x k f t | none => false)

/-- Both strobes are released in this sample (R107). -/
def bothReleased (p : StrobedParams) (x : LaneSample) : Bool :=
  goes x p.dataStrobe false true &&
    (match p.addressStrobe with | some k => goes x k false true | none => false)

/-- The frame after a sample: each release is a latest event, so two releases in one sample lie 0 ticks
apart, and a deadline that a cycle outlasted is remembered until both strobes are high. A deadline at the
release sample's stamp counts as passed during the cycle; one later in that sample's period is moved by the
release (R93, R109; assumption 52). -/
def strobedFrame (e : LaneEntry) (p : StrobedParams) (x : LaneSample) (d : Decoder) (f : Frame) : Frame :=
  if strobeGoes p x false true then
    let late := (gapDeadline e x.period d).any fun t => atOrBefore t x.stamp
    let g := frameEvent f x.stamp
    { (if bothReleased p x then frameEvent g x.stamp else g) with passed := f.passed || late }
  else f

/-- A Strobed lane processes a sample (R107 to R109). -/
def strobedStep (e : LaneEntry) (p : StrobedParams) (x : LaneSample) (d : Decoder) : LaneResult :=
  let opens := !d.frame.isOpen && strobeGoes p x true false
  let frame := if opens then openFrame else d.frame
  let a := strobeStep p x .address p.addressStrobe d.strobed.address
  let b := strobeStep p x .data (some p.dataStrobe) d.strobed.data
  { decoder := { d with strobed := { data := b.1, address := a.1 }, frame := strobedFrame e p x d frame }
    symbols := (if opens then [startAt x.stamp] else []) ++ a.2 ++ b.2
    falseStarts := 0 }

/-! ### Processing one sample -/

/-- What the decoder of the lane's kind does for a sample. -/
def kindStep (e : LaneEntry) (x : LaneSample) (d : Decoder) : LaneResult :=
  match e.kind with
  | .async p => asyncStep p x d
  | .clocked p => clockedStep p x d
  | .twoWire p => twoWireStep p x d
  | .strobed p => strobedStep e p x d

/-- The decoder processes a sample: first the Stop of a passed gap deadline, then its kind's rules (R93). -/
def decodeSample (e : LaneEntry) (x : LaneSample) (d : Decoder) : LaneResult :=
  let g := gapStop e x d
  let r := kindStep e x g.1
  { r with symbols := g.2 ++ r.symbols }

/-! ### The deglitch filter (R91) -/

/-- The bits in which every sample of a list agrees with a word. -/
def agreeing (w : Word) : List Sample → Word
  | [] => BitVec.allOnes 32
  | x :: xs => ~~~(x.levels ^^^ w) &&& agreeing w xs

/-- The number of bits set. -/
def countBits (w : Word) : Nat := ((List.range 32).filter fun i => w.getLsbD i).length

/-- The channels a lane assigns, as bits. -/
def laneMask (k : LaneKind) : Word := (laneChannels k).foldl (fun w i => w ||| (1#32 <<< i)) 0

/-- The filtered levels of a sample, given the raw and filtered levels before it and the samples after it
up to the span: a change is taken where it holds in all of them (R91). -/
def filteredLevels (before : Option Word) (x : Sample) (ahead : List Sample) : Word :=
  match before with
  | none => x.levels
  | some f => f ^^^ ((x.levels ^^^ f) &&& agreeing x.levels ahead)

/-- The glitches a sample begins on assigned channels: its raw level departs from the filtered level, the
raw level before it did not, and the departure does not hold (R91). -/
def glitchesAt (mask : Word) (rawBefore filteredBefore : Option Word) (x : Sample) (ahead : List Sample) :
    Nat :=
  match rawBefore, filteredBefore with
  | some r, some f =>
    countBits ((x.levels ^^^ f) &&& ~~~(r ^^^ f) &&& ~~~(agreeing x.levels ahead) &&& mask)
  | _, _ => 0

/-- A lane processes one released sample; the list holds the samples still awaiting release (R90, R91). -/
def processReleased (e : LaneEntry) (period : Nat) (x : Sample) (ahead : List Sample) (l : Lane) :
    Lane × List Emitted :=
  let f := if e.deglitch ≤ 1 then x.levels else filteredLevels l.filtered x (ahead.take (e.deglitch - 1))
  let g := if e.deglitch ≤ 1 then 0
    else glitchesAt (laneMask e.kind) l.raw l.filtered x (ahead.take (e.deglitch - 1))
  let r := decodeSample e { stamp := x.stamp, period := period, previous := l.filtered, current := f }
    l.decoder
  ({ l with window := ahead, raw := some x.levels, filtered := some f, decoder := r.decoder
            counters := { l.counters with
              glitches := saturate32 (l.counters.glitches + g)
              falseStarts := saturate32 (l.counters.falseStarts + r.falseStarts) } },
    r.symbols)

/-- A lane takes a sample: with span 0 or 1 it processes it, with a larger span D it processes the sample
D − 1 before it (R91). -/
def laneTake (e : LaneEntry) (period : Nat) (x : Sample) (l : Lane) : Lane × List Emitted :=
  match l.window ++ [x] with
  | [] => (l, [])
  | y :: ahead =>
    if ahead.length + 1 ≥ max 1 e.deglitch then processReleased e period y ahead l
    else ({ l with window := y :: ahead }, [])

/-- At the end of a run the lane processes the samples its filter still holds (R91, R112). -/
def laneFlush (e : LaneEntry) (period : Nat) : List Sample → Lane → Lane × List Emitted
  | [], l => (l, [])
  | y :: ahead, l =>
    let r := processReleased e period y ahead l
    let q := laneFlush e period ahead r.1
    (q.1, r.2 ++ q.2)

/-- The sample a lane would process if the sample x were taken now, and the filtered levels it would see. -/
def nextReleased (e : LaneEntry) (period : Nat) (x : Sample) (l : Lane) : Option LaneSample :=
  match l.window ++ [x] with
  | [] => none
  | y :: ahead =>
    if ahead.length + 1 ≥ max 1 e.deglitch then
      some { stamp := y.stamp, period := period, previous := l.filtered
             current := if e.deglitch ≤ 1 then y.levels
               else filteredLevels l.filtered y (ahead.take (e.deglitch - 1)) }
    else none

/-! ### Start and end of a run (R90, R112, R113) -/

/-- A lane that starts a run afresh, with its counters cleared (R90, R111, R115, R117, R119). -/
def startLane (mode : LaneMode) (l : Lane) : Lane :=
  { idleLane with mode := mode, fifo := l.fifo }

/-- A lane whose counters are cleared (R111). -/
def clearCounters (l : Lane) : Lane := { l with counters := zeroCounters }

/-- A lane after its run: incomplete symbols are discarded, a pending gap deadline is cancelled, an open
frame receives no Stop, and the FX span buffer is empty (R112, R119). -/
def endLane (l : Lane) : Lane :=
  { l with mode := .idle, window := [], raw := none, filtered := none, fx := []
           decoder := { freshDecoder with frame := { closedFrame with isOpen := l.decoder.frame.isOpen } } }

/-! ### Items in progress (R121) -/

/-- The hold-back times of a lane's items in progress (R121). -/
def holdBacks (k : LaneKind) (d : Decoder) : List Time :=
  match k with
  | .async _ =>
    match d.async with
    | .receiving t0 _ => [addTicks t0 Config.maxDuration]
    | _ => []
  | .clocked _ =>
    if d.clocked.bits = 0 then [] else [d.clocked.last, addTicks d.clocked.first Config.maxDuration]
  | .twoWire _ =>
    let byte := if d.twoWire.bits = 0 then []
      else [d.twoWire.last, addTicks d.twoWire.first Config.maxDuration]
    match d.twoWire.expect with
    | .second a =>
      (if d.twoWire.bits = 0 then [a.stop] else byte) ++ [addTicks a.start Config.maxDuration]
    | _ => byte
  | .strobed _ =>
    (d.strobed.data.toList ++ d.strobed.address.toList).map fun c => addTicks c.start Config.maxDuration

end Sys2Proof.Machine
end

