-- ==== Sys2Proof/Machine/Trigger.lean ====
section
/-! DEFINITION. The Trigger Sequencer (chapter 4): terms, counters, branches, one evaluation, and the run
states, as functions of the sequencer alone. The capture engine calls them in Machine/Capture.lean. -/

namespace Sys2Proof.Machine

/-- What an evaluation presents (R64): the stamps of the sample and of the sample after it, the tick at
which the prescaler was cleared and whether the sample was taken at that very tick, the levels, the levels
of the sample before, and the symbols. -/
structure Presented where
  stamp    : Time
  next     : Time
  cleared  : Time
  atClear  : Bool
  levels   : Word
  previous : Option Word
  symbols  : List Symbol
  deriving DecidableEq, Repr

/-! ### Terms (R66 to R70) -/

/-- A set of bits holds the bit of a number. -/
def setHolds (set : Byte) (n : Nat) : Bool := set.toNat.testBit n

/-- A channel changed in a direction from the sample before to this one; false in sample 0 (R67, R77). -/
def edgeSeen (x : Presented) (k : Fin 32) (p : Polarity) : Bool :=
  match x.previous with
  | none => false
  | some w =>
    match p with
    | .rising => !levelOf w k && levelOf x.levels k
    | .falling => levelOf w k && !levelOf x.levels k
    | .either => levelOf w k != levelOf x.levels k

/-- A symbol matches a Symbol term (R68). -/
def symbolMatches (l : Fin 4) (kinds required forbidden : Byte) (mask value : Word) (y : Symbol) : Bool :=
  y.lane == l && setHolds kinds (symbolKindCode y.kind) && (y.value &&& mask) == (value &&& mask) &&
    (y.tags &&& required) == required && (y.tags &&& forbidden) == 0

/-- A value meets the sense of a Field term (R69). -/
def meetsSense (sense : Sense) (low high value : Word) : Bool :=
  match sense with
  | .inside => decide (low.toNat ≤ value.toNat ∧ value.toNat ≤ high.toNat)
  | .outside => decide (value.toNat < low.toNat ∨ high.toNat < value.toNat)

/-- A kind's test, with the expiries that CounterExpired terms read (R67 to R70). -/
def kindTest (x : Presented) (expired : Vector Bool 2) : TermKind → Bool
  | .never => false
  | .pattern mask value => (x.levels &&& mask) == (value &&& mask)
  | .edge k p => edgeSeen x k p
  | .symbol l kinds required forbidden mask value =>
    x.symbols.any (symbolMatches l kinds required forbidden mask value)
  | .field f sense low high =>
    x.symbols.any fun y => y.kind == .field && y.position == f.val && meetsSense sense low high y.value
  | .counterExpired c => expired[c]

/-- The truth of a term (R66). -/
def termTrue (x : Presented) (expired : Vector Bool 2) (t : Term) : Bool :=
  (kindTest x expired t.kind) != t.negate

/-! ### Counters (R75 to R78) -/

/-- The multiples of k among the n numbers from a on. -/
def multiplesIn (k a n : Nat) : Nat := (a + n + k - 1) / k - (a + k - 1) / k

/-- The ticks at which the prescaler becomes a multiple of 2^p in a period of n ticks that begins a ticks,
modulo 2^48, after it was cleared; the tick of the clearing itself makes no event (R8, R77). -/
def prescalerEvents (p a n : Nat) (atClear : Bool) : Nat := multiplesIn (2 ^ p) a n - flag atClear

/-- The events of a counter's source in the sample (R77). In state capture a pause of the clock lies in the
period of the sample before it, and its prescaler events count with that sample (R64; assumption 66). -/
def sourceEvents (ts : Ts) (x : Presented) : CounterSource → Nat
  | .samples => 1
  | .ticks p => prescalerEvents p.val (elapsed x.stamp x.cleared) (elapsed x.next x.stamp) x.atClear
  | .termTrue j => flag (termTrue x ts.lastExpiry ts.terms[j])
  | .edge k p => flag (edgeSeen x k p)

/-- A counter's count in one sample: its state after it and whether it expired (R77, R78). A counter whose
expiry a COUNTER_EXPIRY step has already taken does not count again. -/
def countCounter (e : CounterEntry) (events : Nat) (c : CounterState) : CounterState × Bool :=
  if c.expiredEarly then ({ c with expiredEarly := false }, true)
  else if c.running = true ∧ 0 < events then
    if c.value ≤ events then
      (if e.autoReload then { c with value := e.preload } else { c with running := false, value := 0 }, true)
    else ({ c with value := c.value - events }, false)
  else (c, false)

/-- The count of counter i in the sample (R79, step 2). -/
def countOf (ts : Ts) (x : Presented) (i : Fin 2) : CounterState × Bool :=
  countCounter ts.counterTable[i] (sourceEvents ts x ts.counterTable[i].source) ts.counters[i]

/-- A counter that expires in this evaluation has its expiry taken ahead of the other steps (R78). -/
def expireEarly (i : Fin 2) (ts : Ts) (x : Presented) : Option Ts :=
  if ts.counters[i].expiredEarly then none
  else match countOf ts x i with
    | (c, true) => some { ts with counters := ts.counters.set i { c with expiredEarly := true } }
    | (_, false) => none

/-- A branch's action on a counter (R76). -/
def counterAction (e : CounterEntry) (a : CounterAction) (c : CounterState) : CounterState :=
  match a with
  | .none => c
  | .start => { c with running := true, value := e.preload }
  | .stop => { c with running := false }

/-! ### Branches (R72, R73) -/

/-- A branch's condition (R72). -/
def conditionHolds (b : Branch) (truth : Fin 16 → Bool) : Bool :=
  if b.terms.isEmpty then false else if b.any then b.terms.any truth else b.terms.all truth

/-- A branch's occurrence count after a sample (R72). -/
def advanceCount (b : Branch) (condition : Bool) (count : Nat) : Nat :=
  if condition then count + 1 else if b.consecutive then 0 else count

/-- The history with one more entry, sixteen at most (R83). -/
def appendHistory (h : List HistoryEntry) (e : HistoryEntry) : List HistoryEntry :=
  if h.length < Config.historyDepth then h ++ [e] else h.drop 1 ++ [e]

/-- A branch of a stage is taken (R73, R74). -/
def takeBranch (ts : Ts) (n : Fin 8) (secondary : Bool) (b : Branch) (stamp : Time) :
    Ts × Option (Fin 8) :=
  let c0 := counterAction ts.counterTable[0] b.action0 ts.counters[0]
  let c1 := counterAction ts.counterTable[1] b.action1 ts.counters[1]
  let entry := { stage := n, secondary := secondary, target := b.target, time := stamp }
  let ts1 := { ts with counters := #v[c0, c1], history := appendHistory ts.history entry }
  match b.target with
  | .stage k => ({ ts1 with stage := some k, primary := 0, secondary := 0 }, none)
  | .stay => ({ ts1 with primary := 0, secondary := 0 }, none)
  | .fire =>
    ({ ts1 with run := .fired, triggerTime := some stamp, triggerCause := some (.stage n) }, some n)

/-- The branches' step of an evaluation: both counts advance and at most one branch is taken (R79). -/
def stepBranches (ts : Ts) (n : Fin 8) (truth : Fin 16 → Bool) (stamp : Time) : Ts × Option (Fin 8) :=
  let g := ts.stages[n]
  let p := advanceCount g.primary (conditionHolds g.primary truth) ts.primary
  let q := advanceCount g.secondary (conditionHolds g.secondary truth) ts.secondary
  let ts1 := { ts with primary := p, secondary := q }
  if g.primary.count ≤ p then takeBranch ts1 n false g.primary stamp
  else if g.secondary.count ≤ q then takeBranch ts1 n true g.secondary stamp
  else (ts1, none)

/-! ### One evaluation (R64, R65, R79) -/

/-- The ticks from the first evaluated sample up to a sample evaluated now, 0 for the first one itself. They
are counted on from sample to sample, so they hold however long the capture lasts. -/
def ticksSinceFirst (ts : Ts) (stamp : Time) : Nat :=
  match ts.lastStamp with
  | some t => ts.sinceFirst + elapsed stamp t
  | none => 0

/-- The symbols waiting that the sample presents: they end before the next sample, and not in a sample
before the first evaluated one (R65). Field symbols too are placed by the end time they carry (R114;
assumption 60). -/
def presentedSymbols (ts : Ts) (stamp next : Time) : List Symbol :=
  ts.waiting.filter fun y =>
    before (symbolEnd y) next && decide (-(ticksSinceFirst ts stamp : Int) ≤ timeDiff (symbolEnd y) stamp)

/-- The symbols waiting that end at or after a time. -/
def stillWaiting (next : Time) (ys : List Symbol) : List Symbol :=
  ys.filter fun y => !before (symbolEnd y) next

/-- The sequencer once the sample has presented its symbols (R65). -/
def takePresented (ts : Ts) (stamp next : Time) : Ts :=
  { ts with waiting := stillWaiting next ts.waiting
            lastStamp := some stamp, sinceFirst := ticksSinceFirst ts stamp }

/-- A sample handled in PreFill goes by: the symbols that end in it are presented to no term (R65). -/
def passSymbols (next : Time) (ts : Ts) : Ts :=
  if ts.run = .off then { ts with waiting := stillWaiting next ts.waiting } else ts

/-- What the sample presents (R64). -/
def presentedOf (ts : Ts) (cleared : Time) (atClear : Bool) (stamp next : Time) (levels : Word)
    (previous : Option Word) : Presented :=
  { stamp := stamp, next := next, cleared := cleared, atClear := atClear, levels := levels
    previous := previous, symbols := presentedSymbols ts stamp next }

/-- One evaluation, in the order of R79: terms, counters, CounterExpired terms, branches. It gives the
sequencer after it and the stage that fired, if one did. -/
def evaluate (ts : Ts) (x : Presented) : Ts × Option (Fin 8) :=
  match ts.stage with
  | none => (ts, none)
  | some n =>
    let c0 := countOf ts x 0
    let c1 := countOf ts x 1
    let expired := #v[c0.2, c1.2]
    let ts1 := { takePresented ts x.stamp x.next with
      counters := #v[c0.1, c1.1], lastExpiry := expired }
    stepBranches ts1 n (fun j => termTrue x expired ts.terms[j]) x.stamp

/-! ### Run states (R80, R81) -/

/-- The sequencer enters Off (R80). -/
def offTs (ts : Ts) : Ts :=
  { ts with run := .off, stage := none, primary := 0, secondary := 0
            counters := #v[stoppedCounter, stoppedCounter], lastExpiry := #v[false, false], history := []
            triggerTime := none, triggerCause := none, waiting := [], lastStamp := none, sinceFirst := 0 }

/-- The sequencer enters Running, at the entry to Armed (R34, R80). -/
def runTs (ts : Ts) : Ts :=
  { ts with run := .running, stage := some 0, primary := 0, secondary := 0 }

/-- STOP, or an entry to Closing: from Running the sequencer becomes Halted (R80). -/
def haltTs (ts : Ts) : Ts :=
  if ts.run = .running then { ts with run := .halted } else ts

/-- A FORCE reaches the sequencer in PreFill or Armed: it becomes Fired with cause Forced (R81). The
trigger time is absent while the trigger sample is still to be taken. -/
def forceTs (time : Option Time) (ts : Ts) : Ts :=
  { ts with run := .fired, triggerTime := time, triggerCause := some .forced }

/-- A symbol of a lane or of the FX reaches the sequencer (R65). -/
def receiveSymbol (inPreFill : Bool) (y : Symbol) (ts : Ts) : Ts :=
  if ts.run = .running ∨ (ts.run = .off ∧ inPreFill = true) then { ts with waiting := ts.waiting ++ [y] }
  else ts

end Sys2Proof.Machine
end

