-- ==== Sys2Proof/Machine/Symbols.lean ====
section
/-! DEFINITION. Symbols, frames and fields (chapter 6): the emission of a symbol, the lane FIFOs, the Field
Extractor, and the Symbol Merger with its writes and its trim. -/

namespace Sys2Proof.Machine

/-! ### Symbols and frame positions (R92, R114, R115) -/

/-- A duration as a symbol carries it: end minus start, the signed difference of R7, saturating in the range
of R114 at both its ends; only a Field symbol over overlapping cycles ends before it starts (R120; assumption
53). -/
def carriedDuration (start stop : Time) : Nat := min (ticksAfter stop start) Config.maxDuration

/-- The frame position of a symbol, with the lane's word count and the position of its latest Data (R115). -/
def framePosition (kind : SymbolKind) (words dataPosition : Nat) : Nat :=
  match kind with
  | .start => 0
  | .dataB => dataPosition
  | _ => words

/-- The word count after a symbol (R115). -/
def nextWordCount (kind : SymbolKind) (words : Nat) : Nat :=
  match kind with
  | .start => 0
  | .address | .data => min (words + 1) 63
  | _ => words

/-- The symbol a lane emits, with its lane number and frame position (R92, R114). -/
def emittedSymbol (l : Fin 4) (lane : Lane) (e : Emitted) : Symbol :=
  { lane := l, kind := e.kind, value := BitVec.ofNat 32 e.value, start := e.start
    duration := carriedDuration e.start e.stop, tags := e.tags
    position := framePosition e.kind lane.wordCount lane.dataPosition }

/-- A tag counter after a symbol with some tags (R110). -/
def countTag (tags tag : Byte) (n : Nat) : Nat :=
  if tags &&& tag = 0 then n else saturate32 (n + 1)

/-- The tag counters after a symbol the decoder emitted (R110). -/
def countTags (tags : Byte) (c : LaneCounters) : LaneCounters :=
  { c with
    parity := countTag tags tagParity c.parity, framing := countTag tags tagFraming c.framing
    short := countTag tags tagShort c.short, timeout := countTag tags tagTimeout c.timeout
    nack := countTag tags tagNack c.nack, wide := countTag tags tagWide c.wide
    read := countTag tags tagRead c.read }

/-! ### The lane FIFO (R116) -/

/-- A symbol placed behind every symbol of a FIFO that ends at or before its own end (R116). -/
def insertSymbol (y : Symbol) : List Symbol → List Symbol
  | [] => [y]
  | z :: zs => if atOrBefore (symbolEnd z) (symbolEnd y) then z :: insertSymbol y zs else y :: z :: zs

/-- A lane after a symbol was offered to its FIFO with room (R116). -/
def acceptSymbol (y : Symbol) (l : Lane) : Lane :=
  { l with fifo := insertSymbol { y with tags := y.tags ||| tagIf l.pendingLost tagLost } l.fifo
           pendingLost := false
           counters := { l.counters with emitted := saturate32 (l.counters.emitted + 1) } }

/-- A lane after a symbol was offered to its full FIFO (R116). -/
def discardSymbol (l : Lane) : Lane :=
  { l with pendingLost := true
           counters := { l.counters with
             emitted := saturate32 (l.counters.emitted + 1), lost := saturate32 (l.counters.lost + 1) } }

/-- Symbols lost, counted in a segment (R53, R116). -/
def countLost (k : Nat) (g : SegmentStatus) : SegmentStatus :=
  { g with symbolLost := saturate32 (g.symbolLost + k) }

/-- The segment being filled counts symbols that were lost (R116). -/
def countFillingLost (k : Nat) (s : State) : State :=
  match s.ce.segment with
  | some n => modifySegment n (countLost k) s
  | none => s

/-- A symbol offered to its lane's FIFO: accepted, or discarded with its loss counted and, at the first
discard, LaneLost raised (R116). -/
def offerSymbol (l : Fin 4) (y : Symbol) (s : State) : State :=
  let lane := s.lanes[l]
  if lane.fifo.length < Config.fifoDepth then modifyLane l (acceptSymbol y) s
  else
    let s1 := modifyLane l discardSymbol s
    let s2 := if lane.mode = .running then countFillingLost 1 s1 else s1
    if lane.counters.lost = 0 then raiseNotice (.laneLost l) s2 else s2

/-- A symbol reaches the TS; one emitted in Replaying does not (R65, R92). -/
def offerToTs (l : Fin 4) (y : Symbol) (s : State) : State :=
  if s.lanes[l].mode = .running then
    { s with ts := receiveSymbol (s.ce.engine == .preFill) y s.ts }
  else s

/-- A symbol goes to the TS and then to its lane's FIFO (R92, R120). -/
def handOn (l : Fin 4) (y : Symbol) (s : State) : State := offerSymbol l y (offerToTs l y s)

/-! ### The Field Extractor (R118 to R120) -/

/-- A lane's word width (R120). -/
def wordWidth : LaneKind → Nat
  | .async p => p.dataBits
  | .clocked p => p.wordSize
  | .twoWire _ => 8
  | .strobed p => p.width

/-- The source held at a frame position. -/
def sourceAt (fx : List FxSource) (position : Nat) : Option FxSource :=
  fx.find? fun e => e.position == position

/-- The sources at n positions from one on, when the buffer holds them all (R120). -/
def sourcesFrom (fx : List FxSource) : Nat → Nat → Option (List FxSource)
  | _, 0 => some []
  | p, n + 1 => do
    let e ← sourceAt fx p
    let rest ← sourcesFrom fx (p + 1) n
    some (e :: rest)

/-- The concatenation of source values, the first most significant (R120). -/
def concatenation (width : Nat) (es : List FxSource) : Nat :=
  es.foldl (fun v e => v * 2 ^ width + e.value.toNat % 2 ^ width) 0

/-- The field value: extraction and inversion (R120). -/
def fieldValue (f : FieldEntry) (joined : Nat) : Nat :=
  let v := joined / 2 ^ f.startBit % 2 ^ f.width
  if f.invert then 2 ^ f.width - 1 - v else v

/-- The tags a Field symbol takes from its sources: Parity, Framing, Short and Timeout (R120). -/
def fieldTags (es : List FxSource) : Byte :=
  (es.foldl (fun t e => t ||| e.tags) 0) &&& (tagParity ||| tagFraming ||| tagShort ||| tagTimeout)

/-- The Field symbol of an entry from its sources (R120). -/
def fieldSymbol (number : Nat) (f : FieldEntry) (width : Nat) (es : List FxSource) : Symbol :=
  let start := (es.head?.map (·.start)).getD 0
  let stop := (es.getLast?.map (·.stop)).getD 0
  { lane := f.lane, kind := .field, value := BitVec.ofNat 32 (fieldValue f (concatenation width es))
    start := start, duration := carriedDuration start stop, tags := fieldTags es, position := number }

/-- The Field symbol an entry forms when its lane's source at a position has arrived (R120). -/
def formField (s : State) (l : Fin 4) (position : Nat) (number : Fin 32) : Option Symbol :=
  let f := s.fieldMap[number]
  if f.enable ∧ f.lane = l ∧ f.first + f.span - 1 = position then
    (sourcesFrom s.lanes[l].fx f.first f.span).map
      (fieldSymbol number.val f (wordWidth s.laneTable[l].kind))
  else none

/-- The Field symbols a source completes, in increasing order of field number (R120). -/
def formFields (s : State) (l : Fin 4) (position : Nat) : List Symbol :=
  (List.finRange 32).filterMap (formField s l position)

/-- A symbol is a source: an Address or a Data that is the first at its position (R119). -/
def isSource (fx : List FxSource) (y : Symbol) : Bool :=
  (y.kind == .address || y.kind == .data) && (sourceAt fx y.position).isNone

/-- The source a symbol is. -/
def sourceOf (y : Symbol) : FxSource :=
  { position := y.position, value := y.value, start := y.start, stop := symbolEnd y, tags := y.tags }

/-- The FX takes a symbol a lane emitted (R119, R120). -/
def extractFields (l : Fin 4) (y : Symbol) (s : State) : State :=
  let fx := s.lanes[l].fx
  if y.kind = .start ∨ y.kind = .stop then modifyLane l (fun q => { q with fx := [] }) s
  else if isSource fx y then
    let s1 := modifyLane l (fun q => { q with fx := fx ++ [sourceOf y] }) s
    (formFields s1 l y.position).foldl (fun t f => handOn l f t) s1
  else s

/-! ### Emission (R92) -/

/-- The lane notes a symbol it emits: word count, position of the latest Data, tag counters. -/
def noteEmission (y : Symbol) (l : Lane) : Lane :=
  { l with wordCount := nextWordCount y.kind l.wordCount
           dataPosition := if y.kind = .data then y.position else l.dataPosition
           counters := countTags y.tags l.counters }

/-- A lane emits a symbol: it goes to the TS, to the FIFO, and to the FX, whose Field symbols follow it
(R92, R119, R120). -/
def emitSymbol (l : Fin 4) (e : Emitted) (s : State) : State :=
  let y := emittedSymbol l s.lanes[l] e
  extractFields l y (handOn l y (modifyLane l (noteEmission y) s))

/-- A lane emits symbols in order. -/
def emitSymbols (l : Fin 4) (es : List Emitted) (s : State) : State :=
  es.foldl (fun t e => emitSymbol l e t) s

/-- A lane is given a sample of its stream (R90, R91). -/
def laneSample (period : Nat) (x : Sample) (s : State) (l : Fin 4) : State :=
  if s.lanes[l].mode = .idle then s
  else
    let r := laneTake s.laneTable[l] period x s.lanes[l]
    emitSymbols l r.2 (modifyLane l (fun _ => r.1) s)

/-- All lanes are given a sample of their stream, in order of lane. -/
def lanesSample (period : Nat) (x : Sample) (s : State) : State :=
  (List.finRange 4).foldl (laneSample period x) s

/-- A lane's run ends: it processes the samples its filter holds, discards what is incomplete, and is Idle,
from the entry to Closing on (R112 over R90; assumption 68). -/
def finishLane (period : Nat) (s : State) (l : Fin 4) : State :=
  if s.lanes[l].mode = .idle then s
  else
    let r := laneFlush s.laneTable[l] period s.lanes[l].window s.lanes[l]
    modifyLane l endLane (emitSymbols l r.2 (modifyLane l (fun _ => r.1) s))

/-- All lanes' runs end, in order of lane (R112). -/
def finishLanes (period : Nat) (s : State) : State := (List.finRange 4).foldl (finishLane period) s

/-- A lane that is On starts a run; the counters of every lane are cleared (R90, R111). -/
def startLaneRun (mode : LaneMode) (s : State) (l : Fin 4) : State :=
  modifyLane l (if s.laneTable[l].enable then startLane mode else clearCounters) s

/-- All lanes start a run (R90, R111). -/
def startLanes (mode : LaneMode) (s : State) : State := (List.finRange 4).foldl (startLaneRun mode) s

/-! ### The Symbol Merger: what it may write (R121, R122) -/

/-- The merge horizon keeps the stamps of the seventeen newest samples, newest first (R121). -/
def noteStamp (t : Time) (m : Sm) : Sm := { m with stamps := (t :: m.stamps).take 17 }

/-- The merge horizon: the stamp of the sample sixteen before the newest, where there is one (R121). -/
def horizon (m : Sm) : Option Time := m.stamps[16]?

/-- All lane FIFOs are empty. -/
def fifosEmpty (s : State) : Bool := (List.finRange 4).all fun (l : Fin 4) => s.lanes[l].fifo.isEmpty

/-- No lane holds back a symbol that ends at a time (R121). -/
def noHoldBack (s : State) (t : Time) : Bool :=
  (List.finRange 4).all fun (l : Fin 4) =>
    (holdBacks s.laneTable[l].kind s.lanes[l].decoder).all fun h => atOrBefore t h

/-- The SM writes whatever remains: in Closing, and once a replay stream has been given in full (R122). -/
def mergeAll (s : State) : Bool :=
  s.ce.engine == .closing || (match s.redecode with | some r => r.left == 0 | none => false)

/-- A FIFO head may be written (R121, R122). -/
def eligible (s : State) (y : Symbol) : Bool :=
  mergeAll s ||
    (match horizon s.sm with
      | some h => atOrBefore (symbolEnd y) h && noHoldBack s (symbolEnd y)
      | none => false)

/-- The head of a lane's FIFO, where it is eligible. -/
def eligibleHead (s : State) (l : Fin 4) : Option (Fin 4 × Symbol) :=
  match s.lanes[l].fifo with
  | y :: _ => if eligible s y then some (l, y) else none
  | [] => none

/-- The better of two heads: the earlier end, and the lower lane at equal ends (R122). -/
def betterHead (a : Option (Fin 4 × Symbol)) (b : Option (Fin 4 × Symbol)) : Option (Fin 4 × Symbol) :=
  match a, b with
  | none, _ => b
  | _, none => a
  | some (i, y), some (j, z) =>
    if before (symbolEnd z) (symbolEnd y) then some (j, z) else some (i, y)

/-- The symbol the SM writes next (R122). -/
def nextSymbol (s : State) : Option (Fin 4 × Symbol) :=
  (List.finRange 4).foldl (fun a l => betterHead a (eligibleHead s l)) none

/-- The segment whose span the SM writes (R123, R128). -/
def mergeSegment (s : State) : Option (Fin 32) :=
  match s.redecode with
  | some r => some r.segment
  | none => s.ce.segment

/-! ### Writing the span (R123, R128) -/

/-- What the span does with a symbol. -/
inductive SpanEffect where
  | write (position : Nat) (replaces : Bool)
  | refuse
  deriving DecidableEq, Repr

/-- The span position after the newest written symbol (R123). -/
def spanNext (g : SegmentStatus) (capacity : Nat) : Nat :=
  match g.symbolFirst with
  | some f => (f + g.symbolCount) % capacity
  | none => 0

/-- What a span of some capacity does with a symbol: before the trigger cut of a capture a full span
overwrites its oldest symbol; otherwise a full span, and always one of 0 blocks, refuses it (R123, R128). -/
def spanEffect (redecoding : Bool) (g : SegmentStatus) (capacity : Nat) : SpanEffect :=
  if capacity = 0 then .refuse
  else if g.symbolCount < capacity then .write (spanNext g capacity) false
  else if redecoding || g.triggerTime.isSome then .refuse
  else .write (spanNext g capacity) true

/-- The status record after a symbol was written (R123). -/
def wroteSymbol (capacity position : Nat) (replaces : Bool) (g : SegmentStatus) : SegmentStatus :=
  if replaces then { g with symbolFirst := some ((position + 1) % capacity) }
  else { g with symbolCount := g.symbolCount + 1
                symbolFirst := some (g.symbolFirst.getD position) }

/-- The status record after the span refused a symbol: its loss is counted, and in a capture the status
becomes Truncated (R123, R128). -/
def refusedSymbol (redecoding : Bool) (g : SegmentStatus) : SegmentStatus :=
  { countLost 1 g with symbolStatus := if redecoding then g.symbolStatus else some .truncated }

/-- A render of the segment that is in progress notes something (R143, R146, R148). -/
def noteRender (n : Fin 32) (f : Draw → Draw) (s : State) : State :=
  match s.re.draw with
  | some d => if d.snapshot.view.segment = n then { s with re.draw := some (f d) } else s
  | none => s

/-- The redecode has had a symbol refused by the span (R128). -/
def noteRefused (s : State) : State :=
  { s with redecode := s.redecode.map fun r => { r with refused := true } }

/-- One symbol leaves its FIFO for the span of a segment (R122, R123, R128). -/
def mergeSymbol (n : Fin 32) (l : Fin 4) (y : Symbol) (s : State) : Host.Outcome State Fault Refusal :=
  let capacity := spanCapacity s.plan[n]
  let redecoding := s.redecode.isSome
  let s1 := modifyLane l (fun q => { q with fifo := q.fifo.drop 1 }) s
  match spanEffect redecoding s.segments[n] capacity with
  | .refuse =>
    let s2 := modifySegment n (refusedSymbol redecoding) s1
    .next (if redecoding then noteRefused s2 else s2)
  | .write position replaces =>
    let a := symbolAddress s.plan[n] position
    if inDram s a 16 then
      let s2 := modifySegment n (wroteSymbol capacity position replaces) s1
      let s3 := { s2 with dram := memWriteBytes s2.dram a (symbolBytes y) }
      .next (noteRender n (fun d => { d with spanWrites := d.spanWrites + 1 }) s3)
    else .fault .addressOutsideDram

/-! ### The trim (R124) -/

/-- Which end of a span loses a symbol next. -/
inductive TrimEnd where
  | oldest | newest
  deriving DecidableEq, Repr

/-- The end of the oldest, and of the newest, retained symbol of a segment. -/
def spanEnds (s : State) (n : Fin 32) : Option (Time × Time) :=
  let g := s.segments[n]
  let capacity := spanCapacity s.plan[n]
  match g.symbolFirst with
  | none => none
  | some f =>
    if g.symbolCount = 0 then none
    else
      some (symbolEnd (readSymbol s n f), symbolEnd (readSymbol s n ((f + g.symbolCount - 1) % capacity)))

/-- The removal the trim of a segment against two times makes next, if it makes one (R124). -/
def trimEnd (s : State) (n : Fin 32) (start stop : Time) : Option TrimEnd :=
  match spanEnds s n with
  | none => none
  | some (a, b) => if before a start then some .oldest else if before stop b then some .newest else none

/-- The status record with one symbol fewer (R124). -/
def removeSymbol (capacity : Nat) (e : TrimEnd) (g : SegmentStatus) : SegmentStatus :=
  { g with
    symbolCount := g.symbolCount - 1
    symbolFirst :=
      if g.symbolCount ≤ 1 then none
      else match e with
        | .oldest => g.symbolFirst.map fun f => (f + 1) % capacity
        | .newest => g.symbolFirst }

/-- One trim step of a segment against two times (R124). -/
def trimStep (n : Fin 32) (start stop : Time) (s : State) : State :=
  match trimEnd s n start stop with
  | some e => modifySegment n (removeSymbol (spanCapacity s.plan[n]) e) s
  | none => s

/-- Trim steps until none is left to make, at most as many as a count allows (R124, R130). -/
def trimAll (n : Fin 32) (start stop : Time) : Nat → State → State
  | 0, s => s
  | k + 1, s => trimAll n start stop k (trimStep n start stop s)

/-- The span whose trim is in progress, with the two times it is trimmed against: of the segment that
closes, once queue and FIFOs are drained, or of a redecode once its FIFOs are (R40, R124, R128). -/
def trimTarget (s : State) : Option (Fin 32 × Time × Time) :=
  if !fifosEmpty s then none
  else match s.redecode with
    | some r =>
      let g := s.segments[r.segment]
      if r.left = 0 then some (r.segment, g.startTime.getD 0, g.endTime.getD 0) else none
    | none =>
      match s.ce.segment with
      | some n =>
        if s.ce.engine = .closing ∧ s.ce.queue = [] ∧ s.ce.toPush = [] then
          some (n, s.segments[n].startTime.getD 0, s.ce.endTime.getD 0)
        else none
      | none => none

/-- The trim has a step to make. -/
def trimDue (s : State) : Bool :=
  match trimTarget s with
  | some (n, a, b) => (trimEnd s n a b).isSome
  | none => false

end Sys2Proof.Machine
end

