-- ==== Sys2Proof/Machine/Arbiter.lean ====
section
/-! DEFINITION. The Memory Port's arbiter (R59, R60): which requesters wait for the DRAM, and which of them
the next grant goes to. A grant row occurs only when the next grant is its own. -/

namespace Sys2Proof.Machine

/-- The requesters of the arbiter, one per grant row of the opcode table; scan-out and the fill share
priority 1, the redecode's symbol writes, trim steps and record reads share priority 5 (R59, R122). -/
inductive Requester where
  | scanRow | fillBlock | drain | mergeWrite | mergeTrim | renderPixels | renderRecord | renderSymbol
  | redecodeWrite | redecodeTrim | redecodeRead | readout
  deriving DecidableEq, Repr

/-- The redecode waits to read a record (R127). -/
def wantsReplay (s : State) : Bool :=
  match s.redecode with
  | some r => decide (0 < r.left)
  | none => false

/-- The readout waits to read the items of its next cell (R172). -/
def wantsReadout (s : State) : Bool :=
  match s.lp.readout with
  | some r => r.ready.isNone && decide (0 < r.left) && !r.cancelled
  | none => false

/-- The requesters that wait, in order of priority, each with whether it waits (R59). -/
def requests (s : State) : List (Requester × Bool) :=
  [ (.scanRow, (wantedRow s).isSome),
    (.fillBlock, s.mp.fill.any fun f => decide (0 < f.left)),
    (.drain, !s.ce.queue.isEmpty),
    (.mergeWrite, s.redecode.isNone && (nextSymbol s).isSome),
    (.mergeTrim, s.redecode.isNone && trimDue s),
    (.renderPixels, wantsPixels s),
    (.renderRecord, wantsRecord s),
    (.renderSymbol, wantsSymbol s),
    (.redecodeWrite, s.redecode.isSome && (nextSymbol s).isSome),
    (.redecodeTrim, s.redecode.isSome && trimDue s),
    (.redecodeRead, wantsReplay s),
    (.readout, wantsReadout s) ]

/-- The requester that the next grant goes to: the waiting one of highest priority; none in Sleep, where
the DRAM is in self-refresh (R59, R60). -/
def nextGrant (s : State) : Option Requester :=
  if s.pru.power = .sleep then none else ((requests s).find? (·.2)).map (·.1)

/-- The next grant goes to a requester. -/
def granted (s : State) (r : Requester) : Bool := nextGrant s == some r

end Sys2Proof.Machine
end

