-- ==== Sys2Proof/Machine/Status.lean ====
section
/-! DEFINITION. STATUS (R84, R151, R178): the reports, byte for byte (R186), and the rows of the opcode table
that take the command. -/

namespace Sys2Proof.Machine

/-! ### Optional fields (R185) -/

/-- An optional number in k bytes: all ones where it is absent. -/
def optionalBytes (k : Nat) (n : Option Nat) : List Byte := leBytes k (n.getD (256 ^ k - 1))

/-- An optional time in 6 bytes: 0 where it is absent. -/
def timeBytes (t : Option Time) : List Byte := leBytes 6 (t.getD 0).toNat

/-! ### Codes of states (R185) -/

/-- The code of a reset cause. -/
def resetCode : ResetCause → Nat
  | .power => 0 | .pin => 1 | .link => 2

/-- The code of a power state. -/
def powerCode : PowerState → Nat
  | .run => 0 | .standby => 1 | .sleep => 2

/-- The code of a DRAM size. -/
def sizeCode : DramSize → Nat
  | .mib64 => 0 | .mib128 => 1 | .mib256 => 2

/-- The code of an engine state. -/
def engineCode : EngineState → Nat
  | .idle => 0 | .preFill => 1 | .armed => 2 | .triggered => 3 | .closing => 4

/-- The code of a segment state. -/
def segmentCode : SegmentState → Nat
  | .empty => 0 | .filling => 1 | .closed => 2

/-- The code of a lane state. -/
def laneCode : LaneMode → Nat
  | .idle => 0 | .running => 1 | .replaying => 2

/-- The code of a TS run state: the order in which the transitions of R80 reach them (assumption 57). -/
def runCode : RunState → Nat
  | .off => 0 | .running => 1 | .fired => 2 | .halted => 3

/-- The code of a render job state. -/
def jobCode : JobState → Nat
  | .idle => 0 | .drawing => 1 | .waitFlip => 2

/-! ### The reports (R186) -/

/-- Four flags as bits 0 to 3. -/
def fourFlags (a b c d : Bool) : Nat := flag a + 2 * flag b + 4 * flag c + 8 * flag d

/-- The DEVICE report (R178). -/
def deviceReport (s : State) : List Byte :=
  let p := s.pfe.pods
  leBytes 1 (resetCode s.pru.cause) ++ leBytes 1 (powerCode s.pru.power) ++ leBytes 1 (sizeCode s.mp.size) ++
  leBytes 1 (fourFlags p[0].present p[1].present p[2].present p[3].present +
    16 * fourFlags p[0].changed p[1].changed p[2].changed p[3].changed) ++
  leBytes 1 (engineCode s.ce.engine) ++ optionalBytes 1 (s.ce.segment.map (·.val)) ++
  leBytes 4 s.lp.dropped ++ leBytes 2 s.ce.queue.length

/-- The SEGMENT report (R53, R178). -/
def segmentReport (g : SegmentStatus) : List Byte :=
  leBytes 1 (segmentCode g.state) ++
  leBytes 1 (fourFlags g.startTime.isSome g.endTime.isSome g.triggerTime.isSome false) ++
  optionalBytes 4 g.oldest ++ optionalBytes 4 g.newest ++ leBytes 4 g.recordCount ++
  timeBytes g.startTime ++ timeBytes g.endTime ++ timeBytes g.triggerTime ++
  optionalBytes 4 g.triggerPosition ++ optionalBytes 1 (g.triggerCause.map causeCode) ++
  optionalBytes 1 (g.endReason.map endReasonCode) ++ leBytes 4 g.gapCount ++
  leBytes 1 (fourFlags g.podLost g.loop false false) ++ optionalBytes 4 g.symbolFirst ++
  leBytes 4 g.symbolCount ++ leBytes 4 g.symbolLost ++
  optionalBytes 1 (g.symbolStatus.map symbolStatusCode) ++ leBytes 1 g.holdCount

/-- The LANE report (R110, R178). -/
def laneReport (l : Lane) : List Byte :=
  let c := l.counters
  leBytes 1 (laneCode l.mode) ++ leBytes 1 (fourFlags l.decoder.frame.isOpen l.pendingLost false false) ++
  leBytes 1 l.wordCount ++ zeros 1 ++ leBytes 4 c.emitted ++ leBytes 4 c.parity ++ leBytes 4 c.framing ++
  leBytes 4 c.short ++ leBytes 4 c.timeout ++ leBytes 4 c.nack ++ leBytes 4 c.wide ++ leBytes 4 c.read ++
  leBytes 4 c.lost ++ leBytes 4 c.glitches ++ leBytes 4 c.falseStarts

/-- A stage history entry as sent (R186). -/
def historyBytes (h : HistoryEntry) : List Byte :=
  leBytes 1 (h.stage.val + 8 * flag h.secondary + 16 * targetCode h.target) ++ leBytes 6 h.time.toNat

/-- The SEQUENCER report, in the part named (R84). -/
def sequencerReport (part : Fin 3) (ts : Ts) : List Byte :=
  if part = 0 then
    leBytes 1 (runCode ts.run) ++ optionalBytes 1 (ts.stage.map (·.val)) ++ leBytes 2 ts.primary ++
    leBytes 2 ts.secondary ++
    leBytes 1 (fourFlags ts.counters[0].running ts.counters[1].running false false) ++
    leBytes 4 ts.counters[0].value ++ leBytes 4 ts.counters[1].value ++
    leBytes 1 (flag ts.triggerTime.isSome) ++ timeBytes ts.triggerTime ++
    optionalBytes 1 (ts.triggerCause.map causeCode) ++ leBytes 1 ts.history.length
  else
    let entries := if part = 1 then ts.history.take 8 else ts.history.drop 8
    leBytes 1 ts.history.length ++ entries.flatMap historyBytes

/-- The RENDER report, part 0: everything but the edge counts (R151). -/
def renderReport (r : Re) : List Byte :=
  let first := r.bounds.bind (·.firstStart)
  let last := r.bounds.bind (·.lastEnd)
  let value1 := r.readings.bind (·.value1)
  let value2 := r.readings.bind (·.value2)
  let interval := r.readings.bind (·.interval)
  leBytes 1 (jobCode r.job) ++ leBytes 1 (fourFlags r.pending (r.active == .b) r.stale false) ++
  optionalBytes 1 (r.segment.map (·.val)) ++ optionalBytes 1 (r.outcome.map outcomeCode) ++
  optionalBytes 1 r.rowsClipped ++ optionalBytes 2 (r.bounds.bind (·.firstColumn)) ++
  optionalBytes 2 (r.bounds.bind (·.lastColumn)) ++
  leBytes 1 (fourFlags first.isSome last.isSome value1.isSome value2.isSome + 16 * flag interval.isSome) ++
  timeBytes first ++ timeBytes last ++ optionalBytes 4 (r.bounds.map (·.recordsRead)) ++
  optionalBytes 4 (r.bounds.map (·.symbolsDrawn)) ++ optionalBytes 4 (value1.map (·.toNat)) ++
  optionalBytes 4 (value2.map (·.toNat)) ++ leBytes 6 ((interval.map (·.1)).getD 0)

/-- The RENDER report, parts 1 and 2: the edge counts of sixteen channels (R151). -/
def edgeReport (second : Bool) (r : Re) : List Byte :=
  let interval := r.readings.bind (·.interval)
  leBytes 1 (flag interval.isSome) ++
    (List.range 16).flatMap fun i =>
      optionalBytes 2 (interval.bind fun q => q.2[i + 16 * flag second]?)

/-- A report as it stands (R178). -/
def reportBytes (s : State) : StatusReport → List Byte
  | .device => deviceReport s
  | .segment n => segmentReport s.segments[n]
  | .lane n => laneReport s.lanes[n]
  | .sequencer part => sequencerReport part s.ts
  | .render part => if part = 0 then renderReport s.re else edgeReport (part == 2) s.re

/-- What taking a report changes: DEVICE clears all four Changed flags (R4, R178). -/
def takeReport (r : StatusReport) (s : State) : State :=
  match r with
  | .device =>
    let p := s.pfe.pods
    { s with pfe.pods :=
        #v[{ p[0] with changed := false }, { p[1] with changed := false }, { p[2] with changed := false },
          { p[3] with changed := false }] }
  | _ => s

/-! ### The STATUS rows (R178) -/

/-- The reply of a STATUS: the report is taken when the reply begins to be sent; a number that names none
is refused (R178). -/
def statusReply (c : LinkCell) (r : Option StatusReport) (s : State) : State :=
  match r with
  | some q => putReply c.tag (.status q) s
  | none => putReply c.tag (.refused .badValue 0) s

/-- STATUS DEVICE, and a STATUS whose selector names no report (R178). -/
def execStatusDevice (s : State) : Host.Outcome State Fault Refusal :=
  dispatch .statusDevice (some 2) true s fun c t =>
    statusReply c (if byteAt c.payload 0 = 0 then some .device else none) t

/-- STATUS SEGMENT (R178). -/
def execStatusSegment (s : State) : Host.Outcome State Fault Refusal :=
  dispatch .statusSegment (some 2) true s fun c t =>
    statusReply c ((toFin 32 (byteAt c.payload 1)).map .segment) t

/-- STATUS LANE (R178). -/
def execStatusLane (s : State) : Host.Outcome State Fault Refusal :=
  dispatch .statusLane (some 2) true s fun c t =>
    statusReply c ((toFin 4 (byteAt c.payload 1)).map .lane) t

/-- STATUS SEQUENCER (R84, R178). -/
def execStatusSequencer (s : State) : Host.Outcome State Fault Refusal :=
  dispatch .statusSequencer (some 2) true s fun c t =>
    statusReply c ((toFin 3 (byteAt c.payload 1)).map .sequencer) t

/-- STATUS RENDER (R151, R178). -/
def execStatusRender (s : State) : Host.Outcome State Fault Refusal :=
  dispatch .statusRender (some 2) true s fun c t =>
    statusReply c ((toFin 3 (byteAt c.payload 1)).map .render) t

end Sys2Proof.Machine
end

