-- ==== Sys2Proof/Machine/Link.lean ====
section
/-! DEFINITION. The Link Port (chapter 9): arrival of cells, the upstream arbiter, READOUT and CANCEL, RESET,
and commands that name nothing. -/

namespace Sys2Proof.Machine

/-! ### Arrival (R162, R163, R186) -/

/-- A Command cell arrives: it is appended to the queue, or dropped at a full one (R163). Its arrival
restarts the idle timer (R182). -/
def arrive (c : LinkCell) (s : State) : State :=
  let s1 := restartIdle s
  if s.lp.queue.length < Config.commandDepth then { s1 with lp.queue := s.lp.queue ++ [c] }
  else
    let n := saturate32 (s.lp.dropped + 1)
    raiseNotice (.commandDropped c.tag n) { s1 with lp.dropped := n }

/-- COMMAND_CELL_ARRIVAL: a downstream cell of kind Command arrives, and one of any other kind is discarded
(R162, R163, R186). A term that is no cell is refused. -/
def execCommandCellArrival (c : LinkCell) (s : State) : Host.Outcome State Fault Refusal :=
  if !c.wellFormed then .refused .notACell
  else if c.kind = 0 then .next (arrive c s)
  else .next s

/-! ### The upstream arbiter (R166) -/

/-- No upstream cell is being sent, and no link reset is due. -/
def linkFree (s : State) : Bool := s.lp.sending.isNone && !s.lp.resetDue

/-- A stream cell is ready (R172). -/
def streamReady (s : State) : Option (Readout × StreamCell) :=
  match s.lp.readout with
  | some r => r.ready.map fun c => (r, c)
  | none => none

/-- The arbiter's choice for the next upstream cell: reply, notice, stream cell, Fill, in this order (R166);
none while a cell is being sent. -/
def nextUpCell (s : State) : Option UpKind :=
  if !linkFree s then none
  else if s.lp.slot.isSome then some .reply
  else if (firstPending s).isSome then some .notice
  else if (streamReady s).isSome then some .stream
  else some .fill

/-- The outcome code of a reply: Done 0, Accepted 1, Refused 2 (R186). -/
def outcomeByte : ReplyBody → Byte
  | .accepted => 1
  | .refused _ _ => 2
  | _ => 0

/-- The payload of a reply, a report being taken now (R165, R178, R186). -/
def replyPayload (s : State) : ReplyBody → List Byte
  | .done data => data
  | .status r => reportBytes s r
  | .reset => []
  | .accepted => []
  | .refused code index => leBytes 1 (refusalNumber code) ++ [index]

/-- What the beginning of a reply's send changes: a report that is taken (R178). -/
def takeReply (b : ReplyBody) (s : State) : State :=
  match b with
  | .status r => takeReport r s
  | _ => s

/-- A cell begins to be sent. -/
def startCell (c : UpCell) (s : State) : State := { s with lp.sending := some c }

/-- SEND_REPLY: the reply in the slot begins to be sent (R165, R166, R178). -/
def execSendReply (s : State) : Host.Outcome State Fault Refusal :=
  if nextUpCell s = some .reply then
    match s.lp.slot with
    | some r =>
      let cell := { kind := .reply, tag := r.tag, code := outcomeByte r.body
                    payload := replyPayload s r.body, items := 0 }
      .next (startCell cell (takeReply r.body s))
    | none => .next s
  else .next s

/-- The code of an upstream cell's kind (R186). -/
def upKindCode : UpKind → Nat
  | .reply => 1
  | .stream => 2
  | .notice => 3
  | .fill => 4

/-- The bytes of an upstream cell as it leaves: its header, kind, tag, Length and Code, and its payload (R162,
R186). -/
def upCellBytes (c : UpCell) : List Byte :=
  [BitVec.ofNat 8 (upKindCode c.kind), c.tag, BitVec.ofNat 8 c.payload.length, c.code] ++ c.payload

/-- The payload of a Notice cell: occurrences, millisecond time, snapshot (R176, R186). -/
def noticePayload (s : State) (n : NoticeSlot) : List Byte :=
  leBytes 1 n.count ++ leBytes 4 (millisecondTime s.time) ++ (n.snapshot.map snapshotBytes).getD []

/-- A slot whose notice has begun to be sent: not pending, its snapshot kept (R176). -/
def sentSlot (n : NoticeSlot) : NoticeSlot := { n with pending := false, count := 0 }

/-- The Notice cell of a slot begins to be sent; its tag is a free value (R176; assumption 4). -/
def sendNoticeOf (i : Fin 10) (s : State) : State :=
  let n := s.lp.notices[i]
  let cell := { kind := .notice, tag := Config.noticeTag s.noticesSent, code := BitVec.ofNat 8 (i.val + 1)
                payload := noticePayload s n, items := 0 }
  startCell cell { s with
    lp.notices := s.lp.notices.set i (sentSlot n), noticesSent := s.noticesSent + 1 }

/-- SEND_NOTICE: the pending notice of highest priority begins to be sent (R176). -/
def execSendNotice (s : State) : Host.Outcome State Fault Refusal :=
  if nextUpCell s = some .notice then
    match firstPending s with
    | some i => .next (sendNoticeOf i s)
    | none => .next s
  else .next s

/-- SEND_STREAM_CELL: the ready stream cell begins to be sent, and the readout asks for its next items
(R172). -/
def execSendStreamCell (s : State) : Host.Outcome State Fault Refusal :=
  if nextUpCell s = some .stream then
    match streamReady s with
    | some (r, c) =>
      let cell := { kind := .stream, tag := r.tag, code := BitVec.ofNat 8 (itemKindCode r.kind)
                    payload := leBytes 4 c.ordinal ++ c.data, items := c.items }
      .next (startCell cell { s with lp.readout := some { r with ready := none } })
    | none => .next s
  else .next s

/-- The Fill cell (R186). -/
def fillCell : UpCell := { kind := .fill, tag := 0, code := 0, payload := [], items := 0 }

/-- SEND_FILL: with nothing else ready, a Fill cell begins to be sent (R166). -/
def execSendFill (s : State) : Host.Outcome State Fault Refusal :=
  .next (if nextUpCell s = some .fill then startCell fillCell s else s)

/-- The upstream cell being sent is of a kind. -/
def sends (s : State) (k : UpKind) : Bool :=
  match s.lp.sending with
  | some c => c.kind == k
  | none => false

/-- The last byte of the upstream cell has left. -/
def cellSent (s : State) : State := { s with lp.sending := none }

/-- The reply in the slot is that of a RESET. -/
def slotHoldsReset (s : State) : Bool :=
  match s.lp.slot with
  | some r => r.body == .reset
  | none => false

/-- REPLY_SENT: the reply slot empties; after the reply of a RESET the link reset is due at this tick
(R164, R174). -/
def execReplySent (s : State) : Host.Outcome State Fault Refusal :=
  if sends s .reply then
    .next { cellSent s with lp := { s.lp with
      sending := none, slot := none, resetDue := slotHoldsReset s } }
  else .next s

/-- NOTICE_CELL_SENT: the last byte of a Notice cell has left (R166). -/
def execNoticeCellSent (s : State) : Host.Outcome State Fault Refusal :=
  .next (if sends s .notice then cellSent s else s)

/-- FILL_CELL_SENT: the last byte of a Fill cell has left (R166). -/
def execFillCellSent (s : State) : Host.Outcome State Fault Refusal :=
  .next (if sends s .fill then cellSent s else s)

/-! ### READOUT (R56, R171 to R173) -/

/-- A readout ends: its hold is released and ReadoutDone raised (R56, R173). -/
def endReadout (r : Readout) (s : State) : State :=
  raiseNotice (.readoutDone r.segment r.kind r.sent (r.sent == r.length))
    (releaseHold r.segment { s with lp.readout := none })

/-- A readout after a stream cell has left: it goes on, or ends when it has sent its run or is cancelled
(R173). -/
def streamCellLeft (items : Nat) (r : Readout) (s : State) : State :=
  let r1 := { r with sent := r.sent + items }
  if r1.cancelled ∨ r1.sent = r1.length then endReadout r1 s else { s with lp.readout := some r1 }

/-- STREAM_CELL_SENT: the last byte of a stream cell has left (R173). -/
def execStreamCellSent (s : State) : Host.Outcome State Fault Refusal :=
  match s.lp.sending with
  | some c =>
    if c.kind = .stream then
      match s.lp.readout with
      | some r => .next (streamCellLeft c.items r (cellSent s))
      | none => .next (cellSent s)
    else .next s
  | none => .next s

/-- The item kind of a code (R186). -/
def toItemKind (k : Nat) : Option ItemKind :=
  if k = 0 then some .records else if k = 1 then some .symbols else none

/-- The items a segment has of a kind (R171). -/
def itemCount (g : SegmentStatus) : ItemKind → Nat
  | .records => g.recordCount
  | .symbols => g.symbolCount

/-- The length of a run (R171). -/
def runLength (items first count : Nat) : Nat := if items ≤ first then 0 else min count (items - first)

/-- The checks of READOUT after its first (R56, R171). -/
def readoutRefusal (n : Fin 32) (k : ItemKind) (s : State) : Option RefusalCode :=
  if readoutRuns s then some .busy
  else if s.segments[n].state ≠ .closed then some .notClosed
  else if k = .symbols ∧ redecodesSegment s n then some .busy
  else none

/-- A readout is taken: it holds its segment and fixes its run; an empty run ends at once (R171, R173). -/
def beginReadout (tag : Byte) (n : Fin 32) (k : ItemKind) (first count : Nat) (s : State) : State :=
  let length := runLength (itemCount s.segments[n] k) first count
  let r : Readout :=
    { tag := tag, segment := n, kind := k, next := first, left := length, length := length, sent := 0
      ready := none, cancelled := false }
  let s1 := placeHold n { s with lp.readout := some r }
  if length = 0 then endReadout r s1 else s1

/-- What READOUT does, once its form is checked (R171, R181). -/
def readoutOwner (c : LinkCell) (s : State) : State :=
  let s1 := leaveStandby s
  match toFin 32 (byteAt c.payload 0), toItemKind (byteAt c.payload 1) with
  | some n, some k =>
    match readoutRefusal n k s1 with
    | some code => putReply c.tag (.refused code 0) s1
    | none =>
      beginReadout c.tag n k (numAt c.payload 2 4) (numAt c.payload 6 4) (putReply c.tag .accepted s1)
  | _, _ => putReply c.tag (.refused .badValue 0) s1

/-- READOUT (R171). -/
def execReadout (s : State) : Host.Outcome State Fault Refusal :=
  dispatch .readout (some 10) false s readoutOwner

/-- The items of a stream cell: up to 7 records or 3 symbols (R172). -/
def cellItems : ItemKind → Nat
  | .records => 7
  | .symbols => 3

/-- The bytes of an item (R185). -/
def itemSize : ItemKind → Nat
  | .records => 8
  | .symbols => 16

/-- The address of the item of an ordinal (R172). -/
def itemAddress (s : State) (r : Readout) (i : Nat) : Nat :=
  let p := s.plan[r.segment]
  let g := s.segments[r.segment]
  match r.kind with
  | .records => recordAddress p ((g.oldest.getD 0 + i) % ringCapacity p)
  | .symbols => symbolAddress p ((g.symbolFirst.getD 0 + i) % spanCapacity p)

/-- A readout that has read the n items of its next cell (R172). -/
def readItems (s : State) (r : Readout) (n : Nat) : Readout :=
  let data := (List.range n).flatMap fun i =>
    memReadBytes s.dram (itemAddress s r (r.next + i)) (itemSize r.kind)
  { r with next := r.next + n, left := r.left - n
           ready := some { ordinal := r.next, items := n, data := data } }

/-- READOUT_READ: a grant to the readout reads the items of its next cell (R172). -/
def execReadoutRead (s : State) : Host.Outcome State Fault Refusal :=
  if granted s .readout then
    match s.lp.readout with
    | some r =>
      let n := min r.left (cellItems r.kind)
      if (List.range n).all fun i => inDram s (itemAddress s r (r.next + i)) (itemSize r.kind) then
        .next { s with lp.readout := some (readItems s r n) }
      else .fault .addressOutsideDram
    | none => .next s
  else .next s

/-- A running readout meets a CANCEL: a cell being sent is sent whole first (R173). -/
def cancelReadout (r : Readout) (s : State) : State :=
  let r1 := { r with ready := none, cancelled := true }
  if sends s .stream then { s with lp.readout := some r1 } else endReadout r1 s

/-- CANCEL (R173). -/
def execCancel (s : State) : Host.Outcome State Fault Refusal :=
  dispatch .cancel (some 0) false s fun c t =>
    putReply c.tag (.done [])
      (match t.lp.readout with
        | some r => cancelReadout r t
        | none => t)

/-! ### RESET and commands that name nothing (R170, R174) -/

/-- RESET: Done is placed; the link reset follows its reply (R174). -/
def execReset (s : State) : Host.Outcome State Fault Refusal :=
  dispatch .reset (some 0) true s fun c t => putReply c.tag .reset t

/-- BAD_COMMAND: a code that names no command; this check comes before every other (R170). -/
def execBadCommand (s : State) : Host.Outcome State Fault Refusal :=
  match takeCommand .badCommand s with
  | some (c, s1) => .next (putReply c.tag (.refused .badCommand 0) s1)
  | none => .next s

end Sys2Proof.Machine
end

