-- ==== Sys2Proof/Machine/Probes.lean ====
section
/-! DEFINITION. Probes, pods and the Signal Generator (chapter 1): comparators, channel levels, pod
presence, the outputs CAL0 and CAL1 and the loop counter, with the meanings of the rows they own. -/

namespace Sys2Proof.Machine

/-! ### Comparators and levels (R3, R5, R13) -/

/-- A comparator's output for an input in half millivolts: 1 above T + H/2, 0 at or below T − H/2, held
between (R3). -/
def comparatorOutput (e : PodEntry) (held : Bool) (input : Int) : Bool :=
  if 2 * e.threshold + e.hysteresis < input then true
  else if input ≤ 2 * e.threshold - e.hysteresis then false
  else held

/-- A comparator's output when it has no held state: 1 above T (R3). -/
def comparatorStart (e : PodEntry) (input : Int) : Bool := decide (2 * e.threshold < input)

/-- The pod of a channel. -/
def podOf (k : Fin 32) : Fin 4 := ⟨k.val / 8, by omega⟩

/-- A word with bit k made b. -/
def setBit (w : Word) (k : Nat) (b : Bool) : Word :=
  if b then w ||| (1#32 <<< k) else w &&& ~~~(1#32 <<< k)

/-- One comparator decides anew, with or without its held state (R3). -/
def decideChannel (fresh : Bool) (p : Pfe) (k : Fin 32) : Pfe :=
  let e := p.table[podOf k]
  let out := if fresh then comparatorStart e p.inputs[k]
    else comparatorOutput e (p.outputs.getLsbD k) p.inputs[k]
  { p with outputs := setBit p.outputs k out }

/-- The eight comparators of a pod decide anew (R2, R3). -/
def decidePod (fresh : Bool) (pod : Fin 4) (p : Pfe) : Pfe :=
  (List.finRange 8).foldl (fun q (i : Fin 8) => decideChannel fresh q ⟨pod.val * 8 + i.val, by omega⟩) p

/-- All comparators decide anew without a held state (R3). -/
def startComparators (p : Pfe) : Pfe := (List.finRange 32).foldl (decideChannel true) p

/-- The channels of the pods a test holds of. -/
def podMask (test : PodState → Bool) (p : Pfe) : Word :=
  (List.finRange 4).foldl
    (fun w (i : Fin 4) => if test p.pods[i] then w ||| (0xFF#32 <<< (8 * i.val)) else w) 0

/-- The channel levels at the pads: comparator outputs, and 0 for a pod that is absent or that became
present at this very tick (R5). -/
def padLevels (p : Pfe) : Word := p.outputs &&& podMask (fun q => q.present && !q.inserted) p

/-- The levels the wake logic sees: comparator outputs, and 0 for a pod that is absent (R5, R183). -/
def wakeLevels (p : Pfe) : Word := p.outputs &&& podMask (fun q => q.present) p

/-- A bit of a word as a word. -/
def bitWord (b : Bool) : Word := if b then 1 else 0

/-- The loop-mode levels: CAL0, CAL1 and the loop counter on A0 to A7, 0 elsewhere (R13). -/
def loopLevels (g : Gen) : Word :=
  bitWord g.outputs[0].level ||| (bitWord g.outputs[1].level <<< 1) |||
    ((g.loopCounter.setWidth 32) <<< 2)

/-- The levels a sample of the current tick holds (R5, R11, R12, R13). -/
def sampleLevels (s : State) : Word :=
  let w := if s.ce.table.loop then loopLevels s.gen else padLevels s.pfe
  match s.ce.table.width with
  | .wide => w
  | .narrow => w &&& 0xFFFF

/-! ### Signal Generator (R14 to R18) -/

/-- An output put in a new state; a rising edge on CAL0 adds 1 to the loop counter (R14). Each change driven
counts, also a rise that undoes a fall of the same tick (assumption 59). -/
def setOutput (i : Fin 2) (o : GenOutput) (g : Gen) : Gen :=
  { g with
    outputs := g.outputs.set i o
    loopCounter :=
      if i = 0 ∧ g.outputs[i].level = false ∧ o.level = true then g.loopCounter + 1 else g.loopCounter }

/-- The state a restart sets, by the entry's mode (R15). -/
def restartedOutput (e : GenEntry) : GenOutput :=
  match e.mode with
  | .off => heldOutput
  | .square => { level := true, run := .running, ticksLeft := e.half, periodsLeft := 0 }
  | .burst => { level := true, run := .bursting, ticksLeft := e.half, periodsLeft := e.burst }
  | .burstOnTrigger => { level := false, run := .waiting, ticksLeft := 0, periodsLeft := 0 }

/-- An output restarted in its entry's mode (R15). -/
def restartOutput (i : Fin 2) (g : Gen) : Gen := setOutput i (restartedOutput g.table[i]) g

/-- The state of an output after the end of a half-period (R16, R17). -/
def afterHalfPeriod (e : GenEntry) (o : GenOutput) : GenOutput :=
  match o.run with
  | .running => { o with level := !o.level, ticksLeft := e.half }
  | .bursting =>
    if o.level then { o with level := false, ticksLeft := e.half }
    else if o.periodsLeft ≤ 1 then
      { level := false, run := if e.mode = .burstOnTrigger then .waiting else .held, ticksLeft := 0
        periodsLeft := 0 }
    else { o with level := true, ticksLeft := e.half, periodsLeft := o.periodsLeft - 1 }
  | _ => o

/-- The output is in a half-period, which ends at this tick (R16). -/
def halfPeriodDue (s : State) (i : Fin 2) : Bool :=
  let o := s.gen.outputs[i]
  (o.run == .running || o.run == .bursting) && o.ticksLeft == 0 && s.pru.power != .sleep

/-- The end of a half-period of one output (R16). -/
def endHalfPeriod (i : Fin 2) (g : Gen) : Gen := setOutput i (afterHalfPeriod g.table[i] g.outputs[i]) g

/-- A trigger reaches one output: a burst starts, or starts anew, in BurstOnTrigger (R17). -/
def triggerOutput (g : Gen) (i : Fin 2) : Gen :=
  let e := g.table[i]
  if e.mode = .burstOnTrigger then
    setOutput i { level := true, run := .bursting, ticksLeft := e.half, periodsLeft := e.burst } g
  else g

/-- A trigger reaches the Signal Generator (R17). -/
def triggerGenerator (g : Gen) : Gen := triggerOutput (triggerOutput g 0) 1

/-- One tick of an output's half-period. -/
def tickOutput (o : GenOutput) : GenOutput :=
  match o.run with
  | .running | .bursting => { o with ticksLeft := o.ticksLeft - 1 }
  | _ => o

/-- One tick of the Signal Generator. -/
def tickGenerator (g : Gen) : Gen :=
  { g with outputs := #v[tickOutput g.outputs[0], tickOutput g.outputs[1]] }

/-- Both pins driven 0 at the entry to Sleep (R18). -/
def sleepGenerator (g : Gen) : Gen :=
  { g with outputs := #v[{ g.outputs[0] with level := false }, { g.outputs[1] with level := false }] }

/-- An output takes up its state at a wake (R18). -/
def wakeOutput (g : Gen) (i : Fin 2) : Gen :=
  match g.table[i].mode with
  | .square => restartOutput i g
  | .burstOnTrigger => restartOutput i g
  | _ => setOutput i heldOutput g

/-- The Signal Generator takes up its state at a wake (R18). -/
def wakeGenerator (g : Gen) : Gen := wakeOutput (wakeOutput g 0) 1

/-- HALF_PERIOD_END: the half-period of an output that ends at this tick ends (R16). -/
def execHalfPeriodEnd (i : Fin 2) (s : State) : Host.Outcome State Fault Refusal :=
  if halfPeriodDue s i then .next { s with gen := endHalfPeriod i s.gen } else .next s

/-! ### Pod presence (R4 to R6) -/

/-- The presence filter of a pod has run out at this tick: its sense has held another level than Present
for 400,000 ticks (R4). The filter runs in Run and Standby (R5). -/
def presenceDue (s : State) (pod : Fin 4) : Bool :=
  let p := s.pfe.pods[pod]
  p.sense != p.present && decide (Config.presenceTicks ≤ ticksAfter s.time p.filterStart) &&
    s.pru.power != .sleep

/-- A pod counts as captured (R6). -/
def capturedPod (e : AcqEntry) (pod : Fin 4) : Bool :=
  !e.loop && (match e.width with | .wide => true | .narrow => decide (pod.val < 2))

/-- PodLost set in the segment being filled, when a captured pod is lost during its capture (R6). -/
def notePodLost (pod : Fin 4) (s : State) : State :=
  match s.ce.segment with
  | some n =>
    if capturing s ∧ capturedPod s.ce.table pod = true then
      modifySegment n (fun g => { g with podLost := true }) s
    else s
  | none => s

/-- Present takes the value of the sense: Changed is set, PodChange is raised, the comparators of a pod
that became present start without a held state, and a lost pod is noted (R4, R6). -/
def changePresent (pod : Fin 4) (s : State) : State :=
  let p := s.pfe.pods[pod]
  let q := { p with present := p.sense, changed := true, inserted := p.sense }
  let pfe := { s.pfe with pods := s.pfe.pods.set pod q }
  let s1 := { s with pfe := if p.sense then decidePod true pod pfe else pfe }
  let s2 := raiseNotice (.podChange pod p.sense) s1
  if p.sense then s2 else notePodLost pod s2

/-- POD_PRESENT_CHANGE: Present of a pod takes a new value when its filter has run out (R4). -/
def execPodPresentChange (pod : Fin 4) (s : State) : Host.Outcome State Fault Refusal :=
  if presenceDue s pod then .next (changePresent pod s) else .next s

/-- PRESENCE_SENSE_CHANGE: a pod's presence sense takes a level; a change restarts its filter (R4). -/
def execPresenceSenseChange (pod : Fin 4) (level : Bool) (s : State) : Host.Outcome State Fault Refusal :=
  let p := s.pfe.pods[pod]
  if p.sense = level then .next s
  else .next { s with pfe.pods := s.pfe.pods.set pod { p with sense := level, filterStart := s.time } }

/-- The four pods changed alike. -/
def mapPods (f : PodState → PodState) (p : Pfe) : Pfe :=
  { p with pods := #v[f p.pods[0], f p.pods[1], f p.pods[2], f p.pods[3]] }

/-- One tick of the pods: no pod became present at the new tick yet (R5). -/
def tickPods (p : Pfe) : Pfe := mapPods (fun q => { q with inserted := false }) p

/-- The presence filters start anew at a wake, from the senses as they stand (R5). -/
def wakePods (now : Time) (p : Pfe) : Pfe :=
  mapPods (fun q => { q with filterStart := now }) p

/-- The masked channels whose level differs from the level recorded at the entry to Sleep (R183). -/
def changedChannels (s : State) : Word := (wakeLevels s.pfe ^^^ s.pru.recorded) &&& s.pru.mask

/-- In Sleep, with no wake begun, the wake logic notes the changes on masked channels (R183). -/
def watchChannels (s : State) : State :=
  if s.pru.power = .sleep ∧ s.pru.wake.isNone then
    { s with pru.changed := s.pru.changed ||| changedChannels s }
  else s

/-- COMPARATOR_OUTPUT_CHANGE: a probe input takes a voltage and its comparator decides by R3, at every change
that is offered, also where one input changes more than once within a tick (assumption 67); in Sleep the wake
logic sees it (R183). -/
def execComparatorOutputChange (k : Fin 32) (halfMillivolts : Int) (s : State) :
    Host.Outcome State Fault Refusal :=
  let p := { s.pfe with inputs := s.pfe.inputs.set k halfMillivolts }
  .next (watchChannels { s with pfe := decideChannel false p k })

/-- What is due at this tick before a sample of the tick is taken: the changes of Present and the ends of
half-periods, since a sample holds the levels of its tick (R5, R11, R14). -/
def settle (s : State) : State :=
  let s1 := (List.finRange 4).foldl (fun t pod => if presenceDue t pod then changePresent pod t else t) s
  (List.finRange 2).foldl
    (fun t i => if halfPeriodDue t i then { t with gen := endHalfPeriod i t.gen } else t) s1

end Sys2Proof.Machine
end

