-- ==== Sys2Proof/Machine/Power.lean ====
section
/-! DEFINITION. The Power and Reset Unit's power states (chapter 10.3): POWER, the idle timer, Sleep and the
wake. -/

namespace Sys2Proof.Machine

/-! ### Moves between the power states (R180, R181) -/

/-- The part is busy: a capture, a render, a redecode or a readout is under way (R181, R182). -/
def busy (s : State) : Bool :=
  !engineIdle s || s.re.job != .idle || s.redecode.isSome || readoutRuns s

/-- The part enters Standby (R180). -/
def enterStandby (s : State) : State := { s with pru.power := .standby }

/-- The part enters Sleep: the wake logic records its levels and both generator pins go to 0 (R18, R183). -/
def enterSleep (s : State) : State :=
  { s with
    gen := sleepGenerator s.gen
    pru := { s.pru with
      power := .sleep, mask := s.pru.table.wakeMask, recorded := wakeLevels s.pfe, changed := 0 } }

/-- A wake starts (R183). -/
def startWake (cause : WakeCause) (target : PowerState) (s : State) : State :=
  { s with pru.wake := some { cause := cause, target := target } }

/-- The Done reply of a POWER. -/
def powerDone (c : LinkCell) (s : State) : State := putReply c.tag (.done []) s

/-- A move that is checked: refused with Busy unless the part is idle (R181). -/
def checkedMove (move : State → State) (c : LinkCell) (s : State) : State :=
  if busy s then putReply c.tag (.refused .busy 0) s else powerDone c (move s)

/-- A POWER taken in Sleep starts a wake and is answered when it completes (R183). -/
def powerWake (target : PowerState) (c : LinkCell) (s : State) : State :=
  startWake .link target { s with lp.inProgress := some (.wake c.tag) }

/-- POWER Run, by the current state; a target that names no state is refused (R181). -/
def powerRunOwner (c : LinkCell) (s : State) : State :=
  if byteAt c.payload 0 ≠ 0 then putReply c.tag (.refused .badValue 0) s
  else match s.pru.power with
    | .run => powerDone c s
    | .standby => powerDone c (enterRun s)
    | .sleep => powerWake .run c s

/-- POWER Standby, by the current state (R181). -/
def powerStandbyOwner (c : LinkCell) (s : State) : State :=
  match s.pru.power with
  | .run => checkedMove enterStandby c s
  | .standby => powerDone c s
  | .sleep => powerWake .standby c s

/-- POWER Sleep, by the current state (R181). -/
def powerSleepOwner (c : LinkCell) (s : State) : State :=
  match s.pru.power with
  | .sleep => powerDone c s
  | _ => checkedMove enterSleep c s

/-- POWER_RUN (R181). -/
def execPowerRun (s : State) : Host.Outcome State Fault Refusal :=
  dispatch .powerRun (some 1) true s powerRunOwner

/-- POWER_STANDBY (R181). -/
def execPowerStandby (s : State) : Host.Outcome State Fault Refusal :=
  dispatch .powerStandby (some 1) true s powerStandbyOwner

/-- POWER_SLEEP (R181, R183). -/
def execPowerSleep (s : State) : Host.Outcome State Fault Refusal :=
  dispatch .powerSleep (some 1) true s powerSleepOwner

/-! ### The idle timer (R182) -/

/-- The ticks after which the idle timer expires (R182). -/
def idleTicks (exponent : Nat) : Nat := 2 ^ exponent * Config.ticksPerMs

/-- The idle timer has run out, with nothing to restart it (R182). -/
def idleExpired (s : State) : Bool :=
  s.pru.power == .run && s.pru.table.exponent != 0 && !busy s && s.lp.inProgress.isNone &&
    decide (idleTicks s.pru.table.exponent ≤ ticksAfter s.time s.pru.idleStart)

/-- IDLE_TIMEOUT: the part enters Standby (R182). -/
def execIdleTimeout (s : State) : Host.Outcome State Fault Refusal :=
  .next (if idleExpired s then enterStandby s else s)

/-! ### The wake (R183) -/

/-- The lowest channel of a mask. -/
def lowestChannel (w : Word) : Option (Fin 32) := (List.finRange 32).find? fun k => w.getLsbD k.val

/-- The channel whose change starts a wake, where one does (R183); a RESET whose reply is still being sent
does not put the wake off (assumption 56). -/
def wakeChannel (s : State) : Option (Fin 32) :=
  if s.pru.power = .sleep ∧ s.pru.wake.isNone then lowestChannel s.pru.changed else none

/-- WAKE_ACTIVITY: a change on a masked channel starts a wake to Run (R183). -/
def execWakeActivity (s : State) : Host.Outcome State Fault Refusal :=
  match wakeChannel s with
  | some k => .next (startWake (.activity k) .run s)
  | none => .next s

/-- The reply to a POWER that started the wake (R183). -/
def replyToWake (s : State) : State :=
  match s.lp.inProgress with
  | some (.wake tag) => putReply tag (.done []) { s with lp.inProgress := none }
  | _ => s

/-- The power state a wake leads to (R182, R183). -/
def enterAwake (target : PowerState) (s : State) : State :=
  match target with
  | .standby => enterStandby s
  | _ => enterRun s

/-- The part is awake: the wake logic is inactive, the SU begins with a frame boundary, and the Signal
Generator and the presence filters take up their state (R5, R18, R161, R183). -/
def awaken (w : WakeProgress) (s : State) : State :=
  let pru := { s.pru with mask := 0, recorded := 0, changed := 0, wake := none }
  let s1 := { s with pru := pru, gen := wakeGenerator s.gen, pfe := wakePods s.time s.pfe }
  replyToWake (raiseNotice (.wake w.cause) (enterAwake w.target (beginFrame s1)))

/-- WAKE_COMPLETE (R183). -/
def execWakeComplete (s : State) : Host.Outcome State Fault Refusal :=
  match s.pru.wake with
  | some w => .next (awaken w s)
  | none => .next s

end Sys2Proof.Machine
end

