-- ==== Sys2Proof/Machine/Display.lean ====
section
/-! DEFINITION. The steps of the display: the grants of scan-out, of the frame-buffer fill and of the
render, the frame boundary, the end of a drawing, and the commands RENDER and SWAP (chapters 7 and 8). -/

namespace Sys2Proof.Machine

/-! ### Scan-out and the fill (R47, R153 to R155) -/

/-- FRAME_BOUNDARY: a render in WaitFlip flips, and the SU takes up its tables (R137, R154). -/
def execFrameBoundary (s : State) : Host.Outcome State Fault Refusal :=
  .next (if boundaryDue s then beginFrame (flip s) else s)

/-- SCAN_OUT_ROW_READ: a grant to scan-out for one row of the front buffer (R155). -/
def execScanOutRowRead (s : State) : Host.Outcome State Fault Refusal :=
  if granted s .scanRow then
    match wantedRow s with
    | some y =>
      let a := rowAddress s.su y
      if inDram s a s.su.applied.width then
        .next { s with su := takeRow y (memReadBytes s.dram a s.su.applied.width) s.su }
      else .fault .addressOutsideDram
    | none => .next s
  else .next s

/-- FRAME_BUFFER_FILL_BLOCK: a grant to the fill for one block (R47, R153). -/
def execFrameBufferFillBlock (s : State) : Host.Outcome State Fault Refusal :=
  if granted s .fillBlock then
    match s.mp.fill with
    | some f =>
      let a := f.next * Config.blockBytes
      if inDram s a Config.blockBytes then
        .next { s with
          dram := memClear s.dram a Config.blockBytes
          mp.fill := some { f with next := f.next + 1, left := f.left - 1 } }
      else .fault .addressOutsideDram
    | none => .next s
  else .next s

/-- A fill has no block left to fill. -/
def fillFinished (s : State) : Bool :=
  match s.mp.fill with
  | some f => f.left == 0
  | none => false

/-- The reply of the WRITE that began a fill (R47, R153, R164). -/
def replyToFill (s : State) : State :=
  match s.lp.inProgress with
  | some (.fill tag) => putReply tag (.done []) { s with lp.inProgress := none }
  | _ => s

/-- FILL_COMPLETE: the SU scans from the new place and the WRITE replies Done (R47, R153). -/
def execFillComplete (s : State) : Host.Outcome State Fault Refusal :=
  if fillFinished s then
    .next (replyToFill { s with mp.fill := none, su.scanBase := s.mp.regions.symbolEnd })
  else .next s

/-! ### The render's grants (R141 to R147) -/

/-- RENDER_PIXEL_WRITE: a grant to the render for one run of pixels (R59, R142). -/
def execRenderPixelWrite (s : State) : Host.Outcome State Fault Refusal :=
  if granted s .renderPixels then
    match s.re.draw with
    | some d =>
      match d.writes with
      | w :: rest =>
        let a := runAddress s d w
        if inDram s a w.pixels.length then
          .next { s with dram := memWriteBytes s.dram a w.pixels, re := wrotePixels d rest s.re }
        else .fault .addressOutsideDram
      | [] => .next s
    | none => .next s
  else .next s

/-- The render ends Overrun and enters WaitFlip (R143). -/
def overrun (d : Draw) (s : State) : State :=
  { s with re := { s.re with job := .waitFlip, draw := some (overrunDraw d) } }

/-- The render goes on with a new drawing. -/
def continueDraw (d : Draw) (s : State) : State := { s with re.draw := some d }

/-- The segment a drawing shows. -/
def drawSegment (d : Draw) : Fin 32 := d.snapshot.view.segment

/-- A read of a ring position by the render: Overrun where the capture has written it since the start, and
otherwise the record taken (R141, R143). -/
def renderReads (d : Draw) (position : Nat) (use : Record → Draw) (s : State) :
    Host.Outcome State Fault Refusal :=
  let capacity := ringCapacity s.plan[drawSegment d]
  if overwritten capacity d.snapshot.newest d.ringWrites position then
    .next (overrun { d with reads := countUp d.reads } s)
  else if inDram s (recordAddress s.plan[drawSegment d] position) 8 then
    .next (continueDraw (use (readRecord s (drawSegment d) position)) s)
  else .fault .addressOutsideDram

/-- RENDER_RECORD_READ: a grant to the render for one record of the locate walk or of the forward pass
(R141, R143). -/
def execRenderRecordRead (s : State) : Host.Outcome State Fault Refusal :=
  if granted s .renderRecord then
    match s.re.draw with
    | some d =>
      let capacity := ringCapacity s.plan[drawSegment d]
      match d.phase with
      | .locate position left stop =>
        renderReads d position (fun r => locateRead capacity position left stop r d) s
      | .forward position left start =>
        renderReads d position (fun r => forwardRead s.su.glyphs capacity position left start r d) s
      | _ => .next s
    | none => .next s
  else .next s

/-- The span position of the newest symbol a snapshot holds. -/
def newestSymbol (capacity : Nat) (sn : Snapshot) : Nat :=
  (sn.symbolFirst + sn.symbolCount - 1) % capacity

/-- RENDER_SYMBOL_READ: a grant to the render for one symbol of the span (R146). -/
def execRenderSymbolRead (s : State) : Host.Outcome State Fault Refusal :=
  if granted s .renderSymbol then
    match s.re.draw with
    | some d =>
      match d.phase with
      | .symbols position left =>
        let n := drawSegment d
        let capacity := spanCapacity s.plan[n]
        if overwritten capacity (newestSymbol capacity d.snapshot) d.spanWrites position then
          .next (overrun d s)
        else if inDram s (symbolAddress s.plan[n] position) 16 then
          .next (continueDraw (symbolRead s.su.glyphs capacity position left (readSymbol s n position) d) s)
        else .fault .addressOutsideDram
      | _ => .next s
    | none => .next s
  else .next s

/-- DRAWING_COMPLETE: outcome, bounds and readings are recorded and the job enters WaitFlip (R136, R149,
R150). -/
def execDrawingComplete (s : State) : Host.Outcome State Fault Refusal :=
  if drawingFinished s then
    match s.re.draw with
    | some d => .next { s with re := { s.re with job := .waitFlip, draw := some (completeDraw d) } }
    | none => .next s
  else .next s

/-! ### RENDER and SWAP (R134, R135) -/

/-- What RENDER does: a render starts in Idle, and otherwise the pending flag is set (R135). -/
def requestRender (s : State) : State :=
  if s.re.job = .idle then startRender s else { s with re.pending := true }

/-- RENDER (R135, R181). -/
def execRender (s : State) : Host.Outcome State Fault Refusal :=
  dispatch .render (some 0) false s fun c t => putReply c.tag .accepted (requestRender (leaveStandby t))

/-- The other view set. -/
def otherSet : SetName → SetName
  | .a => .b
  | .b => .a

/-- SWAP (R134). -/
def execSwap (s : State) : Host.Outcome State Fault Refusal :=
  dispatch .swap (some 0) false s fun c t =>
    putReply c.tag (.done []) { t with re.active := otherSet t.re.active }

end Sys2Proof.Machine
end

