-- ==== Sys2Proof/Machine/Capture.lean ====
section
/-! DEFINITION. The Capture Engine (chapter 2): sampling, the compressor, the write queue and its losses,
the ring, ARM, STOP, FORCE, the trigger and end cuts, Closing and sequencing. -/

namespace Sys2Proof.Machine

/-! ### Pushing records (R24 to R27, R37) -/

/-- The gap record of an episode, with a duration (R26, R27). -/
def gapRecord (s : State) (e : Episode) (duration : Nat) : Record :=
  { value := e.value, duration := duration, triggerPoint := false, continuation := false, gap := true
    loop := s.ce.table.loop }

/-- The queue with the records of Closing that find room moved into it: a trigger record, and a gap record
before it, may take the reserved slots; any other waits for a normal slot (R40). -/
def feedQueue : List Record → List Record → List Record × List Record
  | queue, [] => (queue, [])
  | queue, r :: rest =>
    let beforeTrigger := match rest with
      | q :: _ => r.gap && q.triggerPoint
      | [] => false
    let slots := if r.triggerPoint || beforeTrigger then Config.queueSlots else Config.normalSlots
    if queue.length < slots then feedQueue (queue ++ [r]) rest else (queue, r :: rest)

/-- The records that wait in Closing enter the queue as it has room (R40). -/
def feed (s : State) : State :=
  let q := feedQueue s.ce.queue s.ce.toPush
  { s with ce := { s.ce with queue := q.1, toPush := q.2 } }

/-- The entry to Closing for a reason, with the segment's end time and its last records: the sampler and
the TS stop, and what is staged or open is discarded (R27, R29, R38 to R40, R80). -/
def enterClosing (reason : EndReason) (endTime : Time) (records : List Record) (s : State) : State :=
  let ce := { s.ce with
    engine := .closing, reason := some reason, endTime := some endTime, toPush := records, staging := []
    openRecord := none, episode := none, heldForce := false }
  feed { s with ce := ce, ts := haltTs s.ts }

/-- The end of an episode that reached the largest duration (R27). -/
def stall (e : Episode) (s : State) : State :=
  enterClosing .stalled (addTicks e.start Config.maxDuration) [gapRecord s e Config.maxDuration] s

/-- A record whose push fails is lost: an episode opens or is extended, and one that reaches the largest
duration ends the capture (R25, R27). -/
def loseRecord (start : Time) (r : Record) (s : State) : State :=
  let e := match s.ce.episode with
    | none => { value := s.ce.lastValue, lost := r.duration, start := start }
    | some e => { e with lost := e.lost + r.duration }
  if Config.maxDuration ≤ e.lost then stall e s else { s with ce.episode := some e }

/-- The trigger record pushed, after the gap record of an episode that is open; both may use the reserved
slots (R24, R37). -/
def pushTrigger (start : Time) (r : Record) (s : State) : State :=
  let records := (s.ce.episode.map fun e => gapRecord s e e.lost).toList ++ [r]
  if s.ce.queue.length + records.length ≤ Config.queueSlots then
    { s with ce := { s.ce with
        queue := s.ce.queue ++ records, lastValue := r.value, episode := none } }
  else loseRecord start r s

/-- Any other record pushed: it succeeds when no episode is open and a normal slot is free (R24, R26). -/
def pushNormal (start : Time) (r : Record) (s : State) : State :=
  if s.ce.episode.isNone ∧ s.ce.queue.length < Config.normalSlots then
    { s with ce := { s.ce with queue := s.ce.queue ++ [r], lastValue := r.value } }
  else loseRecord start r s

/-- A record that starts at a time pushed, unless the capture has ended. -/
def pushRecord (p : Time × Record) (s : State) : State :=
  if capturing s then (if p.2.triggerPoint then pushTrigger p.1 p.2 s else pushNormal p.1 p.2 s) else s

/-- Records pushed in order. -/
def pushRecords (ps : List (Time × Record)) (s : State) : State :=
  ps.foldl (fun t p => pushRecord p t) s

/-! ### The open record (R21 to R23) -/

/-- The record an open record becomes with a duration. -/
def closedRecord (o : OpenRecord) (duration : Nat) : Record :=
  { value := o.value, duration := duration, triggerPoint := o.triggerPoint
    continuation := o.continuation, gap := false, loop := o.loop }

/-- The Continuation record opened after one of the largest duration (R23). -/
def continuationOf (o : OpenRecord) : OpenRecord :=
  { value := o.value, start := addTicks o.start Config.maxDuration, triggerPoint := false
    continuation := true, loop := o.loop }

/-- An open record split n times at the largest duration (R23). -/
def splitRecord : Nat → OpenRecord → List (Time × Record) × OpenRecord
  | 0, o => ([], o)
  | n + 1, o =>
    let r := splitRecord n (continuationOf o)
    ((o.start, closedRecord o Config.maxDuration) :: r.1, r.2)

/-- The splits an open record needs before a sample or cut at a time: while the elapsed ticks exceed the
largest duration, over the whole of a pause of the state clock (R23; assumption 49). -/
def splitCount (t : Time) (o : OpenRecord) : Nat := (elapsed t o.start - 1) / Config.maxDuration

/-- An open record as it stands at a time: the records that the largest duration closes, and what stays
open (R23). -/
def splitAt (t : Time) (o : OpenRecord) : List (Time × Record) × OpenRecord :=
  splitRecord (splitCount t o) o

/-- The records an open record closes into at a time (R23). -/
def closeAt (t : Time) (o : OpenRecord) : List (Time × Record) :=
  let r := splitAt t o
  r.1 ++ [(r.2.start, closedRecord r.2 (elapsed t r.2.start))]

/-- The records an end cut closes: an open record that began at the cut holds no tick and is dropped,
unless it is the trigger record (R19, R38, R39). -/
def cutRecords (t : Time) (o : OpenRecord) : List Record :=
  ((closeAt t o).map (·.2)).filter fun r => r.duration != 0 || r.triggerPoint

/-- A new open record at a sample. -/
def openAt (s : State) (trigger : Bool) (x : Sample) : OpenRecord :=
  { value := x.levels, start := x.stamp, triggerPoint := trigger, continuation := false
    loop := s.ce.table.loop }

/-- The compressor has handled a sample (R20). -/
def noteHandled (x : Sample) (s : State) : State :=
  { s with ce := { s.ce with handled := s.ce.handled + 1, previous := some x.levels } }

/-- The segment's start time set at the first sample handled (R21, R22, R53). -/
def noteStart (t : Time) (s : State) : State :=
  match s.ce.segment with
  | some n => modifySegment n (fun g => { g with startTime := some t }) s
  | none => s

/-- The compressor opens a record at a sample, if the capture still runs. -/
def openRecordAt (trigger : Bool) (x : Sample) (s : State) : State :=
  if capturing s then noteHandled x { s with ce.openRecord := some (openAt s trigger x) } else s

/-- The compressor handles a sample (R21 to R23). -/
def handleSample (x : Sample) (s : State) : State :=
  match s.ce.openRecord with
  | none => openRecordAt false x (noteStart x.stamp s)
  | some o =>
    if s.ce.table.mode = .timing ∧ o.value = x.levels then
      let r := splitAt x.stamp o
      let s1 := pushRecords r.1 s
      if capturing s1 then noteHandled x { s1 with ce.openRecord := some r.2 } else s1
    else openRecordAt false x (pushRecords (closeAt x.stamp o) s)

/-- Samples handled in order, until the capture ends. -/
def handleSamples (xs : List Sample) (s : State) : State :=
  xs.foldl (fun t x => if capturing t then handleSample x t else t) s

/-! ### Armed, the cuts and the trigger (R34 to R39) -/

/-- The segment enters Armed (R34). -/
def enterArmed (s : State) : State := { s with ce.engine := .armed, ts := runTs s.ts }

/-- PreFill ends when F samples have been handled (R34). -/
def checkPreFill (s : State) : State :=
  if s.ce.engine = .preFill ∧ s.ce.preFill ≤ s.ce.handled then enterArmed s else s

/-- The end cut at a time, for a reason (R38 to R40). -/
def endCut (reason : EndReason) (t : Time) (s : State) : State :=
  let gap := (s.ce.episode.map fun e => gapRecord s e e.lost).toList
  let records := match s.ce.openRecord with
    | some o => cutRecords t o
    | none => []
  enterClosing reason t (gap ++ records) s

/-- A sample met in Triggered: the end cut at sample m + P, and otherwise it is handled (R38). -/
def triggeredSample (s : State) (x : Sample) : State :=
  if s.ce.engine = .triggered then
    if s.ce.endIndex = some s.ce.handled then endCut .postComplete x.stamp s else handleSample x s
  else s

/-- The trigger fields of the segment, set at the trigger cut (R35). -/
def noteTrigger (t : Time) (cause : Cause) (s : State) : State :=
  match s.ce.segment with
  | some n => modifySegment n (fun g => { g with triggerTime := some t, triggerCause := some cause }) s
  | none => s

/-- The open record cut at the trigger time; none is open at sample 0, which starts the segment (R35). -/
def cutOpenRecord (t : Time) (s : State) : State :=
  match s.ce.openRecord with
  | some o => pushRecords (closeAt t o) s
  | none => noteStart t s

/-- The trigger cut at a sample (R35): trigger fields, the cut, the trigger record, Triggered. A cut that
ends the capture Stalled leaves no trigger (R27). -/
def triggerCut (x : Sample) (cause : Cause) (s : State) : State :=
  let s1 := cutOpenRecord x.stamp s
  if capturing s1 then
    let s2 := openRecordAt true x (noteTrigger x.stamp cause s1)
    { s2 with ce := { s2.ce with
        engine := .triggered, endIndex := some (s1.ce.handled + s.ce.post), heldForce := false } }
  else s1

/-- What follows the trigger cut at a sample: with P = 0 the end cut at once, else the staging line is
emptied into the compressor (R20, R38). -/
def afterTriggerCut (x : Sample) (s : State) : State :=
  if s.ce.engine = .triggered then
    if s.ce.post = 0 then endCut .postComplete x.stamp s
    else s.ce.staging.foldl triggeredSample { s with ce.staging := [] }
  else s

/-- A trigger passed to the Signal Generator and to the LP (R17, R82). -/
def passTrigger (t : Time) (cause : Cause) (s : State) : State :=
  let s1 := { s with gen := triggerGenerator s.gen }
  match s.ce.segment with
  | some n => raiseNotice (.triggered n t cause) s1
  | none => s1

/-- A Fire at a sample: passed on by the TS whatever becomes of the cut (R27, R82). -/
def fireAt (x : Sample) (n : Fin 8) (s : State) : State :=
  afterTriggerCut x (triggerCut x (.stage n) (passTrigger x.stamp (.stage n) s))

/-- A forced trigger at a sample: passed on by the CE, unless the cut ended the capture (R27, R36). The
sequencer's trigger time is then left as FORCE set it (assumption 51). -/
def forceAt (x : Sample) (s : State) : State :=
  let s1 := triggerCut x .forced s
  if s1.ce.engine = .triggered then
    afterTriggerCut x
      (passTrigger x.stamp .forced { s1 with ts := { s1.ts with triggerTime := some x.stamp } })
  else s1

/-- A forced trigger once the trigger sample is taken: every staged sample older than it is handled first
(R36). -/
def forceAfter (older : List Sample) (x : Sample) (s : State) : State :=
  let s1 := handleSamples older { s with ce := { s.ce with staging := [] } }
  if capturing s1 then forceAt x s1 else s1

/-! ### The sampler (R11, R12, R20) -/

/-- The sampler has a sample to take, or the clock to examine, at this tick (R11, R12). -/
def sampleDue (s : State) : Bool := capturing s && atOrBefore s.ce.nextTick s.time

/-- A change of the clock channel between two examinations qualifies (R12). -/
def qualifies (e : Polarity) (old new : Bool) : Bool :=
  match e with
  | .rising => !old && new
  | .falling => old && !new
  | .either => old != new

/-- The sample the sampler takes at this tick, if it takes one: always in timing capture, and at a
qualifying edge in state capture (R11, R12). -/
def sampleNow (s : State) : Option Sample :=
  let w := sampleLevels s
  let x : Sample := { stamp := s.time, levels := w }
  match s.ce.table.mode with
  | .timing => some x
  | .state =>
    match s.ce.clock with
    | none => none
    | some old =>
      if qualifies s.ce.table.clockEdge old (w.getLsbD s.ce.table.clockChannel) then some x else none

/-- The sampler moves on to its next tick, remembering the clock level of this one (R11, R12). -/
def advanceSampler (levels : Word) (s : State) : State :=
  { s with ce := { s.ce with
      nextTick := addTicks s.ce.nextTick (samplerStep s.ce.table)
      clock := some (levels.getLsbD s.ce.table.clockChannel) } }

/-- What the evaluation of a staged sample presents, with the sample after it (R64). Only in timing capture
is a sample taken at the tick at which the prescaler is cleared, and it is sample 0 (R8, R11, R12). -/
def presentedAt (s : State) (m next : Sample) : Presented :=
  presentedOf s.ts s.ce.startTick (s.ce.table.mode == .timing && s.ce.handled == 0) m.stamp next.stamp
    m.levels s.ce.previous

/-- What the evaluation that is due with the next sample taken presents: the sample at the head of a full
staging line, when the TS runs (R63, R64). -/
def dueEvaluation (s : State) : Option Presented :=
  if s.ts.run = .running ∧ s.ce.staging.length = Config.stagingDepth then
    match s.ce.staging with
    | m :: q :: _ => some (presentedAt s m q)
    | _ => none
  else none

/-- The sample sixteen before the newest is handled, and evaluated while the TS runs (R20, R63). -/
def handleStaged (m next : Sample) (s : State) : State :=
  if s.ts.run = .running then
    let r := evaluate s.ts (presentedAt s m next)
    let s1 := { s with ts := r.1 }
    match r.2 with
    | some n => fireAt m n s1
    | none => handleSample m s1
  else checkPreFill (handleSample m { s with ts := passSymbols next.stamp s.ts })

/-- A sample enters the staging line, and the one sixteen before it leaves (R20). -/
def stageSample (x : Sample) (s : State) : State :=
  let line := s.ce.staging ++ [x]
  if Config.stagingDepth < line.length then
    match line with
    | m :: q :: rest => handleStaged m q { s with ce.staging := q :: rest }
    | _ => s
  else { s with ce.staging := line }

/-- The CE takes a sample: the trigger sample of a FORCE that is held, a sample for the staging line, or a
sample met in Triggered (R20, R36, R38). -/
def ceSample (x : Sample) (s : State) : State :=
  let s1 := { s with ce := { s.ce with taken := s.ce.taken + 1 } }
  if s1.ce.heldForce then forceAfter s1.ce.staging x s1
  else if s1.ce.engine = .triggered then triggeredSample s1 x
  else stageSample x s1

/-- The lanes' runs end once the engine is Closing: at its entry (R112 over R90; assumption 68). -/
def endRuns (s : State) : State :=
  if s.ce.engine = .closing then finishLanes s.ce.table.divisor s else s

/-- A sample goes to the CE, with the TS, and to the lanes, and the merge horizon advances (R20, R90,
R121). -/
def takeSample (x : Sample) (s : State) : State :=
  let s1 := lanesSample s.ce.table.divisor x (ceSample x s)
  endRuns { s1 with sm := noteStamp x.stamp s1.sm }

/-- The levels of this tick once the CE has taken a sample of it: a trigger that the CE passes with that
sample starts its bursts at this very tick (R13, R14, R17; assumption 47). -/
def levelsTaken (x : Sample) (s : State) : Word := sampleLevels { s with gen := (ceSample x s).gen }

/-- The sample the sampler takes at this tick, with the levels of the tick, if it takes one (R11 to R14). -/
def sampleTaken (s : State) : Option Sample :=
  (sampleNow s).map fun x => { x with levels := levelsTaken x s }

/-- A forced trigger at the newest sample taken, which is the newest staged one (R36). -/
def forceNewest (s : State) : State :=
  match s.ce.staging.reverse with
  | [] => s
  | x :: older => endRuns (forceAfter older.reverse x { s with ts := forceTs (some x.stamp) s.ts })

/-- A FORCE held for the sample of its own tick, when that sample does not come: the trigger sample is the
newest one taken (R36, R39; assumption 46). -/
def releaseForce (s : State) : State :=
  if s.ce.heldForce = true ∧ s.ce.taken ≠ 0 then forceNewest s else s

/-- An examination of the clock that takes no sample (R12). -/
def examineOnly (s : State) : State := advanceSampler (sampleLevels s) s

/-- The sampler's work at a tick at which it is due (R11, R12). -/
def sampleTick (s : State) : State :=
  let s1 := settle s
  match sampleTaken s1 with
  | some x => takeSample x (advanceSampler x.levels s1)
  | none => examineOnly (releaseForce s1)

/-- SAMPLE (R11, R12, R20). -/
def execSample (s : State) : Host.Outcome State Fault Refusal :=
  .next (if sampleDue s then sampleTick s else s)

/-! ### Parts of the coming sample that can be taken ahead of it (R78, R93, R106) -/

/-- COUNTER_EXPIRY: a counter that expires in the evaluation now due expires (R78, R79). The expiry stands
also where a FORCE or STOP then keeps the sample from being evaluated (R81; assumption 12). -/
def execCounterExpiry (i : Fin 2) (s : State) : Host.Outcome State Fault Refusal :=
  if sampleDue s ∧ (sampleNow (settle s)).isSome then
    match dueEvaluation s with
    | some x => .next { s with ts := (expireEarly i s.ts x).getD s.ts }
    | none => .next s
  else .next s

/-- The sample a running lane processes with the sample now due (R90, R91). -/
def dueLaneSample (l : Fin 4) (s : State) : Option LaneSample :=
  if sampleDue s ∧ s.lanes[l].mode = .running then
    (sampleTaken s).bind fun x => nextReleased s.laneTable[l] s.ce.table.divisor x s.lanes[l]
  else none

/-- GAP_DEADLINE: the sample a lane is about to process lies at or past its gap deadline, so the lane emits
the Stop and its frame closes (R93). A symbol it emits here reaches the sequencer ahead of the evaluation of
the SAMPLE that follows, and a late one is presented with it (R65; assumption 12). -/
def execGapDeadline (l : Fin 4) (s : State) : Host.Outcome State Fault Refusal :=
  let s1 := settle s
  match dueLaneSample l s1 with
  | none => .next s
  | some x =>
    let r := gapStop s1.laneTable[l] x s1.lanes[l].decoder
    if r.2.isEmpty then .next s
    else .next (emitSymbols l r.2 (modifyLane l (fun q => { q with decoder := r.1 }) s1))

/-- STRETCH_TIMEOUT: the sample a TwoWire lane is about to process carries its clock's low interval past
the stretch limit, so a timeout is marked (R106). -/
def execStretchTimeout (l : Fin 4) (s : State) : Host.Outcome State Fault Refusal :=
  let s1 := settle s
  match dueLaneSample l s1, s1.laneTable[l].kind with
  | some x, .twoWire p =>
    if stretchReached p x s1.lanes[l].decoder then
      .next (modifyLane l (fun q => { q with decoder := markTimeout q.decoder }) s1)
    else .next s
  | _, _ => .next s

/-! ### The ring (R28, R29) -/

/-- The ring position after the newest (R28). -/
def ringNext (g : SegmentStatus) (capacity : Nat) : Nat :=
  match g.newest with
  | some p => (p + 1) % capacity
  | none => 0

/-- The status record once a record has replaced the oldest one (R28). -/
def replacedRecord (capacity position : Nat) (old : Record) (g : SegmentStatus) : SegmentStatus :=
  { g with
    oldest := some ((position + 1) % capacity)
    startTime := g.startTime.map fun t => addTicks t old.duration
    gapCount := g.gapCount - flag old.gap }

/-- The status record once a record has been written to a ring that is not full (R28). -/
def addedRecord (position : Nat) (g : SegmentStatus) : SegmentStatus :=
  { g with oldest := some (g.oldest.getD position), recordCount := g.recordCount + 1 }

/-- What the write of a record sets in the status record, full ring or not (R28, R37). -/
def wroteRecord (position : Nat) (r : Record) (g : SegmentStatus) : SegmentStatus :=
  { g with
    newest := some position
    endTime := some (addTicks (g.endTime.getD (g.startTime.getD 0)) r.duration)
    gapCount := g.gapCount + flag r.gap
    triggerPosition := if r.triggerPoint then some position else g.triggerPosition }

/-- The capture ends MemoryLimit: nothing further is written (R29). -/
def memoryLimit (n : Fin 32) (s : State) : State :=
  enterClosing .memoryLimit (s.segments[n].endTime.getD 0) [] { s with ce.queue := [] }

/-- After a drain: in a capture an open episode's gap record takes the freed slot; in Closing the waiting
records move up (R26, R40). -/
def afterDrain (s : State) : State :=
  if s.ce.engine = .closing then feed s
  else match s.ce.episode with
    | some e =>
      if s.ce.queue.length < Config.normalSlots then
        { s with ce := { s.ce with queue := s.ce.queue ++ [gapRecord s e e.lost], episode := none } }
      else s
    | none => s

/-- The head of the queue written to the ring of a segment (R28, R29). -/
def drainRecord (n : Fin 32) (r : Record) (rest : List Record) (s : State) :
    Host.Outcome State Fault Refusal :=
  let capacity := ringCapacity s.plan[n]
  let g := s.segments[n]
  let position := ringNext g capacity
  if g.triggerPosition = some position then .next (endRuns (memoryLimit n s))
  else
    let a := recordAddress s.plan[n] position
    if inDram s a 8 then
      let g1 := if g.recordCount < capacity then addedRecord position g
        else replacedRecord capacity position (readRecord s n position) g
      let s1 := { s with
        segments := s.segments.set n (wroteRecord position r g1)
        dram := memWriteBytes s.dram a (recordBytes r), ce.queue := rest }
      .next (afterDrain (noteRender n (fun d => { d with ringWrites := d.ringWrites + 1 }) s1))
    else .fault .addressOutsideDram

/-- WRITE_QUEUE_DRAIN: a grant to the write queue (R28, R59). -/
def execWriteQueueDrain (s : State) : Host.Outcome State Fault Refusal :=
  if granted s .drain then
    match s.ce.segment, s.ce.queue with
    | some n, r :: rest => drainRecord n r rest s
    | _, _ => .next s
  else .next s

/-! ### The Symbol Merger's grants (R122, R124) -/

/-- SYMBOL_WRITE: a grant to the Symbol Merger, at its own priority or at the redecode's (R122). -/
def execSymbolWrite (s : State) : Host.Outcome State Fault Refusal :=
  if granted s .mergeWrite || granted s .redecodeWrite then
    match mergeSegment s, nextSymbol s with
    | some n, some (l, y) => mergeSymbol n l y s
    | _, _ => .next s
  else .next s

/-- SYMBOL_TRIM: a grant to the Symbol Merger for one trim step, at its own priority at a close or at the
redecode's (R122, R124). -/
def execSymbolTrim (s : State) : Host.Outcome State Fault Refusal :=
  if granted s .mergeTrim || granted s .redecodeTrim then
    match trimTarget s with
    | some (n, a, b) => .next (trimStep n a b s)
    | none => .next s
  else .next s

/-! ### ARM and the entry to PreFill (R32, R33, R89) -/

/-- The Capture Engine at the entry of a segment to PreFill (R33). -/
def preFillCe (n : Fin 32) (now : Time) (c : Ce) : Ce :=
  { c with
    engine := .preFill, segment := some n, preFill := c.table.preFill, post := c.table.postTrigger
    startTick := now, nextTick := now, clock := none, taken := 0, handled := 0, staging := []
    previous := none, openRecord := none, queue := [], lastValue := 0, episode := none
    heldForce := false, endIndex := none, reason := none, endTime := none, toPush := []
    stopTaken := false }

/-- The status record of a segment that enters PreFill (R33, R53). -/
def fillingSegment (loop : Bool) (g : SegmentStatus) : SegmentStatus :=
  { emptySegment g.holdCount with state := .filling, loop := loop, symbolStatus := some .complete }

/-- A segment enters PreFill, from ARM or as the next of a sequence; with F = 0 it enters Armed at once
(R33, R34, R41). -/
def startSegment (n : Fin 32) (s : State) : State :=
  let s1 := { s with
    ce := preFillCe n s.time s.ce, prescaler := 0, ts := offTs s.ts, sm := { stamps := [] } }
  checkPreFill (startLanes .running (modifySegment n (fillingSegment s.ce.table.loop) s1))

/-- The lane checks of ARM for one lane: 9b and 9c (R89). -/
def laneRefusal (a : AcqEntry) (e : LaneEntry) : Option RefusalCode :=
  if !e.enable then none
  else if a.width = .narrow ∧ a.loop = false ∧ (laneChannels e.kind).any (fun k => decide (16 ≤ k)) then
    some .channelUnavailable
  else match e.kind with
    | .async p => if p.bq < 1024 * a.divisor then some .rateTooHigh else none
    | _ => none

/-- A lane is On. -/
def anyLaneOn (s : State) : Bool := s.laneTable.toList.any fun e => e.enable

/-- The ninth check of ARM (R89). -/
def lanesRefusal (s : State) : Option RefusalCode :=
  if s.ce.table.mode = .state ∧ anyLaneOn s then some .laneNeedsTiming
  else s.laneTable.toList.findSome? (laneRefusal s.ce.table)

/-- The checks of ARM on a segment, in order (R10, R32). -/
def armRefusal (k : Nat) (s : State) : Option RefusalCode :=
  let a := s.ce.table
  if !engineIdle s then some .busy
  else if s.redecode.isSome then some .busy
  else match toFin 32 k with
    | none => some .badValue
    | some n =>
      if !s.plan[n].planned then some .notPlanned
      else if n.val < a.retainFloor then some .retained
      else if s.segments[n].holdCount ≠ 0 then some .held
      else if a.mode = .timing ∧ a.width = .wide ∧ a.divisor = 1 then some .rateTooHigh
      else if a.mode = .state ∧ a.width = .narrow ∧ 16 ≤ a.clockChannel.val ∧ a.loop = false then
        some .channelUnavailable
      else lanesRefusal s

/-- A capture or a sequence begins in a segment (R33). -/
def beginCapture (n : Fin 32) (s : State) : State :=
  startSegment n { s with ce := { s.ce with sequence := s.ce.table.sequenceCount, done := 0 } }

/-- What ARM does, once its form is checked (R32, R33, R181). -/
def armOwner (c : LinkCell) (s : State) : State :=
  let s1 := leaveStandby s
  let k := byteAt c.payload 0
  match armRefusal k s1 with
  | some code => putReply c.tag (.refused code 0) s1
  | none => putReply c.tag .accepted (beginCapture (Fin.ofNat 32 k) s1)

/-- ARM (R32). -/
def execArm (s : State) : Host.Outcome State Fault Refusal := dispatch .arm (some 1) false s armOwner

/-! ### STOP and FORCE (R36, R39) -/

/-- The end of a capture by STOP, once the staged samples are handled (R39): a segment that has handled no
sample starts and ends at this tick. -/
def stopCut (s : State) : State :=
  if capturing s then
    endCut .stopped s.time (if s.ce.handled = 0 then noteStart s.time s else s)
  else s

/-- The sampler stops and the staged samples are handled; a sample stamped at this tick is not taken. Where
SAMPLE took it ahead of the STOP, what the lanes have decoded of it stays, and in Triggered, where it is not
staged, what the engine did with it stays too (R39; assumption 16). -/
def stopSampling (s : State) : State :=
  let staged := s.ce.staging.filter fun x => x.stamp != s.time
  let s1 := { s with ts := haltTs s.ts, ce := { s.ce with staging := [], stopTaken := true } }
  endRuns (stopCut (handleSamples staged s1))

/-- STOP while a capture runs (R39). A FORCE of this tick that is held for the tick's sample has triggered
before it (R36; assumption 46). -/
def stopCapture (s : State) : State :=
  let s1 := releaseForce s
  if capturing s1 then stopSampling s1 else s1

/-- STOP (R39). -/
def execStop (s : State) : Host.Outcome State Fault Refusal :=
  dispatch .stop (some 0) false s fun c t =>
    putReply c.tag (.done []) (if capturing t then stopCapture t else t)

/-- A sample is still to be taken at this tick. -/
def sampleComes (s : State) : Bool := sampleDue s && (sampleNow (settle s)).isSome

/-- FORCE in PreFill or Armed (R36, R81). The trigger sample is the newest one taken, whose period contains
the tick. Where no sample has been taken yet, or one is still to be taken at this very tick, the trigger is
held for it (assumption 46). -/
def forceCapture (s : State) : State :=
  if s.ce.taken = 0 ∨ sampleComes s = true then { s with ce.heldForce := true, ts := forceTs none s.ts }
  else forceNewest s

/-- FORCE (R36). -/
def execForce (s : State) : Host.Outcome State Fault Refusal :=
  dispatch .force (some 0) false s fun c t =>
    putReply c.tag (.done [])
      (if t.ce.engine = .preFill ∨ t.ce.engine = .armed then forceCapture t else t)

/-! ### Closing and sequencing (R40, R41) -/

/-- Everything the close waits for is done (R40). -/
def closeReady (s : State) : Bool :=
  s.ce.engine == .closing && s.ce.queue.isEmpty && s.ce.toPush.isEmpty && fifosEmpty s && !trimDue s

/-- A segment a sequence may choose next (R41). -/
def candidate (s : State) (n : Fin 32) : Bool :=
  s.plan[n].planned && decide (s.ce.table.retainFloor ≤ n.val) && s.segments[n].holdCount == 0

/-- The next segment of a sequence after a closed one: the numbers above it, then from the retain floor up
to below it (R41). -/
def nextSegment (s : State) (closed : Fin 32) : Option (Fin 32) :=
  let all := List.finRange 32
  (all.filter (closed < ·) ++ all.filter (· < closed)).find? (candidate s)

/-- The engine is Idle, with no current segment, and the merge horizon is absent (R41, R124). -/
def idleEngine (s : State) : State :=
  { s with ce := { idleCe with table := s.ce.table }, sm := { stamps := [] } }

/-- The end of a sequence (R41). -/
def endSequence (done : Nat) (reason : SequenceEnd) (s : State) : State :=
  raiseNotice (.sequenceEnded done reason) (idleEngine s)

/-- The engine goes on after the close of a segment (R41). -/
def proceed (n : Fin 32) (s : State) : State :=
  let done := s.ce.done + 1
  if s.ce.sequence ≤ 1 then idleEngine s
  else if done = s.ce.sequence then endSequence done .complete s
  else if s.ce.stopTaken then endSequence done .stopped s
  else match nextSegment s n with
    | none => endSequence done .noSegment s
    | some m => startSegment m { s with ce := { s.ce with done := done } }

/-- The status record completed at the close (R40). -/
def closedSegment (reason : EndReason) (endTime : Option Time) (g : SegmentStatus) : SegmentStatus :=
  { g with state := .closed, endTime := endTime, endReason := some reason }

/-- The close of a segment completes (R40, R41). -/
def completeClose (n : Fin 32) (reason : EndReason) (s : State) : State :=
  let s1 := modifySegment n (closedSegment reason s.ce.endTime) s
  proceed n (raiseNotice (.captureClosed n reason s1.segments[n].recordCount) s1)

/-- CLOSE_COMPLETE (R40, R41). -/
def execCloseComplete (s : State) : Host.Outcome State Fault Refusal :=
  if closeReady s then
    match s.ce.segment, s.ce.reason with
    | some n, some reason => .next (completeClose n reason s)
    | _, _ => .next s
  else .next s

/-! ### A link reset of the Capture Engine (R42) -/

/-- The status record of a segment that a link reset closes (R42). -/
def resetSegment (now : Time) (g : SegmentStatus) : SegmentStatus :=
  let start := g.startTime.getD now
  let written := g.triggerPosition.isSome
  { g with
    state := .closed, startTime := some start, endTime := some (g.endTime.getD start)
    endReason := some .reset
    triggerTime := if written then g.triggerTime else none
    triggerCause := if written then g.triggerCause else none }

/-- Symbols a link reset discards from the FIFOs (R117). -/
def fifoTotal (s : State) : Nat :=
  ((List.finRange 4).map fun (l : Fin 4) => s.lanes[l].fifo.length).sum

/-- The symbol fields of a segment after a link reset discarded symbols of its capture (R117). -/
def discardedSymbols (k : Nat) (g : SegmentStatus) : SegmentStatus :=
  if k = 0 then g else { countLost k g with symbolStatus := some .truncated }

/-- A link reset of a capture in progress: the segment closes with reason Reset, and its span is trimmed
(R42, R117, R124). -/
def resetCapture (s : State) : State :=
  match s.ce.segment with
  | none => s
  | some n =>
    let s1 := modifySegment n (fun g => discardedSymbols (fifoTotal s) (resetSegment s.time g)) s
    let g := s1.segments[n]
    idleEngine (trimAll n (g.startTime.getD 0) (g.endTime.getD 0) g.symbolCount s1)

end Sys2Proof.Machine
end

