-- ==== Sys2Proof/Machine/Redecode.lean ====
section
/-! DEFINITION. REDECODE (chapter 6.5): its checks, the replay stream, its end, and its abort by a link
reset. -/

namespace Sys2Proof.Machine

/-- The lane checks of REDECODE for one lane (R125). -/
def redecodeLaneRefusal (a : AcqEntry) (e : LaneEntry) : Option RefusalCode :=
  if !e.enable then none
  else match e.kind with
    | .async p => if p.bq < 1024 * a.divisor then some .rateTooHigh else none
    | _ => none

/-- The checks of REDECODE on a segment, in order (R125). -/
def redecodeRefusal (k : Nat) (s : State) : Option RefusalCode :=
  if !engineIdle s then some .busy
  else if s.redecode.isSome then some .busy
  else match toFin 32 k with
    | none => some .badValue
    | some n =>
      if s.segments[n].state ≠ .closed then some .notClosed
      else if readsSymbolsOf s n then some .busy
      else if s.ce.table.mode = .state ∧ anyLaneOn s then some .laneNeedsTiming
      else s.laneTable.toList.findSome? (redecodeLaneRefusal s.ce.table)

/-- The status record once its span has been emptied for a redecode (R126). -/
def emptiedSpan (g : SegmentStatus) : SegmentStatus :=
  { g with symbolFirst := none, symbolCount := 0, symbolLost := 0, symbolStatus := some .incomplete }

/-- The records a replay stream reads: none when the segment has no records or no ticks (R127). -/
def replayRecords (g : SegmentStatus) : Nat := if g.startTime = g.endTime then 0 else g.recordCount

/-- The lanes end their replay once the stream has been given in full (R128). -/
def endReplay (s : State) : State :=
  match s.redecode with
  | some r => if r.left = 0 then finishLanes r.divisor s else s
  | none => s

/-- A redecode of a segment starts (R126). -/
def beginRedecode (n : Fin 32) (s : State) : State :=
  let g := s.segments[n]
  let start := g.startTime.getD 0
  let r : Redecode :=
    { segment := n, divisor := s.ce.table.divisor, stamp := start, next := g.oldest.getD 0
      left := replayRecords g, start := start, refused := false }
  let s1 := startLanes .replaying (modifySegment n emptiedSpan s)
  endReplay (omitAnnotations n { s1 with redecode := some r, sm := { stamps := [] } })

/-- What REDECODE does, once its form is checked (R125, R181). -/
def redecodeOwner (c : LinkCell) (s : State) : State :=
  let s1 := leaveStandby s
  let k := byteAt c.payload 0
  match redecodeRefusal k s1 with
  | some code => putReply c.tag (.refused code 0) s1
  | none => putReply c.tag .accepted (beginRedecode (Fin.ofNat 32 k) s1)

/-- REDECODE (R125). -/
def execRedecode (s : State) : Host.Outcome State Fault Refusal :=
  dispatch .redecode (some 1) false s redecodeOwner

/-! ### The replay stream (R127) -/

/-- The replay samples whose stamps lie before a time, from a stamp on. -/
def samplesBefore (divisor : Nat) (stamp stop : Time) : Nat :=
  if before stamp stop then (elapsed stop stamp + divisor - 1) / divisor else 0

/-- Replay samples of one value given to the lanes (R127). -/
def giveSamples (divisor : Nat) (value : Word) : Nat → Time → State → State
  | 0, _, s => s
  | k + 1, t, s =>
    let s1 := lanesSample divisor { stamp := t, levels := value } s
    giveSamples divisor value k (addTicks t divisor) { s1 with sm := noteStamp t s1.sm }

/-- The redecode after one record of its stream (R127). -/
def replayed (capacity : Nat) (stop : Time) (count : Nat) (r : Redecode) : Redecode :=
  { r with stamp := addTicks r.stamp (count * r.divisor), next := (r.next + 1) % capacity
           left := r.left - 1, start := stop }

/-- One record of the stream read, its samples given, and the lanes ended after the last (R127, R128). -/
def replayRecord (r : Redecode) (s : State) : State :=
  let q := readRecord s r.segment r.next
  let stop := addTicks r.start q.duration
  let count := samplesBefore r.divisor r.stamp stop
  let s1 := giveSamples r.divisor q.value count r.stamp s
  let capacity := ringCapacity s.plan[r.segment]
  endReplay { s1 with redecode := s1.redecode.map (replayed capacity stop count) }

/-- REDECODE_RECORD_READ: a grant to the redecode for one record (R127). -/
def execRedecodeRecordRead (s : State) : Host.Outcome State Fault Refusal :=
  if granted s .redecodeRead then
    match s.redecode with
    | some r =>
      if inDram s (recordAddress s.plan[r.segment] r.next) 8 then .next (replayRecord r s)
      else .fault .addressOutsideDram
    | none => .next s
  else .next s

/-! ### The end of a redecode (R128, R130) -/

/-- The redecode has nothing left to do (R128). -/
def redecodeFinished (s : State) : Bool :=
  match s.redecode with
  | some r => r.left == 0 && fifosEmpty s && !trimDue s
  | none => false

/-- A redecode completes (R128). -/
def completeRedecode (r : Redecode) (s : State) : State :=
  let status := if r.refused then .redecodedTruncated else .redecoded
  let s1 := modifySegment r.segment (fun g => { g with symbolStatus := some status }) s
  let g := s1.segments[r.segment]
  raiseNotice (.redecodeDone r.segment status g.symbolCount g.symbolLost)
    { s1 with redecode := none, sm := { stamps := [] } }

/-- REDECODE_DONE (R128). -/
def execRedecodeDone (s : State) : Host.Outcome State Fault Refusal :=
  if redecodeFinished s then
    match s.redecode with
    | some r => .next (completeRedecode r s)
    | none => .next s
  else .next s

/-- The status record of a segment whose redecode is aborted (R130). -/
def abortedSpan (g : SegmentStatus) : SegmentStatus := { g with symbolStatus := some .incomplete }

/-- A link reset aborts a redecode: its span is trimmed and stays Incomplete (R130). -/
def abortRedecode (s : State) : State :=
  match s.redecode with
  | none => s
  | some r =>
    let g := s.segments[r.segment]
    let s1 := trimAll r.segment (g.startTime.getD 0) (g.endTime.getD 0) g.symbolCount s
    { modifySegment r.segment abortedSpan s1 with redecode := none }

end Sys2Proof.Machine
end

