-- ==== Sys2Proof/Machine/Tables.lean ====
section
/-! DEFINITION. WRITE and READ of the seventeen tables (chapter 9.5): the checks of a WRITE, what storing an
entry of each table checks and does, and the rows of the opcode table that carry a WRITE out. -/

namespace Sys2Proof.Machine

/-! ### Write conditions (R168) -/

/-- The CE is Idle and no redecode runs. -/
def acquisitionFree (s : State) : Bool := engineIdle s && s.redecode.isNone

/-- The write condition of a table (R168). -/
def writable (s : State) (t : Nat) : Bool :=
  match t with
  | 2 | 12 | 13 | 16 => true
  | 3 => acquisitionFree s && s.re.job == .idle && !readoutRuns s
  | 10 => s.re.active != .a
  | 11 => s.re.active != .b
  | 14 | 15 => s.re.job != .drawing
  | _ => acquisitionFree s

/-! ### The checks of a WRITE (R167) -/

/-- What storing entries came to: the state after them, and the refusal that stopped them, with the table
index of the refused entry. -/
abbrev Stored := State × Option (RefusalCode × Nat)

/-- What storing one entry does: the code it is refused with, or the state after it. -/
abbrev EntryStore := Nat → List Byte → State → RefusalCode ⊕ State

/-- Some entries stored one at a time, in index order, until one is refused (R167, step 5). -/
def storeEntries (store : EntryStore) (size : Nat) : Nat → Nat → List Byte → State → Stored
  | 0, _, _, s => (s, none)
  | n + 1, k, bs, s =>
    match store k (bs.take size) s with
    | .inl code => (s, some (code, k))
    | .inr s1 => storeEntries store size n (k + 1) (bs.drop size) s1

/-- The refusal of a WRITE as a whole, with its index: steps 1 to 4 of R167. -/
def wholeRefusal (c : LinkCell) (s : State) : Option (RefusalCode × Nat) :=
  let t := byteAt c.payload 0
  let first := byteAt c.payload 1
  let size := entrySize t
  if c.payload.length < 2 then some (.badLength, 0)
  else if 16 < t then some (.badTable, 0)
  else if (c.payload.length - 2) % size ≠ 0 then some (.badLength, 0)
  else if tableEntries t ≤ first ∨ tableEntries t < first + (c.payload.length - 2) / size then
    some (.badIndex, 0)
  else if !writable s t then some (.busy, first)
  else none

/-- A refused reply with an index. -/
def refuseAt (tag : Byte) (r : RefusalCode × Nat) (s : State) : State :=
  putReply tag (.refused r.1 (BitVec.ofNat 8 r.2)) s

/-- A WRITE of a table whose entries are stored in one way (R167): what follows once every entry has been
stored is given too. -/
def writeTable (store : EntryStore) (done : LinkCell → State → State) (c : LinkCell) (s : State) : State :=
  match wholeRefusal c s with
  | some r => refuseAt c.tag r s
  | none =>
    let size := entrySize (byteAt c.payload 0)
    let n := (c.payload.length - 2) / size
    match storeEntries store size n (byteAt c.payload 1) (c.payload.drop 2) s with
    | (s1, some r) => refuseAt c.tag r s1
    | (s1, none) => done c s1

/-- The Done reply of a WRITE. -/
def writeDone (c : LinkCell) (s : State) : State := putReply c.tag (.done []) s

/-! ### Storing an entry of each table -/

/-- A stored entry, or BadValue where its reader refuses it (R187). -/
def storeRead {α : Type} (e : Option α) (f : α → State) : RefusalCode ⊕ State :=
  match e with
  | some v => .inr (f v)
  | none => .inl .badValue

/-- An entry of table 0, the acquisition (R9, R30). -/
def storeAcq : EntryStore := fun _ bs s => storeRead (readAcq bs) fun v => { s with ce.table := v }

/-- An entry of table 1, a pod: it acts on the pod's comparators from this tick (R1, R2). -/
def storePod : EntryStore := fun k bs s =>
  let i := Fin.ofNat 4 k
  let p := { s.pfe with table := s.pfe.table.set i (readPod bs) }
  .inr { s with pfe := decidePod false i p }

/-- An entry of table 2, the generator: its output restarts (R15). -/
def storeGen : EntryStore := fun k bs s =>
  let i := Fin.ofNat 2 k
  storeRead (readGen bs) fun v => { s with
    gen := restartOutput i { s.gen with table := s.gen.table.set i v } }

/-- A span of some blocks lies within a region (R46). -/
def within (first count lo hi : Nat) : Bool := decide (lo ≤ first ∧ first + count ≤ hi)

/-- The spans of a planned entry lie within some regions; a symbol span of 0 blocks lies anywhere (R46,
R50). -/
def spansWithin (r : Regions) (p : PlanEntry) : Bool :=
  within p.captureFirst p.captureCount 0 r.captureEnd &&
    (p.symbolCount == 0 || within p.symbolFirst p.symbolCount r.captureEnd r.symbolEnd)

/-- The Frame Region of some regions can hold both buffers of a panel size (R45). -/
def framesFit (s : State) (symbolEnd width height : Nat) : Bool :=
  decide (2 * bufferBlocks width height ≤ totalBlocks s.mp.size - symbolEnd)

/-- The refusal of a region entry: checks 2 to 4 of R46. -/
def regionRefusal (r : Regions) (s : State) : Option RefusalCode :=
  if r.captureEnd < 1 ∨ r.symbolEnd < r.captureEnd ∨ totalBlocks s.mp.size < r.symbolEnd then
    some .badValue
  else if s.plan.toList.any (fun p => p.planned && !spansWithin r p) then some .outOfRegion
  else if !framesFit s r.symbolEnd s.su.panel.width s.su.panel.height then some .outOfRegion
  else none

/-- A region entry stored: when the symbol end moves, both frame buffers move and their fill begins (R47). -/
def moveRegions (r : Regions) (s : State) : State :=
  let s1 := { s with mp.regions := r }
  if r.symbolEnd = s.mp.regions.symbolEnd then s1
  else { s1 with mp.fill := some (fillBoth .region s1) }

/-- An entry of table 3, the regions (R46, R47). -/
def storeRegions : EntryStore := fun _ bs s =>
  match regionRefusal (readRegions bs) s with
  | some code => .inl code
  | none => .inr (moveRegions (readRegions bs) s)

/-- Two spans share a block; a span of 0 blocks shares none (R48, R50). -/
def sharesBlock (a m b n : Nat) : Bool := decide (0 < m ∧ 0 < n ∧ a < b + n ∧ b < a + m)

/-- The spans of two entries share a block (R50). -/
def spansShare (p q : PlanEntry) : Bool :=
  sharesBlock p.captureFirst p.captureCount q.captureFirst q.captureCount ||
    sharesBlock p.symbolFirst p.symbolCount q.symbolFirst q.symbolCount

/-- Another planned segment's spans share a block with an entry's (R50). -/
def overlapsPlan (n : Fin 32) (p : PlanEntry) (s : State) : Bool :=
  (List.finRange 32).any fun m => m != n && s.plan[m].planned && spansShare p s.plan[m]

/-- The refusal of a plan entry for a segment (R50). -/
def planRefusal (n : Fin 32) (p : PlanEntry) (s : State) : Option RefusalCode :=
  if s.segments[n].holdCount ≠ 0 then some .held
  else if !p.planned then none
  else if p.captureCount = 0 then some .badValue
  else if !spansWithin s.mp.regions p then some .outOfRegion
  else if overlapsPlan n p s then some .overlap
  else none

/-- A plan entry written: the segment's status record becomes Empty (R51, R54). -/
def writePlan (n : Fin 32) (p : PlanEntry) (s : State) : State :=
  modifySegment n (fun g => emptySegment g.holdCount) { s with plan := s.plan.set n p }

/-- An entry of table 4, the segment plan (R49, R50). An entry whose bytes name no value is refused with
BadValue after check 1 (R187). -/
def storePlan : EntryStore := fun k bs s =>
  let n := Fin.ofNat 32 k
  if s.segments[n].holdCount ≠ 0 then .inl .held
  else match readPlan bs with
    | none => .inl .badValue
    | some p =>
      match planRefusal n p s with
      | some code => .inl code
      | none => .inr (writePlan n p s)

/-- An entry of table 5, a term (R66). -/
def storeTerm : EntryStore := fun k bs s =>
  storeRead (readTerm bs) fun v => { s with ts.terms := s.ts.terms.set (Fin.ofNat 16 k) v }

/-- An entry of table 6, a stage (R71). -/
def storeStage : EntryStore := fun k bs s =>
  storeRead (readStage bs) fun v => { s with ts.stages := s.ts.stages.set (Fin.ofNat 8 k) v }

/-- An entry of table 7, a counter (R75). -/
def storeCounter : EntryStore := fun k bs s =>
  storeRead (readCounter bs) fun v => { s with ts.counterTable := s.ts.counterTable.set (Fin.ofNat 2 k) v }

/-- An entry of table 8, a lane (R86, R87). -/
def storeLane : EntryStore := fun k bs s =>
  storeRead (readLane bs) fun v => { s with laneTable := s.laneTable.set (Fin.ofNat 4 k) v }

/-- An entry of table 9, a field (R118). -/
def storeField : EntryStore := fun k bs s =>
  storeRead (readField bs) fun v => { s with fieldMap := s.fieldMap.set (Fin.ofNat 32 k) v }

/-- An entry of a view set stored: entry 0 against the panel as stored (R131, R132). -/
def setViewEntry (s : State) (k : Nat) (bs : List Byte) (v : ViewSet) : Option ViewSet :=
  if k = 0 then (readView s.su.panel.width s.su.panel.height bs).map fun w => { v with view := w }
  else (readRow bs).map fun r => { v with rows := v.rows.set (Fin.ofNat 40 (k - 1)) r }

/-- An entry of table 10, view set A (R131 to R133). -/
def storeViewA : EntryStore := fun k bs s =>
  storeRead (setViewEntry s k bs s.re.setA) fun v => { s with re.setA := v }

/-- An entry of table 11, view set B (R131 to R133). -/
def storeViewB : EntryStore := fun k bs s =>
  storeRead (setViewEntry s k bs s.re.setB) fun v => { s with re.setB := v }

/-- A cursor table entry stored (R158). -/
def setCursor (k : Nat) (bs : List Byte) (c : CursorTable) : CursorTable :=
  match k with
  | 0 => { c with cursor1 := readCursor bs }
  | 1 => { c with cursor2 := readCursor bs }
  | _ => { c with marker := bs.getD 1 0 }

/-- An entry of table 12, the cursors: a write of cursor 1 or 2 after a render has started makes the
readings stale (R151, R158). -/
def storeCursor : EntryStore := fun k bs s =>
  .inr { s with
    su.cursors := setCursor k bs s.su.cursors
    re.stale := s.re.stale || (decide (k < 2) && s.re.segment.isSome) }

/-- An entry of table 13, the palette (R156). -/
def storeColour : EntryStore := fun k bs s =>
  .inr { s with su.palette := s.su.palette.set (Fin.ofNat 256 k) (BitVec.ofNat 16 (numAt bs 0 2)) }

/-- An entry of table 14, a glyph (R157). -/
def storeGlyph : EntryStore := fun k bs s =>
  .inr { s with su.glyphs := s.su.glyphs.set (Fin.ofNat 64 k) (BitVec.ofNat 60 (numAt bs 0 8)) }

/-- A panel entry changes the active size. -/
def resizes (p : Panel) (s : State) : Bool :=
  p.width != s.su.panel.width || p.height != s.su.panel.height

/-- The refusal of a panel entry: checks 2 and 3 of R153. -/
def panelRefusal (p : Panel) (s : State) : Option RefusalCode :=
  if resizes p s ∧ s.re.job = .waitFlip then some .busy
  else if !framesFit s s.mp.regions.symbolEnd p.width p.height then some .outOfRegion
  else none

/-- A panel entry stored; a new active size is applied, and its fill begun, at the next boundary (R153). -/
def setPanel (p : Panel) (s : State) : State :=
  { s with su := { s.su with panel := p, resizing := s.su.resizing || resizes p s } }

/-- An entry of table 15, the panel (R152, R153). An entry whose bytes name no value is refused with BadValue
before the checks 2 and 3 (R187; assumption 37). -/
def storePanel : EntryStore := fun _ bs s =>
  match readPanel bs with
  | none => .inl .badValue
  | some p =>
    match panelRefusal p s with
    | some code => .inl code
    | none => .inr (setPanel p s)

/-- An entry of table 16, power and notice: the idle timer restarts (R177, R182). -/
def storePower : EntryStore := fun _ bs s => .inr (restartIdle { s with pru.table := readPower bs })

/-- How an entry of a table without a row of its own is stored. -/
def storePlain (t : Nat) : EntryStore :=
  match t with
  | 0 => storeAcq
  | 5 => storeTerm
  | 6 => storeStage
  | 7 => storeCounter
  | 8 => storeLane
  | 9 => storeField
  | 10 => storeViewA
  | 11 => storeViewB
  | 13 => storeColour
  | _ => storeGlyph

/-! ### The WRITE rows -/

/-- The reply of a WRITE that may have begun to move the frame buffers: Done at once, or when the fill
completes (R47, R153). -/
def fillReply (waits : State → Bool) (c : LinkCell) (s : State) : State :=
  if waits s then { s with lp.inProgress := some (.fill c.tag) } else writeDone c s

/-- WRITE of tables 0, 5 to 11, 13 and 14, and the refusals of a WRITE that names no table (R167). -/
def execWrite (s : State) : Host.Outcome State Fault Refusal :=
  dispatch .write none false s fun c t => writeTable (storePlain (byteAt c.payload 0)) writeDone c t

/-- WRITE of table 1 (R1, R2). -/
def execWritePods (s : State) : Host.Outcome State Fault Refusal :=
  dispatch .writePods none false s (writeTable storePod writeDone)

/-- WRITE of table 2 (R15). -/
def execWriteGenerator (s : State) : Host.Outcome State Fault Refusal :=
  dispatch .writeGenerator none false s (writeTable storeGen writeDone)

/-- WRITE of table 3 (R46, R47). -/
def execWriteRegions (s : State) : Host.Outcome State Fault Refusal :=
  dispatch .writeRegions none false s (writeTable storeRegions (fillReply fun t => t.mp.fill.isSome))

/-- WRITE of table 4 (R49 to R51). -/
def execWriteSegmentPlan (s : State) : Host.Outcome State Fault Refusal :=
  dispatch .writeSegmentPlan none false s (writeTable storePlan writeDone)

/-- WRITE of table 12 (R158). -/
def execWriteCursors (s : State) : Host.Outcome State Fault Refusal :=
  dispatch .writeCursors none false s (writeTable storeCursor writeDone)

/-- WRITE of table 15 (R153). -/
def execWritePanel (s : State) : Host.Outcome State Fault Refusal :=
  dispatch .writePanel none false s (writeTable storePanel (fillReply fun t => t.su.resizing))

/-- WRITE of table 16 (R177). -/
def execWritePowerAndNotice (s : State) : Host.Outcome State Fault Refusal :=
  dispatch .writePowerAndNotice none false s (writeTable storePower writeDone)

/-! ### READ (R169) -/

/-- The entries a READ returns: the least of the count, what the table has from the first index on, and
what fits in 60 bytes beside the first index and the number (R169). -/
def readCount (t first count : Nat) : Nat :=
  min count (min (tableEntries t - first) ((Config.maxPayload - 2) / entrySize t))

/-- The data of READ's Done reply (R169, R186). -/
def readData (s : State) (t first count : Nat) : List Byte :=
  let n := readCount t first count
  leBytes 1 first ++ leBytes 1 n ++ (List.range n).flatMap fun i => entryBytes s t (first + i)

/-- What READ does, once its form is checked (R169). -/
def readOwner (c : LinkCell) (s : State) : State :=
  let t := byteAt c.payload 0
  let first := byteAt c.payload 1
  if 16 < t then putReply c.tag (.refused .badTable 0) s
  else if tableEntries t ≤ first then putReply c.tag (.refused .badIndex 0) s
  else putReply c.tag (.done (readData s t first (byteAt c.payload 2))) s

/-- READ (R169). -/
def execRead (s : State) : Host.Outcome State Fault Refusal := dispatch .read (some 3) false s readOwner

end Sys2Proof.Machine
end

