-- ==== Sys2Proof/Machine/Reset.lean ====
section
/-! DEFINITION. The three resets (R42, R61, R62, R113, R117, R130, R138, R174, R179, R184). -/

namespace Sys2Proof.Machine

/-- A pod after a power-on or pin reset: Present is its sense, Changed is clear (R5). -/
def resetPod (p : PodState) : PodState :=
  { sense := p.sense, present := p.sense, changed := false, filterStart := 0, inserted := false }

/-- The Probe Front End after a power-on or pin reset: its inputs stay what they are, and the comparators
decide without a held state (R1, R3, R5). -/
def resetPfe (p : Pfe) : Pfe :=
  startComparators (mapPods resetPod { p with table := Vector.replicate 4 defaultPod, outputs := 0 })

/-- A power-on or pin reset: every block at its reset values, the DRAM size from the strap, both frame
buffers at index 0. The pins, and the steps still offered, are not the part's to reset. -/
def coldReset (cause : ResetCause) (strap : DramSize) (s : State) : State :=
  { pending := s.pending, time := 0, prescaler := 0, pfe := resetPfe s.pfe
    gen :=
      { table := Vector.replicate 2 defaultGenEntry, outputs := Vector.replicate 2 heldOutput
        loopCounter := 0 }
    ce := idleCe, plan := Vector.replicate 32 unplanned
    segments := Vector.replicate 32 (emptySegment 0), ts := defaultTs
    laneTable := Vector.replicate 4 defaultLaneEntry, lanes := Vector.replicate 4 idleLane
    fieldMap := Vector.replicate 32 defaultFieldEntry, sm := { stamps := [] }, redecode := none
    mp := { size := strap, regions := defaultRegions strap, fill := none }
    dram := [], re := idleRe, su := defaultSu (defaultRegions strap).symbolEnd, lp := defaultLp
    pru := defaultPru cause, noticesSent := s.noticesSent }

/-- POWER_ON_RESET (R179). -/
def execPowerOnReset (strap : DramSize) (s : State) : Host.Outcome State Fault Refusal :=
  .next (coldReset .power strap s)

/-- PIN_RESET (R179). -/
def execPinReset (strap : DramSize) (s : State) : Host.Outcome State Fault Refusal :=
  .next (coldReset .pin strap s)

/-- A readout in progress ends without a notice, and its hold is released (R174). -/
def dropReadout (s : State) : State :=
  match s.lp.readout with
  | some r => releaseHold r.segment { s with lp.readout := none }
  | none => s

/-- The capture, the redecode, the render and the readout that a link reset ends (R174). -/
def endOperations (s : State) : State := dropReadout (abortRender (abortRedecode (resetCapture s)))

/-- The Link Port after a link reset (R174). -/
def resetLp (l : Lp) : Lp :=
  { l with queue := [], slot := none, inProgress := none, sending := none
           notices := Vector.replicate 10 clearSlot, resetDue := false }

/-- A link reset (R174). It puts the Trigger Sequencer Off and clears the pending notices, Triggered among
them, as R80, R174 and R176 say, where the last words of R82 let both stand (assumption 64). -/
def linkReset (s : State) : State :=
  let s1 := endOperations s
  restartIdle { s1 with
    ts := offTs s1.ts, lanes := Vector.replicate 4 idleLane, sm := { stamps := [] }
    lp := resetLp s1.lp, pru.cause := .link }

/-- LINK_RESET: taken when the last byte of the reply of a RESET has left (R174). -/
def execLinkReset (s : State) : Host.Outcome State Fault Refusal :=
  .next (if s.lp.resetDue then linkReset s else s)

end Sys2Proof.Machine
end

