-- ==== Sys2Proof/Machine/Clock.lean ====
section
/-! DEFINITION. What the part does by itself when no step is offered (assumption 5): the step that is due at
this tick, or else the next tick of the reference. -/

namespace Sys2Proof.Machine

/-- The dispatch that is due: the command at the head of the queue may be dispatched at this tick (R164). -/
def dueDispatch (s : State) : Option Instr :=
  match s.lp.queue with
  | c :: _ => if mayDispatch s && !waitsForTick c s then some (commandRow c) else none
  | [] => none

/-- The send that is due: the link is free (R166). -/
def dueSend (s : State) : Option Instr :=
  (nextUpCell s).map fun k =>
    match k with
    | .reply => .sendReply
    | .notice => .sendNotice
    | .stream => .sendStreamCell
    | .fill => .sendFill

/-- A step where a condition holds. -/
def dueWhen (b : Bool) (i : Instr) : Option Instr := if b then some i else none

/-- The step that is due at this tick, if one is. A command is taken before the sample of its tick, which
holds the levels that the command leaves on the outputs (R13, R14). Grants of the DRAM, cells that arrive or
have left, the end of a wake and the pins' changes are offered from outside: the part does not fix when they
come. -/
def dueStep (s : State) : Option Instr :=
  dueWhen s.lp.resetDue .linkReset
  <|> dueWhen (wakeChannel s).isSome .wakeActivity
  <|> dueWhen (closeReady s) .closeComplete
  <|> dueWhen (redecodeFinished s) .redecodeDone
  <|> dueWhen (drawingFinished s) .drawingComplete
  <|> dueWhen (fillFinished s) .fillComplete
  <|> dueDispatch s
  <|> ((List.finRange 4).find? (presenceDue s)).map .podPresentChange
  <|> ((List.finRange 2).find? (halfPeriodDue s)).map .halfPeriodEnd
  <|> dueWhen (sampleDue s) .sample
  <|> dueWhen (boundaryDue s) .frameBoundary
  <|> dueSend s
  <|> dueWhen (idleExpired s) .idleTimeout

/-- The idle timer restarts at any tick at which the part is busy or a command is in progress (R182). -/
def watchIdle (s : State) : State :=
  if busy s || s.lp.inProgress.isSome then restartIdle s else s

/-- The next tick of the reference; in Sleep it is stopped (R7, R8, R180). -/
def advance (s : State) : State :=
  if s.pru.power = .sleep then s
  else
    watchIdle { s with
      time := s.time + 1, prescaler := s.prescaler + 1, gen := tickGenerator s.gen
      pfe := tickPods s.pfe }

end Sys2Proof.Machine
end

