-- ==== Sys2Proof/Machine/Dispatch.lean ====
section
/-! DEFINITION. The dispatch: one arm per step of the opcode table, each one direct call of its meaning. -/

namespace Sys2Proof.Machine

/-- The effect of a step on everything but the queue of offered steps. -/
def exec (i : Instr) (s : State) : Host.Outcome State Fault Refusal :=
  match i with
  | .powerOnReset strap => Sys2Proof.Machine.execPowerOnReset strap s
  | .pinReset strap => Sys2Proof.Machine.execPinReset strap s
  | .linkReset => Sys2Proof.Machine.execLinkReset s
  | .podPresentChange pod => Sys2Proof.Machine.execPodPresentChange pod s
  | .halfPeriodEnd output => Sys2Proof.Machine.execHalfPeriodEnd output s
  | .sample => Sys2Proof.Machine.execSample s
  | .counterExpiry counter => Sys2Proof.Machine.execCounterExpiry counter s
  | .gapDeadline lane => Sys2Proof.Machine.execGapDeadline lane s
  | .stretchTimeout lane => Sys2Proof.Machine.execStretchTimeout lane s
  | .writeQueueDrain => Sys2Proof.Machine.execWriteQueueDrain s
  | .symbolWrite => Sys2Proof.Machine.execSymbolWrite s
  | .symbolTrim => Sys2Proof.Machine.execSymbolTrim s
  | .closeComplete => Sys2Proof.Machine.execCloseComplete s
  | .redecodeRecordRead => Sys2Proof.Machine.execRedecodeRecordRead s
  | .redecodeDone => Sys2Proof.Machine.execRedecodeDone s
  | .renderPixelWrite => Sys2Proof.Machine.execRenderPixelWrite s
  | .renderRecordRead => Sys2Proof.Machine.execRenderRecordRead s
  | .renderSymbolRead => Sys2Proof.Machine.execRenderSymbolRead s
  | .drawingComplete => Sys2Proof.Machine.execDrawingComplete s
  | .frameBoundary => Sys2Proof.Machine.execFrameBoundary s
  | .scanOutRowRead => Sys2Proof.Machine.execScanOutRowRead s
  | .frameBufferFillBlock => Sys2Proof.Machine.execFrameBufferFillBlock s
  | .fillComplete => Sys2Proof.Machine.execFillComplete s
  | .readoutRead => Sys2Proof.Machine.execReadoutRead s
  | .commandCellArrival cell => Sys2Proof.Machine.execCommandCellArrival cell s
  | .sendReply => Sys2Proof.Machine.execSendReply s
  | .replySent => Sys2Proof.Machine.execReplySent s
  | .sendNotice => Sys2Proof.Machine.execSendNotice s
  | .sendStreamCell => Sys2Proof.Machine.execSendStreamCell s
  | .streamCellSent => Sys2Proof.Machine.execStreamCellSent s
  | .sendFill => Sys2Proof.Machine.execSendFill s
  | .badCommand => Sys2Proof.Machine.execBadCommand s
  | .write => Sys2Proof.Machine.execWrite s
  | .writePods => Sys2Proof.Machine.execWritePods s
  | .writeGenerator => Sys2Proof.Machine.execWriteGenerator s
  | .writeRegions => Sys2Proof.Machine.execWriteRegions s
  | .writeSegmentPlan => Sys2Proof.Machine.execWriteSegmentPlan s
  | .writeCursors => Sys2Proof.Machine.execWriteCursors s
  | .writePanel => Sys2Proof.Machine.execWritePanel s
  | .writePowerAndNotice => Sys2Proof.Machine.execWritePowerAndNotice s
  | .read => Sys2Proof.Machine.execRead s
  | .arm => Sys2Proof.Machine.execArm s
  | .stop => Sys2Proof.Machine.execStop s
  | .force => Sys2Proof.Machine.execForce s
  | .redecode => Sys2Proof.Machine.execRedecode s
  | .render => Sys2Proof.Machine.execRender s
  | .swap => Sys2Proof.Machine.execSwap s
  | .readout => Sys2Proof.Machine.execReadout s
  | .cancel => Sys2Proof.Machine.execCancel s
  | .statusDevice => Sys2Proof.Machine.execStatusDevice s
  | .statusSegment => Sys2Proof.Machine.execStatusSegment s
  | .statusLane => Sys2Proof.Machine.execStatusLane s
  | .statusSequencer => Sys2Proof.Machine.execStatusSequencer s
  | .statusRender => Sys2Proof.Machine.execStatusRender s
  | .powerRun => Sys2Proof.Machine.execPowerRun s
  | .powerStandby => Sys2Proof.Machine.execPowerStandby s
  | .powerSleep => Sys2Proof.Machine.execPowerSleep s
  | .reset => Sys2Proof.Machine.execReset s
  | .idleTimeout => Sys2Proof.Machine.execIdleTimeout s
  | .wakeActivity => Sys2Proof.Machine.execWakeActivity s
  | .wakeComplete => Sys2Proof.Machine.execWakeComplete s
  | .noticeCellSent => Sys2Proof.Machine.execNoticeCellSent s
  | .fillCellSent => Sys2Proof.Machine.execFillCellSent s
  | .presenceSenseChange pod level => Sys2Proof.Machine.execPresenceSenseChange pod level s
  | .comparatorOutputChange channel halfMillivolts => Sys2Proof.Machine.execComparatorOutputChange channel halfMillivolts s

end Sys2Proof.Machine
end

