-- ==== Sys2Proof/Machine/Step.lean ====
section
/-! DEFINITION. One step of the machine: the step at the front of the queue, or, with none offered, what the
part does by itself (assumption 5). -/

namespace Sys2Proof.Machine

/-- What the part does when no step is offered: the step that is due at this tick, or else the next tick of
the reference. -/
def idleStep (s : State) : Host.Outcome State Fault Refusal :=
  match dueStep s with
  | some i => exec i s
  | none => .next (advance s)

/-- One step: the offered step at the front of the queue runs on the state with the queue's rest. -/
def step (s : State) : Host.Outcome State Fault Refusal :=
  match s.pending with
  | i :: rest => exec i { s with pending := rest }
  | [] => idleStep s

/-- The state with the step a word spells at the front of its queue; no word spells one (Decode.lean). -/
def State.withFetchWord (s : State) (nbits w : Nat) : State :=
  match decodeTableWord nbits w with
  | some i => { s with pending := i :: s.pending }
  | none => s

end Sys2Proof.Machine
end

