-- ==== Sys2Proof/Safety.lean ====
section
/-! DEFINITION. The terms in which claims about the part are stated: which parts of the state a step may
change, the laws that every state keeps, and when a command can be dispatched. -/

namespace Sys2Proof.Machine

/-! ### Frames -/

/-- The parts of a state that a claim about what stays unchanged can name. Together they make up the whole
state; a few are parts of others (a table within its block), so that the smaller one can stay unchanged
where the larger does not. -/
inductive Part where
  /-- The queue of offered steps. -/
  | pending
  /-- The Time Base and the free prescaler. -/
  | time | prescaler
  /-- Table 1, the pods, the probe inputs and the comparator outputs. -/
  | podTable | pods | inputs | outputs
  /-- Table 2, the two outputs and the loop counter. -/
  | genTable | genOutputs | loopCounter
  /-- Table 0 within the Capture Engine, and the whole engine. -/
  | acqTable | ce
  /-- Table 4, the status records, and their hold counts alone. -/
  | plan | segments | holds
  /-- Tables 5 to 7 within the Trigger Sequencer, and the whole sequencer. -/
  | tsTables | ts
  /-- Table 8, the lanes, table 9, the merger and the redecode. -/
  | laneTable | lanes | fieldMap | sm | redecode
  /-- The DRAM's size, table 3, the fill in progress and the DRAM's bytes. -/
  | size | regions | fill | dram
  /-- Tables 10 and 11, which of them is active, the render job with its segment, and the whole Render
  Engine. -/
  | viewSets | active | job | re
  /-- Tables 15, 13 and 14, table 12, and the whole Scan-out Unit. -/
  | panel | palette | glyphs | cursors | su
  /-- The command queue, reply slot, command carried out, cell being sent, dropped count, readout, notice
  slots and due link reset. -/
  | queue | slot | inProgress | sending | dropped | readout | notices | resetDue
  /-- Table 16, power state, reset cause, idle timer, wake logic and wake in progress. -/
  | powerTable | power | cause | idleStart | wakeLogic | wake
  /-- The model's count of the notices sent. -/
  | noticesSent
  deriving DecidableEq, Repr

/-- The render job: its state, and the segment that a render under way shows and holds. -/
def renderJob (r : Re) : JobState × Option (Fin 32) := (r.job, r.draw.map fun d => d.snapshot.view.segment)

/-- A part of the state is the same in two states. -/
def Part.same : Part → State → State → Prop
  | .pending, s, t => t.pending = s.pending
  | .time, s, t => t.time = s.time
  | .prescaler, s, t => t.prescaler = s.prescaler
  | .podTable, s, t => t.pfe.table = s.pfe.table
  | .pods, s, t => t.pfe.pods = s.pfe.pods
  | .inputs, s, t => t.pfe.inputs = s.pfe.inputs
  | .outputs, s, t => t.pfe.outputs = s.pfe.outputs
  | .genTable, s, t => t.gen.table = s.gen.table
  | .genOutputs, s, t => t.gen.outputs = s.gen.outputs
  | .loopCounter, s, t => t.gen.loopCounter = s.gen.loopCounter
  | .acqTable, s, t => t.ce.table = s.ce.table
  | .ce, s, t => t.ce = s.ce
  | .plan, s, t => t.plan = s.plan
  | .segments, s, t => t.segments = s.segments
  | .holds, s, t => ∀ n : Fin 32, t.segments[n].holdCount = s.segments[n].holdCount
  | .tsTables, s, t =>
    t.ts.terms = s.ts.terms ∧ t.ts.stages = s.ts.stages ∧ t.ts.counterTable = s.ts.counterTable
  | .ts, s, t => t.ts = s.ts
  | .laneTable, s, t => t.laneTable = s.laneTable
  | .lanes, s, t => t.lanes = s.lanes
  | .fieldMap, s, t => t.fieldMap = s.fieldMap
  | .sm, s, t => t.sm = s.sm
  | .redecode, s, t => t.redecode = s.redecode
  | .size, s, t => t.mp.size = s.mp.size
  | .regions, s, t => t.mp.regions = s.mp.regions
  | .fill, s, t => t.mp.fill = s.mp.fill
  | .dram, s, t => t.dram = s.dram
  | .viewSets, s, t => t.re.setA = s.re.setA ∧ t.re.setB = s.re.setB
  | .active, s, t => t.re.active = s.re.active
  | .job, s, t => renderJob t.re = renderJob s.re
  | .re, s, t => t.re = s.re
  | .panel, s, t => t.su.panel = s.su.panel
  | .palette, s, t => t.su.palette = s.su.palette
  | .glyphs, s, t => t.su.glyphs = s.su.glyphs
  | .cursors, s, t => t.su.cursors = s.su.cursors
  | .su, s, t => t.su = s.su
  | .queue, s, t => t.lp.queue = s.lp.queue
  | .slot, s, t => t.lp.slot = s.lp.slot
  | .inProgress, s, t => t.lp.inProgress = s.lp.inProgress
  | .sending, s, t => t.lp.sending = s.lp.sending
  | .dropped, s, t => t.lp.dropped = s.lp.dropped
  | .readout, s, t => t.lp.readout = s.lp.readout
  | .notices, s, t => t.lp.notices = s.lp.notices
  | .resetDue, s, t => t.lp.resetDue = s.lp.resetDue
  | .powerTable, s, t => t.pru.table = s.pru.table
  | .power, s, t => t.pru.power = s.pru.power
  | .cause, s, t => t.pru.cause = s.pru.cause
  | .idleStart, s, t => t.pru.idleStart = s.pru.idleStart
  | .wakeLogic, s, t =>
    t.pru.mask = s.pru.mask ∧ t.pru.recorded = s.pru.recorded ∧ t.pru.changed = s.pru.changed
  | .wake, s, t => t.pru.wake = s.pru.wake
  | .noticesSent, s, t => t.noticesSent = s.noticesSent

/-- The second state differs from the first in the listed parts only. -/
def ChangesOnly (parts : List Part) (s t : State) : Prop := ∀ p : Part, p ∉ parts → p.same s t

/-! ### The laws every state keeps -/

/-- The memory plan's law (R45, R46, R50): the regions lie in order inside the DRAM with room for both frame
buffers, the spans of every planned segment lie in their regions, and no two planned segments share a
block. -/
structure PlanLaw (s : State) : Prop where
  regions : 1 ≤ s.mp.regions.captureEnd ∧ s.mp.regions.captureEnd ≤ s.mp.regions.symbolEnd ∧
    s.mp.regions.symbolEnd ≤ totalBlocks s.mp.size
  frames : s.mp.regions.symbolEnd + 2 * bufferBlocks s.su.panel.width s.su.panel.height ≤
    totalBlocks s.mp.size
  captureSpans : ∀ n : Fin 32, s.plan[n].planned = true → 1 ≤ s.plan[n].captureCount ∧
    s.plan[n].captureFirst + s.plan[n].captureCount ≤ s.mp.regions.captureEnd
  symbolSpans : ∀ n : Fin 32, s.plan[n].planned = true → s.plan[n].symbolCount ≠ 0 →
    s.mp.regions.captureEnd ≤ s.plan[n].symbolFirst ∧
      s.plan[n].symbolFirst + s.plan[n].symbolCount ≤ s.mp.regions.symbolEnd
  disjoint : ∀ m n : Fin 32, m ≠ n → s.plan[m].planned = true → s.plan[n].planned = true →
    spansShare s.plan[m] s.plan[n] = false

/-- The Capture Engine's law (R31): it is Idle exactly while it has no current segment, an Idle engine holds
nothing but its table, and a segment is Filling exactly while it is the current one. -/
structure EngineLaw (s : State) : Prop where
  idle : s.ce.engine = .idle ↔ s.ce.segment = none
  empty : s.ce.segment = none → s.ce = { idleCe with table := s.ce.table }
  filling : ∀ n : Fin 32, s.segments[n].state = .filling ↔ s.ce.segment = some n

/-- The holds that a render and a readout under way place on a segment (R55, R56). -/
def holdsOn (s : State) (n : Fin 32) : Nat :=
  flag ((renderJob s.re).2 == some n) + flag (s.lp.readout.any fun r => r.segment == n)

/-- The holds' law (R55, R56): the render job is Idle exactly while no render is under way, and a segment's
hold count is the number of renders and readouts that hold it. -/
structure HoldLaw (s : State) : Prop where
  job : s.re.job = .idle ↔ s.re.draw = none
  holds : ∀ n : Fin 32, s.segments[n].holdCount = holdsOn s n

/-- The bounds of the part's queues (R20, R24, R63, R83, R116, R121, R163). -/
structure QueueLaw (s : State) : Prop where
  commands : s.lp.queue.length ≤ 8
  records : s.ce.queue.length ≤ 512
  staged : s.ce.staging.length ≤ 16
  history : s.ts.history.length ≤ 16
  symbols : ∀ l : Fin 4, s.lanes[l].fifo.length ≤ 32
  horizon : s.sm.stamps.length ≤ 17

/-! ### What else is due at a tick -/

/-- No change of a pod's Present and no end of a half-period is due at this tick (R4, R16). -/
def Quiet (s : State) : Prop :=
  (∀ pod : Fin 4, presenceDue s pod = false) ∧ (∀ i : Fin 2, halfPeriodDue s i = false)

/-- A trigger has reached the Signal Generator (R14, R17): every output in BurstOnTrigger has begun a burst,
the others are as they were, and the loop counter has counted a rise of CAL0. -/
structure BurstsBegun (g h : Gen) : Prop where
  table : h.table = g.table
  bursts : ∀ i : Fin 2, g.table[i].mode = .burstOnTrigger → h.outputs[i] =
    { level := true, run := .bursting, ticksLeft := g.table[i].half, periodsLeft := g.table[i].burst }
  others : ∀ i : Fin 2, g.table[i].mode ≠ .burstOnTrigger → h.outputs[i] = g.outputs[i]
  counter : h.loopCounter =
    if g.table[0].mode = .burstOnTrigger ∧ g.outputs[0].level = false then g.loopCounter + 1
    else g.loopCounter

/-- The priority of a requester of the DRAM, 1 the highest (R59, R122). -/
def Requester.priority : Requester → Nat
  | .scanRow | .fillBlock => 1
  | .drain => 2
  | .mergeWrite | .mergeTrim => 3
  | .renderPixels | .renderRecord | .renderSymbol => 4
  | .redecodeWrite | .redecodeTrim | .redecodeRead => 5
  | .readout => 6

/-- A requester waits for a grant (R59): for each, the work it has to do. -/
def Waits (s : State) : Requester → Prop
  | .scanRow => (wantedRow s).isSome
  | .fillBlock => ∃ f, s.mp.fill = some f ∧ 0 < f.left
  | .drain => s.ce.queue ≠ []
  | .mergeWrite => s.redecode = none ∧ (nextSymbol s).isSome
  | .mergeTrim => s.redecode = none ∧ trimDue s = true
  | .renderPixels => s.re.job = .drawing ∧ ∃ d, s.re.draw = some d ∧ d.writes ≠ []
  | .renderRecord => s.re.job = .drawing ∧ ∃ d, s.re.draw = some d ∧ d.writes = [] ∧
    ∃ p k t, d.phase = .locate p k t ∨ d.phase = .forward p k t
  | .renderSymbol => s.re.job = .drawing ∧ ∃ d, s.re.draw = some d ∧ d.writes = [] ∧
    ∃ p k, d.phase = .symbols p k
  | .redecodeWrite => s.redecode ≠ none ∧ (nextSymbol s).isSome
  | .redecodeTrim => s.redecode ≠ none ∧ trimDue s = true
  | .redecodeRead => ∃ r, s.redecode = some r ∧ 0 < r.left
  | .readout => ∃ r, s.lp.readout = some r ∧ r.ready = none ∧ 0 < r.left ∧ r.cancelled = false

/-- Some runs of pixels set the pixel at x, y to a colour. -/
def paints (runs : List PixelRun) (x y : Nat) (colour : Byte) : Prop :=
  ∃ w ∈ runs, w.y = y ∧ w.x ≤ x ∧ w.pixels[x - w.x]? = some colour

/-- The set pixels of glyphs that stand 6 columns apart from a first column and a top line on (R145, R147,
R157): line L of a glyph is its bits 6L to 6L + 5, pixel 0 in bit 6L. -/
def glyphsCover (table : Vector (BitVec 60) 64) (glyphs : List (Fin 64)) (left top x y : Nat) : Prop :=
  ∃ i, ∃ k : Fin 64, glyphs[i]? = some k ∧ ∃ c < 6, ∃ l < 10, x = left + 6 * i + c ∧ y = top + l ∧
    table[k].getLsbD (6 * l + c) = true

/-- Some glyphs are hexadecimal digits of a number, m of them, most significant first (R145, R147). -/
def showsHex (m value : Nat) (glyphs : List (Fin 64)) : Prop :=
  glyphs.length = m ∧ ∀ i : Nat, ∀ k : Fin 64, glyphs[i]? = some k → k.val = value / 16 ^ (m - 1 - i) % 16

/-- The glyphs of a symbol's text (R147): the kind's glyph, and for a kind with a value its fewest hexadecimal
digits, at least one. -/
def SymbolText (y : Symbol) (glyphs : List (Fin 64)) : Prop :=
  ∃ (k : Fin 64) (digits : List (Fin 64)), glyphs = k :: digits ∧
    [SymbolKind.start, .restart, .stop, .address, .data, .dataB, .brk, .field][k.val - 16]? = some y.kind ∧
    16 ≤ k.val ∧
    (y.kind ∈ [SymbolKind.start, .restart, .stop, .brk] → digits = []) ∧
    (y.kind ∈ [SymbolKind.address, .data, .dataB, .field] → ∃ m, 1 ≤ m ∧ y.value.toNat < 16 ^ m ∧
      (m = 1 ∨ 16 ^ (m - 1) ≤ y.value.toNat) ∧ showsHex m y.value.toNat digits)

/-- The notice slots of the second state are those of the first with one occurrence raised (R175). -/
def raised (n : NoticeSnapshot) (s t : State) : Prop := t.lp.notices = (raiseNotice n s).lp.notices

/-- The bytes stored at an address read back, and every byte outside them reads as before. -/
def stores (a : Nat) (bs : List Byte) (s t : State) : Prop :=
  ∀ x, memRead t.dram x = if a ≤ x ∧ x < a + bs.length then bs.getD (x - a) 0 else memRead s.dram x

/-- What the trim of a span against two times leaves of it (R124): a run of its symbols, from the oldest that
does not end before the first time to the newest that does not end after the second; the symbols before the
run end before the first time, and those after it end after the second. -/
def Trimmed (s : State) (n : Fin 32) (start stop : Time) (g : SegmentStatus) : Prop :=
  ∀ (first capacity : Nat) (ends : Nat → Time), s.segments[n].symbolFirst = some first →
    capacity = s.plan[n].symbolCount * 4096 → first < capacity →
    (∀ i, ends i = symbolEnd (readSymbol s n ((first + i) % capacity))) → 1 ≤ s.segments[n].symbolCount →
    ∃ k, k + g.symbolCount ≤ s.segments[n].symbolCount ∧
      g.symbolFirst = (if g.symbolCount = 0 then none else some ((first + k) % capacity)) ∧
      (∀ i < k, timeDiff (ends i) start < 0) ∧
      (∀ i, k + g.symbolCount ≤ i → i < s.segments[n].symbolCount → timeDiff stop (ends i) < 0) ∧
      (1 ≤ g.symbolCount → 0 ≤ timeDiff (ends k) start ∧
        0 ≤ timeDiff stop (ends (k + g.symbolCount - 1)))

/-- Every lane that runs or replays has been given a sample of its stream, with the stream's sample period,
and every other is as it was (R90 to R92, R114 to R116). A sample that its filter does not release yet joins
those that wait. Of the sample that it releases the levels become the filtered ones, and each departure of an
assigned channel that begins there and does not hold is counted. Where no gap deadline has passed, its decoder
is as its kind's rules leave it, and the symbol they give stands in the FIFO, if the FIFO had room, with the
lane's number, its frame position, and the Lost tag after a loss. -/
def LanesGiven (period : Nat) (z : Sample) (s t : State) : Prop :=
  ∀ l : Fin 4, (s.lanes[l].mode = .idle → t.lanes[l] = s.lanes[l]) ∧
    (s.lanes[l].mode ≠ .idle →
      nextReleased s.laneTable[l] period z s.lanes[l] = none →
      t.lanes[l] = { s.lanes[l] with window := s.lanes[l].window ++ [z] }) ∧
    (∀ (x : LaneSample) (y : Sample) (ahead : List Sample), s.lanes[l].mode ≠ .idle →
      s.lanes[l].window ++ [z] = y :: ahead → nextReleased s.laneTable[l] period z s.lanes[l] = some x →
      t.lanes[l].window = ahead ∧ t.lanes[l].raw = some y.levels ∧ t.lanes[l].filtered = some x.current ∧
        ∀ (r f : Word), s.lanes[l].raw = some r → s.lanes[l].filtered = some f →
          t.lanes[l].counters.glitches = min (s.lanes[l].counters.glitches +
            (if s.laneTable[l].deglitch ≤ 1 then 0 else ((List.finRange 32).filter fun (k : Fin 32) =>
              (laneChannels s.laneTable[l].kind).contains k.val && y.levels.getLsbD k != f.getLsbD k &&
                r.getLsbD k == f.getLsbD k && (ahead.take (s.laneTable[l].deglitch - 1)).any fun q =>
                  q.levels.getLsbD k != y.levels.getLsbD k).length)) 4294967295) ∧
    ∀ (x : LaneSample) (y : Emitted), s.lanes[l].mode ≠ .idle →
      nextReleased s.laneTable[l] period z s.lanes[l] = some x →
      gapStopTime s.laneTable[l] x s.lanes[l].decoder = none →
      (kindStep s.laneTable[l] x s.lanes[l].decoder).symbols = [y] → s.lanes[l].fifo.length < 32 →
      t.lanes[l].decoder = (kindStep s.laneTable[l] x s.lanes[l].decoder).decoder ∧
        ({ lane := l, kind := y.kind, value := BitVec.ofNat 32 y.value, start := y.start
           duration := min (timeDiff y.stop y.start).toNat 16777215
           tags := y.tags ||| (if s.lanes[l].pendingLost then 0x08 else 0)
           position := framePosition y.kind s.lanes[l].wordCount s.lanes[l].dataPosition } : Symbol) ∈
          t.lanes[l].fifo

/-- Every lane that runs has been given the sample of this tick with some levels (R90). -/
def LanesDecode (levels : Word) (s t : State) : Prop :=
  LanesGiven s.ce.table.divisor { stamp := s.time, levels := levels } s t

/-- The lanes have been given some replay samples of one value in order, a divisor apart from a stamp on
(R127): each leaves what the next is given to. -/
def LanesReplay (divisor : Nat) (value : Word) (count : Nat) (stamp : Time) (s t : State) : Prop :=
  ∃ u : Nat → State, u 0 = s ∧ (u count).lanes = t.lanes ∧ ∀ i < count,
    LanesGiven divisor { stamp := stamp + BitVec.ofNat 48 (i * divisor), levels := value } (u i) (u (i + 1)) ∧
      ChangesOnly [.lanes, .sm, .notices] (u i) (u (i + 1))

/-- An item in progress in a lane of some kind holds back symbols that end after a time (R121): the latest
edge or bit taken of a word or byte, a kept first byte whose second has no bit yet, and the start of any
symbol in progress plus the largest duration. -/
def HoldsBack (kind : LaneKind) (d : Decoder) (t : Time) : Prop :=
  (∃ p t0 cells, kind = .async p ∧ d.async = .receiving t0 cells ∧ t = t0 + 16777215#48) ∨
  (∃ p, kind = .clocked p ∧ d.clocked.bits ≠ 0 ∧
    (t = d.clocked.last ∨ t = d.clocked.first + 16777215#48)) ∨
  (∃ p, kind = .twoWire p ∧
    (d.twoWire.bits ≠ 0 ∧ (t = d.twoWire.last ∨ t = d.twoWire.first + 16777215#48) ∨
      ∃ a, d.twoWire.expect = .second a ∧
        (t = a.start + 16777215#48 ∨ d.twoWire.bits = 0 ∧ t = a.stop))) ∨
  ∃ p c, kind = .strobed p ∧ (d.strobed.data = some c ∨ d.strobed.address = some c) ∧
    t = c.start + 16777215#48

/-- The head of a lane's FIFO may be written (R121, R122): in Closing, once a replay stream has been given in
full, or when it ends at or before the merge horizon and every hold-back. -/
def EligibleHead (s : State) (l : Fin 4) (y : Symbol) : Prop :=
  s.lanes[l].fifo.head? = some y ∧
    (s.ce.engine = .closing ∨ (∃ r, s.redecode = some r ∧ r.left = 0) ∨
      ∃ h, s.sm.stamps[16]? = some h ∧ timeDiff (symbolEnd y) h ≤ 0 ∧
        ∀ (k : Fin 4) (b : Time), HoldsBack s.laneTable[k].kind s.lanes[k].decoder b →
          timeDiff (symbolEnd y) b ≤ 0)

/-! ### The entries that a WRITE refuses with BadValue -/

/-- An optional channel byte names neither a channel nor None (R185, R187). -/
def badOptionalChannel (k : Nat) : Prop := 31 < k ∧ k ≠ 255

/-- The acquisition entries that are refused (R9, R30, R187). -/
def acqRefused (e : List Byte) : Prop :=
  1 < byteAt e 0 ∨ 1 < byteAt e 1 ∨ 31 < byteAt e 2 ∨ 2 < byteAt e 3 ∨ 1 < byteAt e 4

/-- The term entries that are refused (R66, R187). -/
def termRefused (e : List Byte) : Prop :=
  5 < byteAt e 0 ∨ byteAt e 0 = 2 ∧ (31 < byteAt e 4 ∨ 2 < byteAt e 5) ∨ byteAt e 0 = 3 ∧ 3 < byteAt e 4 ∨
    byteAt e 0 = 4 ∧ (31 < byteAt e 4 ∨ 1 < byteAt e 5) ∨ byteAt e 0 = 5 ∧ 1 < byteAt e 4

/-- The branches, ten bytes from a place on, for which a stage entry is refused (R71, R187). -/
def branchRefused (e : List Byte) (a : Nat) : Prop :=
  4 < byteAt e (a + 4) ∨ (∃ i < byteAt e (a + 4), 15 < byteAt e (a + i)) ∨ 9 < byteAt e (a + 6) ∨
    byteAt e (a + 7) % 4 = 3 ∨ byteAt e (a + 7) / 4 % 4 = 3

/-- The counter entries that are refused (R75, R187). -/
def counterRefused (e : List Byte) : Prop :=
  3 < byteAt e 4 ∨ (byteAt e 4 = 1 ∨ byteAt e 4 = 2) ∧ 15 < byteAt e 5 ∨
    byteAt e 4 = 3 ∧ (31 < byteAt e 5 ∨ 2 < byteAt e 6)

/-- The parameters for which a lane descriptor is refused, by its kind (R87, R187). -/
def laneParametersRefused (e : List Byte) : Prop :=
  byteAt e 1 = 0 ∧ (31 < byteAt e 6 ∨ 1 < byteAt e 7 ∨ byteAt e 8 < 5 ∨ 9 < byteAt e 8 ∨ 4 < byteAt e 9 ∨
      byteAt e 10 < 1 ∨ 2 < byteAt e 10 ∨ 1 < byteAt e 11) ∨
    byteAt e 1 = 1 ∧ (31 < byteAt e 6 ∨ 31 < byteAt e 7 ∨ badOptionalChannel (byteAt e 8) ∨
      badOptionalChannel (byteAt e 9) ∨ 1 < byteAt e 10 ∨ 1 < byteAt e 11 ∨ byteAt e 12 < 4 ∨
      32 < byteAt e 12 ∨ 1 < byteAt e 13) ∨
    byteAt e 1 = 2 ∧ (31 < byteAt e 6 ∨ 31 < byteAt e 7) ∨
    byteAt e 1 = 3 ∧ (31 < byteAt e 6 ∨ byteAt e 7 < 1 ∨ 16 < byteAt e 7 ∨ 32 < byteAt e 6 + byteAt e 7 ∨
      31 < byteAt e 8 ∨ badOptionalChannel (byteAt e 9) ∨ badOptionalChannel (byteAt e 10) ∨
      badOptionalChannel (byteAt e 11))

/-- The channels that a lane descriptor assigns, None among them as 255 (R87). -/
def assignedChannels (e : List Byte) : List Nat :=
  match byteAt e 1 with
  | 0 => [byteAt e 6]
  | 1 => [byteAt e 6, byteAt e 7, byteAt e 8, byteAt e 9]
  | 2 => [byteAt e 6, byteAt e 7]
  | _ => (List.range (byteAt e 7)).map (byteAt e 6 + ·) ++
      [byteAt e 8, byteAt e 9, byteAt e 10, byteAt e 11]

/-- The lane descriptors that are refused (R86, R87, R187). -/
def laneRefused (e : List Byte) : Prop :=
  1 < byteAt e 0 ∨ 3 < byteAt e 1 ∨ laneParametersRefused e ∨
    ¬((assignedChannels e).filter (· ≠ 255)).Nodup

/-- The field map entries that are refused (R118, R187). -/
def fieldRefused (e : List Byte) : Prop :=
  3 < byteAt e 1 ∨ 63 < byteAt e 2 ∨ byteAt e 3 < 1 ∨ 4 < byteAt e 3 ∨ 64 < byteAt e 2 + byteAt e 3 ∨
    127 < byteAt e 4

/-- The row entries that are refused (R132, R187). -/
def rowRefused (e : List Byte) : Prop :=
  3 < byteAt e 0 ∨ byteAt e 0 = 1 ∧ 31 < byteAt e 8 ∨ byteAt e 0 = 3 ∧ 3 < byteAt e 8

/-! ### The entries that a WRITE stores -/

/-- An acquisition entry stored from some bytes (R9, R30, R187). -/
structure AcqStored (e : List Byte) (v : AcqEntry) : Prop where
  mode : v.mode = if byteAt e 0 = 0 then .timing else .state
  width : v.width = if byteAt e 1 = 0 then .wide else .narrow
  clock : v.clockChannel.val = byteAt e 2 ∧ polarityCode v.clockEdge = byteAt e 3
  loop : v.loop = decide (byteAt e 4 = 1)
  counts : v.retainFloor = min 32 (byteAt e 5) ∧ v.sequenceCount = min 32 (byteAt e 6)
  divisor : v.divisor = max 1 (min 1048576 (numAt e 8 4))
  samples : v.postTrigger = numAt e 12 4 ∧ v.preFill = numAt e 16 4

/-- A term entry stored from some bytes (R66, R187). -/
structure TermStored (e : List Byte) (v : Term) : Prop where
  negate : v.negate = (e.getD 1 0).getLsbD 0
  never : byteAt e 0 = 0 → v.kind = .never
  pattern : byteAt e 0 = 1 →
    v.kind = .pattern (BitVec.ofNat 32 (numAt e 4 4)) (BitVec.ofNat 32 (numAt e 8 4))
  edge : byteAt e 0 = 2 → ∃ k p, v.kind = .edge k p ∧ k.val = byteAt e 4 ∧ polarityCode p = byteAt e 5
  symbol : byteAt e 0 = 3 → ∃ l, l.val = byteAt e 4 ∧
    v.kind = .symbol l (e.getD 5 0) (e.getD 6 0) (e.getD 7 0) (BitVec.ofNat 32 (numAt e 8 4))
      (BitVec.ofNat 32 (numAt e 12 4))
  field : byteAt e 0 = 4 → ∃ f, f.val = byteAt e 4 ∧
    v.kind = .field f (if byteAt e 5 = 0 then .inside else .outside) (BitVec.ofNat 32 (numAt e 8 4))
      (BitVec.ofNat 32 (numAt e 12 4))
  counter : byteAt e 0 = 5 → ∃ c, v.kind = .counterExpired c ∧ c.val = byteAt e 4

/-- A branch stored from the ten bytes from a place on (R71, R187). -/
structure BranchStored (e : List Byte) (a : Nat) (v : Branch) : Prop where
  terms : v.terms.map (·.val) = (List.range (byteAt e (a + 4))).map fun i => byteAt e (a + i)
  combine : v.any = (e.getD (a + 5) 0).getLsbD 0
  consecutive : v.consecutive = (e.getD (a + 5) 0).getLsbD 1
  target : targetCode v.target = byteAt e (a + 6)
  actions : actionCode v.action0 = byteAt e (a + 7) % 4 ∧ actionCode v.action1 = byteAt e (a + 7) / 4 % 4
  count : v.count = max 1 (numAt e (a + 8) 2)

/-- A counter entry stored from some bytes (R75, R187). -/
structure CounterStored (e : List Byte) (v : CounterEntry) : Prop where
  preload : v.preload = max 1 (numAt e 0 4)
  autoReload : v.autoReload = (e.getD 7 0).getLsbD 0
  samples : byteAt e 4 = 0 → v.source = .samples
  ticks : byteAt e 4 = 1 → ∃ p, v.source = .ticks p ∧ p.val = byteAt e 5
  term : byteAt e 4 = 2 → ∃ j, v.source = .termTrue j ∧ j.val = byteAt e 5
  edge : byteAt e 4 = 3 →
    ∃ k p, v.source = .edge k p ∧ k.val = byteAt e 5 ∧ polarityCode p = byteAt e 6

/-- A lane descriptor stored from some bytes (R86, R87, R187). -/
structure LaneStored (e : List Byte) (v : LaneEntry) : Prop where
  enable : v.enable = decide (byteAt e 0 = 1)
  common : v.deglitch = min 15 (byteAt e 2) ∧ v.gap = max 1 (min 1024 (numAt e 4 2))
  async : byteAt e 1 = 0 → ∃ p, v.kind = .async p ∧ p.data.val = byteAt e 6 ∧
    p.idleHigh = decide (byteAt e 7 = 0) ∧ p.dataBits = byteAt e 8 ∧ parityCode p.parity = byteAt e 9 ∧
    p.stopBits = byteAt e 10 ∧ p.msbFirst = decide (byteAt e 11 = 1) ∧ p.bq = max 1 (numAt e 12 3)
  clocked : byteAt e 1 = 1 → ∃ p, v.kind = .clocked p ∧ p.clock.val = byteAt e 6 ∧
    p.dataA.val = byteAt e 7 ∧ optionalChannelCode p.dataB = byteAt e 8 ∧
    optionalChannelCode p.select = byteAt e 9 ∧ p.fallingEdge = decide (byteAt e 10 = 1) ∧
    p.selectHigh = decide (byteAt e 11 = 1) ∧ p.wordSize = byteAt e 12 ∧
    p.msbFirst = decide (byteAt e 13 = 1)
  twoWire : byteAt e 1 = 2 → ∃ p, v.kind = .twoWire p ∧ p.clock.val = byteAt e 6 ∧
    p.data.val = byteAt e 7 ∧ p.stretch = max 1 (min 16777216 (numAt e 8 4))
  strobed : byteAt e 1 = 3 → ∃ p, v.kind = .strobed p ∧ p.base.val = byteAt e 6 ∧ p.width = byteAt e 7 ∧
    p.dataStrobe.val = byteAt e 8 ∧ optionalChannelCode p.addressStrobe = byteAt e 9 ∧
    optionalChannelCode p.direction = byteAt e 10 ∧ optionalChannelCode p.wait = byteAt e 11 ∧
    p.limit = max 1 (numAt e 12 2)

/-- A field map entry stored from some bytes (R118, R187). -/
structure FieldStored (e : List Byte) (v : FieldEntry) : Prop where
  flags : v.enable = (e.getD 0 0).getLsbD 0 ∧ v.invert = (e.getD 0 0).getLsbD 1
  source : v.lane.val = byteAt e 1 ∧ v.first = byteAt e 2 ∧ v.span = byteAt e 3
  bits : v.startBit = byteAt e 4 ∧ v.width = max 1 (min 32 (byteAt e 5))

/-- Entry 0 of a view set stored from some bytes, for a panel of some size (R131, R187). -/
structure ViewStored (panelWidth panelHeight : Nat) (e : List Byte) (v : View) : Prop where
  segment : v.segment.val = byteAt e 0
  reference : v.reference = if byteAt e 1 = 0 then .trigger else .start
  rowCount : v.rowCount = min 40 (byteAt e 2)
  origin : v.origin = max (-140737488355327) (BitVec.ofNat 48 (numAt e 4 6)).toInt
  zoom : v.zoom = max 1 (numAt e 10 4)
  corner : v.left = min (numAt e 14 2) (panelWidth - 1) ∧ v.top = min (numAt e 16 2) (panelHeight - 1)
  size : v.width = max 1 (min (panelWidth - v.left) (numAt e 18 2)) ∧
    v.height = max 1 (min (panelHeight - v.top) (numAt e 20 2))

/-- A row stored from some bytes (R132, R187). -/
structure RowStored (e : List Byte) (v : Row) : Prop where
  height : v.height = max 8 (min 64 (byteAt e 1))
  colours : v.line = e.getD 2 0 ∧ v.activity = e.getD 3 0 ∧ v.text = e.getD 4 0
  spacer : byteAt e 0 = 0 → v.kind = .spacer
  channel : byteAt e 0 = 1 → ∃ k, v.kind = .channel k ∧ k.val = byteAt e 8
  group : byteAt e 0 = 2 → v.kind = .group (BitVec.ofNat 32 (numAt e 8 4))
  lane : byteAt e 0 = 3 → ∃ l, v.kind = .lane l ∧ l.val = byteAt e 8

/-- A panel entry stored from some bytes (R152, R187). -/
structure PanelStored (e : List Byte) (v : Panel) : Prop where
  enabled : v.enabled = decide (byteAt e 0 = 1)
  polarities : v.hActiveHigh = (e.getD 1 0).getLsbD 0 ∧ v.vActiveHigh = (e.getD 1 0).getLsbD 1
  size : v.width = max 320 (min 800 (numAt e 2 2)) ∧ v.height = max 240 (min 480 (numAt e 4 2))
  horizontal : v.hFront = max 1 (byteAt e 6) ∧ v.hSync = max 1 (byteAt e 7) ∧ v.hBack = max 1 (byteAt e 8)
  vertical : v.vFront = max 1 (byteAt e 9) ∧ v.vSync = max 1 (min 63 (byteAt e 10)) ∧
    v.vBack = max 1 (byteAt e 11)
  divisor : v.divisor = max 4 (min 64 (byteAt e 12))

/-! ### The reports of STATUS (R186) -/

/-- An optional number stands in n bytes at a place of a report, all ones where it is absent (R185). -/
def holdsOptional (b : List Byte) (a n : Nat) (v : Option Nat) : Prop :=
  numAt b a n = (v.getD (256 ^ n - 1)) % 256 ^ n

/-- The fields of the DEVICE report (R178, R186). -/
structure DeviceReport (s : State) (b : List Byte) : Prop where
  length : b.length = 12
  cause : byteAt b 0 = match s.pru.cause with | .power => 0 | .pin => 1 | .link => 2
  power : byteAt b 1 = match s.pru.power with | .run => 0 | .standby => 1 | .sleep => 2
  size : byteAt b 2 = match s.mp.size with | .mib64 => 0 | .mib128 => 1 | .mib256 => 2
  pods : ∀ p : Fin 4, (b.getD 3 0).getLsbD p = s.pfe.pods[p].present ∧
    (b.getD 3 0).getLsbD (4 + p) = s.pfe.pods[p].changed
  engine : byteAt b 4 = match s.ce.engine with
    | .idle => 0 | .preFill => 1 | .armed => 2 | .triggered => 3 | .closing => 4
  segment : holdsOptional b 5 1 (s.ce.segment.map (·.val))
  counts : numAt b 6 4 = s.lp.dropped % 4294967296 ∧ numAt b 10 2 = s.ce.queue.length % 65536

/-- The fields of the SEGMENT report (R53, R178, R186). -/
structure SegmentReport (g : SegmentStatus) (b : List Byte) : Prop where
  length : b.length = 57
  state : byteAt b 0 = match g.state with | .empty => 0 | .filling => 1 | .closed => 2
  presence : (b.getD 1 0).getLsbD 0 = g.startTime.isSome ∧ (b.getD 1 0).getLsbD 1 = g.endTime.isSome ∧
    (b.getD 1 0).getLsbD 2 = g.triggerTime.isSome
  ring : holdsOptional b 2 4 g.oldest ∧ holdsOptional b 6 4 g.newest ∧
    numAt b 10 4 = g.recordCount % 4294967296
  times : numAt b 14 6 = (g.startTime.getD 0).toNat ∧ numAt b 20 6 = (g.endTime.getD 0).toNat ∧
    numAt b 26 6 = (g.triggerTime.getD 0).toNat
  trigger : holdsOptional b 32 4 g.triggerPosition ∧ holdsOptional b 36 1 (g.triggerCause.map fun c =>
    match c with | .stage n => n.val | .forced => 8)
  reason : holdsOptional b 37 1 (g.endReason.map fun r =>
    match r with | .postComplete => 0 | .memoryLimit => 1 | .stalled => 2 | .stopped => 3 | .reset => 4)
  gaps : numAt b 38 4 = g.gapCount % 4294967296
  flags : (b.getD 42 0).getLsbD 0 = g.podLost ∧ (b.getD 42 0).getLsbD 1 = g.loop
  symbols : holdsOptional b 43 4 g.symbolFirst ∧ numAt b 47 4 = g.symbolCount % 4294967296 ∧
    numAt b 51 4 = g.symbolLost % 4294967296
  status : holdsOptional b 55 1 (g.symbolStatus.map fun x => match x with
    | .complete => 0 | .truncated => 1 | .redecoded => 2 | .redecodedTruncated => 3 | .incomplete => 4)
  holds : byteAt b 56 = g.holdCount % 256

/-- The fields of the LANE report (R110, R178, R186). -/
structure LaneReport (l : Lane) (b : List Byte) : Prop where
  length : b.length = 48
  state : byteAt b 0 = match l.mode with | .idle => 0 | .running => 1 | .replaying => 2
  flags : (b.getD 1 0).getLsbD 0 = l.decoder.frame.isOpen ∧ (b.getD 1 0).getLsbD 1 = l.pendingLost
  words : byteAt b 2 = l.wordCount % 256
  counters : ∀ (i : Nat) (n : Nat), [l.counters.emitted, l.counters.parity, l.counters.framing,
      l.counters.short, l.counters.timeout, l.counters.nack, l.counters.wide, l.counters.read,
      l.counters.lost, l.counters.glitches, l.counters.falseStarts][i]? = some n →
    numAt b (4 + 4 * i) 4 = n % 4294967296

/-- The fields of the SEQUENCER report, part 0 (R84, R186; the run-state codes are assumption 57). -/
structure SequencerReport (u : Ts) (b : List Byte) : Prop where
  length : b.length = 24
  run : byteAt b 0 = match u.run with | .off => 0 | .running => 1 | .fired => 2 | .halted => 3
  stage : holdsOptional b 1 1 (u.stage.map (·.val))
  branches : numAt b 2 2 = u.primary % 65536 ∧ numAt b 4 2 = u.secondary % 65536
  counters : ∀ c : Fin 2, (b.getD 6 0).getLsbD c = u.counters[c].running ∧
    numAt b (7 + 4 * c) 4 = u.counters[c].value % 4294967296
  trigger : byteAt b 15 = (if u.triggerTime.isSome then 1 else 0) ∧
    numAt b 16 6 = (u.triggerTime.getD 0).toNat
  cause : holdsOptional b 22 1 (u.triggerCause.map fun c => match c with | .stage n => n.val | .forced => 8)
  history : byteAt b 23 = u.history.length % 256

/-- The fields of the RENDER report, part 0 (R151, R186). -/
structure RenderReport (r : Re) (b : List Byte) : Prop where
  length : b.length = 44
  job : byteAt b 0 = match r.job with | .idle => 0 | .drawing => 1 | .waitFlip => 2
  flags : (b.getD 1 0).getLsbD 0 = r.pending ∧ (b.getD 1 0).getLsbD 1 = decide (r.active = .b) ∧
    (b.getD 1 0).getLsbD 2 = r.stale
  segment : holdsOptional b 2 1 (r.segment.map (·.val))
  outcome : holdsOptional b 3 1 (r.outcome.map fun o => match o with
    | .done => 0 | .noData => 1 | .overrun => 2 | .aborted => 3 | .annotationsOmitted => 4)
  clipped : holdsOptional b 4 1 r.rowsClipped
  columns : holdsOptional b 5 2 (r.bounds.bind (·.firstColumn)) ∧
    holdsOptional b 7 2 (r.bounds.bind (·.lastColumn))
  presence : (b.getD 9 0).getLsbD 0 = (r.bounds.bind (·.firstStart)).isSome ∧
    (b.getD 9 0).getLsbD 1 = (r.bounds.bind (·.lastEnd)).isSome ∧
    (b.getD 9 0).getLsbD 2 = (r.readings.bind (·.value1)).isSome ∧
    (b.getD 9 0).getLsbD 3 = (r.readings.bind (·.value2)).isSome ∧
    (b.getD 9 0).getLsbD 4 = (r.readings.bind (·.interval)).isSome
  times : numAt b 10 6 = ((r.bounds.bind (·.firstStart)).getD 0).toNat ∧
    numAt b 16 6 = ((r.bounds.bind (·.lastEnd)).getD 0).toNat
  counts : holdsOptional b 22 4 (r.bounds.map (·.recordsRead)) ∧
    holdsOptional b 26 4 (r.bounds.map (·.symbolsDrawn))
  values : holdsOptional b 30 4 ((r.readings.bind (·.value1)).map (·.toNat)) ∧
    holdsOptional b 34 4 ((r.readings.bind (·.value2)).map (·.toNat))
  interval : numAt b 38 6 = (((r.readings.bind (·.interval)).map (·.1)).getD 0) % 281474976710656

/-! ### When a command can be dispatched -/

/-- A command cell as it arrives whole: at most 60 payload bytes, as many as its Length says (R162). -/
def wholeCell (c : LinkCell) : Bool := decide (c.length.toNat ≤ 60) && c.payload.length == c.length.toNat

/-- A whole command cell waits at the head of the command queue, with others behind it, and may be
dispatched: the reply slot is empty, no command is still carried out, and no wake or link reset is due
(R164). A WRITE of table 2 and a FORCE that raises an output do not come after the loop-mode sample of their
tick; every other command is free of that (assumption 58). -/
structure Ready (c : LinkCell) (rest : List LinkCell) (s : State) : Prop where
  whole : wholeCell c = true
  head : s.lp.queue = c :: rest
  slot : s.lp.slot = none
  free : s.lp.inProgress = none
  awake : s.pru.wake = none
  noReset : s.lp.resetDue = false
  untied : waitsForTick c s = false

/-- The parts that every dispatch may change: the head leaves the command queue, the reply takes the slot,
and the idle timer restarts (R164, R182). -/
def dispatchParts : List Part := [.queue, .slot, .idleStart]

/-- The parts that a dispatch with effects on some parts may change. -/
def withDispatch (parts : List Part) : List Part := parts ++ dispatchParts

/-- The head has left the command queue and its reply stands in the reply slot, with its tag (R164, R165). -/
def answered (c : LinkCell) (rest : List LinkCell) (body : ReplyBody) (t : State) : Prop :=
  t.lp.queue = rest ∧ t.lp.slot = some { tag := c.tag, body := body }

/-- A row refuses the command at the head with a code and an index: the queue loses its head, the reply takes
the slot, and nothing else changes but the idle timer, restarted in Run (R165, R182). -/
def refuses (i : Instr) (c : LinkCell) (rest : List LinkCell) (code : RefusalCode) (index : Byte)
    (s : State) : Prop :=
  ∃ t, exec i s = .next t ∧ answered c rest (.refused code index) t ∧ ChangesOnly dispatchParts s t

/-- A row refuses the command at the head with a code and index 0; in Standby it has first returned the part
to Run (R165, R181). -/
def refusesInRun (i : Instr) (c : LinkCell) (rest : List LinkCell) (code : RefusalCode) (s : State) : Prop :=
  ∃ t, exec i s = .next t ∧ answered c rest (.refused code 0) t ∧ t.pru.power = .run ∧
    ChangesOnly (withDispatch [.power]) s t

/-! ### The lane checks of ARM and REDECODE (R89, R125) -/

/-- A lane that is On assigns a channel from 16 to 31 in Narrow width outside loop mode (R89, 9b). -/
def laneUnavailable (s : State) (l : Fin 4) : Prop :=
  s.laneTable[l].enable = true ∧ s.ce.table.width = .narrow ∧ s.ce.table.loop = false ∧
    ∃ k ∈ laneChannels s.laneTable[l].kind, 16 ≤ k

/-- An Async lane that is On has a bit period under four sample periods (R89, 9c). -/
def laneTooFast (s : State) (l : Fin 4) : Prop :=
  s.laneTable[l].enable = true ∧
    ∃ p, s.laneTable[l].kind = .async p ∧ p.bq < 1024 * s.ce.table.divisor

end Sys2Proof.Machine
end

