-- ==== Sys2Proof/Certificates/Slice0/Obligations.lean ====
section
/-! DEFINITION. The statements for the provers: what a step of the machine is, the laws that every step
keeps, and for every row of the opcode table where it completes, what it leaves and what it leaves alone. -/

open Sys2Proof Sys2Proof.Machine

/-! ### The machine -/

/-- Steps are taken from the front of the queue: a step runs the command at the front on the state with the
queue's rest. -/
def Obligations.StepRunsTheFrontCommand : Prop :=
  ∀ (s : State) (c : Instr) (rest : List Instr),
    step { s with pending := c :: rest } = exec c { s with pending := rest }

/-- With no step offered the part does what is due at its tick, and with nothing due it goes on to the next
tick; in Sleep the reference is stopped and nothing changes (assumption 5; R7, R8, R15, R180). -/
def Obligations.EmptyQueueRunsTheDueStepOrOneTick : Prop :=
  ∀ s : State, s.pending = [] →
    (∀ i, dueStep s = some i → step s = exec i s) ∧
    (dueStep s = none → s.pru.power = .sleep → step s = .next s) ∧
    (dueStep s = none → s.pru.power ≠ .sleep → ∃ t, step s = .next t ∧
      t.time = s.time + 1 ∧ t.prescaler = s.prescaler + 1 ∧
      (∀ i : Fin 2, t.gen.outputs[i] = tickOutput s.gen.outputs[i]) ∧
      (∀ p : Fin 4, t.pfe.pods[p] = { s.pfe.pods[p] with inserted := false }) ∧
      ChangesOnly [.time, .prescaler, .genOutputs, .pods, .idleStart] s t)

/-- The laws hold of the machine right after reset. -/
def Obligations.ResetStateKeepsTheLaws : Prop :=
  memWf State.reset.dram = true ∧ PlanLaw State.reset ∧ EngineLaw State.reset ∧ HoldLaw State.reset ∧
    QueueLaw State.reset

/-- The DRAM stays in its canonical form through every step. -/
def Obligations.EveryStepKeepsTheMemoryForm : Prop :=
  ∀ s t : State, memWf s.dram = true → step s = .next t → memWf t.dram = true

/-- Every step keeps the memory plan in order: regions inside the DRAM with room for both frame buffers,
every planned span in its region, and no block planned twice (R45, R46, R50). -/
def Obligations.EveryStepKeepsThePlanLaw : Prop :=
  ∀ s t : State, PlanLaw s → step s = .next t → PlanLaw t

/-- Every step keeps the Capture Engine's law: Idle exactly without a current segment, and a segment Filling
exactly while it is the current one (R31). -/
def Obligations.EveryStepKeepsTheEngineLaw : Prop :=
  ∀ s t : State, EngineLaw s → step s = .next t → EngineLaw t

/-- Every step keeps hold counts true: a segment's hold count is the number of renders and readouts that
hold it (R55, R56). -/
def Obligations.EveryStepKeepsTheHoldLaw : Prop :=
  ∀ s t : State, HoldLaw s → step s = .next t → HoldLaw t

/-- Every step keeps the bounds of the queues: 8 commands, 512 records, 16 staged samples, 16 history
entries, 32 symbols a lane, 17 stamps of the merge horizon (R20, R24, R83, R116, R121, R163). -/
def Obligations.EveryStepKeepsTheQueueBounds : Prop :=
  ∀ s t : State, QueueLaw s → step s = .next t → QueueLaw t

/-- While a capture or a redecode runs, no step but a power-on or pin reset changes the acquisition, pod,
region, segment plan, term, stage, counter, lane or field table (R168: the acquisition-locked tables). -/
def Obligations.CaptureTablesAreLocked : Prop :=
  ∀ (i : Instr) (s t : State), (s.ce.engine ≠ .idle ∨ s.redecode ≠ none) →
    (∀ d, i ≠ .powerOnReset d ∧ i ≠ .pinReset d) → exec i s = .next t →
    ∀ p ∈ [Part.acqTable, .podTable, .regions, .plan, .tsTables, .laneTable, .fieldMap], p.same s t

/-! ### The resets -/

/-- What R43 says of a state after a power-on or pin reset. -/
def Obligations.PowerOnAndPinResetTheCaptureEngine : Prop :=
  ∀ (strap : DramSize) (s : State) (i : Instr), i = .powerOnReset strap ∨ i = .pinReset strap →
    ∃ t, exec i s = .next t ∧ t.ce.engine = .idle ∧ t.ce.segment = none ∧ t.ce.queue = [] ∧
      t.ce.staging = [] ∧ t.ce.episode = none ∧ t.ce.table.postTrigger = 4096 ∧ t.ce.table.preFill = 0 ∧
      t.ce.table.retainFloor = 0 ∧ t.ce.table.sequenceCount = 1 ∧
      (∀ n : Fin 32, t.plan[n].planned = false ∧ t.segments[n].state = .empty) ∧
      ∀ (m : Memory) (c : Ce) (g : Vector SegmentStatus 32),
        exec i { s with dram := m, ce := c, segments := g } = .next t

/-- A power-on or pin reset puts every block at its reset values: the result is the reset state but for the
DRAM size and what follows from it, the reset cause, the pods and comparators, and what is not the part's to
reset (R1, R3, R5, R15, R18, R44, R45, R61, R113, R138, R155, R163, R176, R179, R184). That every
DRAM byte reads 0 after it is assumption 1; the model's readings are in assumptions 39, 43, 63 and 65. -/
def Obligations.PowerOnAndPinResetRestoreEveryBlock : Prop :=
  ∀ (strap : DramSize) (s : State) (i : Instr) (cause : ResetCause),
    (i, cause) ∈ [(Instr.powerOnReset strap, ResetCause.power), (.pinReset strap, .pin)] →
    ∃ t, exec i s = .next t ∧
      t = { State.reset with
        pending := s.pending, noticesSent := s.noticesSent, pfe := t.pfe
        mp := { size := strap, regions := t.mp.regions, fill := none }
        su := { State.reset.su with scanBase := totalBlocks strap - 24 }
        pru := { State.reset.pru with cause := cause } } ∧
      t.mp.regions = { captureEnd := totalBlocks strap - 128, symbolEnd := totalBlocks strap - 24 } ∧
      t.pfe.inputs = s.pfe.inputs ∧
      (∀ p : Fin 4, t.pfe.table[p] = { threshold := 1400, hysteresis := 50 } ∧
        t.pfe.pods[p].sense = s.pfe.pods[p].sense ∧ t.pfe.pods[p].present = s.pfe.pods[p].sense ∧
        t.pfe.pods[p].changed = false) ∧
      ∀ k : Fin 32, t.pfe.outputs.getLsbD k = decide (2 * 1400 < s.pfe.inputs[k])

/-- A link reset, once it is due, completes: the capture, redecode, render and readout end, the Trigger
Sequencer is Off, and the lanes, the merger and the link are emptied. The segment that was Filling is Closed
with reason Reset, its ring, counts and flags as they stand, the symbols of the FIFOs counted lost, and its
span trimmed; a segment that was redecoded is Incomplete, its span trimmed. Every other segment keeps its
record but for the holds that go, a render engine without a render keeps all it holds, and tables, times,
DRAM, power state and dropped count are kept (R42, R62, R80, R113, R117, R124, R130, R138, R174). The model's
readings are in assumptions 19, 22 and 64. -/
def Obligations.LinkResetEndsEveryOperation : Prop :=
  ∀ s : State, s.lp.resetDue = true → ∃ t, exec .linkReset s = .next t ∧
    t.pru.cause = .link ∧ t.redecode = none ∧ t.lp.readout = none ∧
    t.lp.queue = [] ∧ t.lp.slot = none ∧ t.lp.inProgress = none ∧ t.lp.sending = none ∧
    t.lp.resetDue = false ∧
    (∀ k : Fin 10, t.lp.notices[k] = { pending := false, count := 0, snapshot := none }) ∧
    t.ts = { defaultTs with
      terms := s.ts.terms, stages := s.ts.stages, counterTable := s.ts.counterTable } ∧
    (∀ l : Fin 4, t.lanes[l] = idleLane) ∧ t.sm.stamps = [] ∧
    t.pru.idleStart = (if s.pru.power = .run then s.time else s.pru.idleStart) ∧
    (s.ce.segment = none → t.ce = s.ce) ∧
    (∀ (n : Fin 32) (g : SegmentStatus) (start stop : Time) (lost : Nat), s.ce.segment = some n →
      g = s.segments[n] → start = g.startTime.getD s.time → stop = g.endTime.getD start →
      lost = s.lanes[0].fifo.length + s.lanes[1].fifo.length + s.lanes[2].fifo.length +
        s.lanes[3].fifo.length →
      t.ce = { idleCe with table := s.ce.table } ∧
      ((∀ r, s.redecode = some r → r.segment ≠ n) →
        Trimmed s n start stop t.segments[n] ∧
        t.segments[n] = { g with
          state := .closed, startTime := some start, endTime := some stop, endReason := some .reset
          triggerTime := if g.triggerPosition.isSome then g.triggerTime else none
          triggerCause := if g.triggerPosition.isSome then g.triggerCause else none
          symbolLost := if lost = 0 then g.symbolLost else min (g.symbolLost + lost) 4294967295
          symbolStatus := if lost = 0 then g.symbolStatus else some .truncated
          symbolFirst := t.segments[n].symbolFirst, symbolCount := t.segments[n].symbolCount
          holdCount := t.segments[n].holdCount })) ∧
    (∀ r, s.redecode = some r → t.segments[r.segment].symbolStatus = some .incomplete ∧
      (s.ce.segment ≠ some r.segment →
        Trimmed s r.segment (s.segments[r.segment].startTime.getD 0)
          (s.segments[r.segment].endTime.getD 0) t.segments[r.segment] ∧
        t.segments[r.segment] = { s.segments[r.segment] with
          symbolStatus := some .incomplete, symbolFirst := t.segments[r.segment].symbolFirst
          symbolCount := t.segments[r.segment].symbolCount
          holdCount := t.segments[r.segment].holdCount })) ∧
    (∀ n : Fin 32, s.ce.segment ≠ some n → (∀ r, s.redecode = some r → r.segment ≠ n) →
      t.segments[n] = { s.segments[n] with holdCount := t.segments[n].holdCount }) ∧
    (∀ n : Fin 32, t.segments[n].holdCount = s.segments[n].holdCount - holdsOn s n) ∧
    (HoldLaw s → ∀ n : Fin 32, t.segments[n].holdCount = 0) ∧
    (s.re.draw = none → t.re = s.re) ∧
    (∀ d, s.re.draw = some d → t.re = { s.re with
      job := .idle, pending := false, draw := none, outcome := some .aborted, bounds := none
      readings := none }) ∧
    ChangesOnly [.ce, .segments, .holds, .ts, .lanes, .sm, .redecode, .job, .re, .readout, .queue, .slot,
      .inProgress, .sending, .notices, .resetDue, .cause, .idleStart] s t

/-! ### Probes and the Signal Generator -/

/-- A comparator's input takes a voltage, given in half millivolts: its output becomes 1 above T + H/2,
becomes 0 at or below T − H/2, and is kept between; no other comparator's output changes (R3). In Sleep, with
no wake begun, the wake logic notes what differs on its channels (R183). A pod's presence sense takes a level:
a level it has already changes nothing, and a new one restarts the pod's filter at this tick (R4). The model's
readings are in assumptions 10, 35 and, for two voltages within a tick, 67. -/
def Obligations.PinChangesDecideComparatorsAndFilters : Prop :=
  (∀ (k : Fin 32) (v : Int) (s : State), ∃ t, exec (.comparatorOutputChange k v) s = .next t ∧
    t.pfe.inputs = s.pfe.inputs.set k v ∧
    t.pfe.outputs.getLsbD k =
      (if 2 * s.pfe.table[podOf k].threshold + s.pfe.table[podOf k].hysteresis < v then true
        else if v ≤ 2 * s.pfe.table[podOf k].threshold - s.pfe.table[podOf k].hysteresis then false
        else s.pfe.outputs.getLsbD k) ∧
    (∀ j : Fin 32, j ≠ k → t.pfe.outputs.getLsbD j = s.pfe.outputs.getLsbD j) ∧
    (s.pru.power = .sleep → s.pru.wake = none →
      t.pru.changed = s.pru.changed ||| ((wakeLevels t.pfe ^^^ s.pru.recorded) &&& s.pru.mask)) ∧
    (s.pru.power ≠ .sleep ∨ s.pru.wake ≠ none → t.pru = s.pru) ∧
    ChangesOnly [.inputs, .outputs, .wakeLogic] s t) ∧
  (∀ (pod : Fin 4) (level : Bool) (s : State), ∃ t, exec (.presenceSenseChange pod level) s = .next t ∧
    (s.pfe.pods[pod].sense = level → t = s) ∧
    (s.pfe.pods[pod].sense ≠ level →
      t.pfe.pods[pod] = { s.pfe.pods[pod] with sense := level, filterStart := s.time }) ∧
    (∀ p : Fin 4, p ≠ pod → t.pfe.pods[p] = s.pfe.pods[p]) ∧
    ChangesOnly [.pods] s t)

/-- A sense that has held another level than Present for 400,000 ticks, out of Sleep: Present takes it,
Changed is set, PodChange is raised, the comparators of a pod that became present start without a held
state, and the loss of a captured pod during a capture sets PodLost in the segment being filled; PodLost is
otherwise left as it was, and so is every other segment (R3, R4, R6). The model's reading is in
assumption 6. -/
def Obligations.PresentFollowsTheSenseAfterOneMillisecond : Prop :=
  ∀ (pod : Fin 4) (s : State), s.pfe.pods[pod].sense ≠ s.pfe.pods[pod].present →
    400000 ≤ timeDiff s.time s.pfe.pods[pod].filterStart → s.pru.power ≠ .sleep →
    ∃ t, exec (.podPresentChange pod) s = .next t ∧
      t.pfe.pods[pod].present = s.pfe.pods[pod].sense ∧ t.pfe.pods[pod].changed = true ∧
      (∀ p : Fin 4, p ≠ pod → t.pfe.pods[p] = s.pfe.pods[p]) ∧
      raised (.podChange pod s.pfe.pods[pod].sense) s t ∧
      (∀ k : Fin 32, t.pfe.outputs.getLsbD k =
        if s.pfe.pods[pod].sense = true ∧ podOf k = pod then
          decide (2 * s.pfe.table[pod].threshold < s.pfe.inputs[k])
        else s.pfe.outputs.getLsbD k) ∧
      (s.pfe.pods[pod].sense = true → t.segments = s.segments) ∧
      (s.pfe.pods[pod].sense = false → ∀ n, s.ce.segment = some n →
        s.ce.engine = .preFill ∨ s.ce.engine = .armed ∨ s.ce.engine = .triggered →
        s.ce.table.loop = false → (s.ce.table.width = .wide ∨ pod.val < 2) →
        t.segments[n].podLost = true) ∧
      (∀ (n : Fin 32) (lost : Prop),
        (lost ↔ s.pfe.pods[pod].sense = false ∧ s.ce.segment = some n ∧
          (s.ce.engine = .preFill ∨ s.ce.engine = .armed ∨ s.ce.engine = .triggered) ∧
          s.ce.table.loop = false ∧ (s.ce.table.width = .wide ∨ pod.val < 2)) →
        (lost → t.segments[n] = { s.segments[n] with podLost := true }) ∧
        (¬lost → t.segments[n] = s.segments[n])) ∧
      ChangesOnly [.pods, .outputs, .notices, .segments] s t

/-- The end of a half-period of N ticks: a Running output inverts; a Bursting one falls, rises with one
period fewer, or ends at 0, Held or, in BurstOnTrigger, Waiting; a rise of CAL0 adds 1 to the loop counter
(R14, R16, R17). -/
def Obligations.HalfPeriodEndChangesTheLevel : Prop :=
  ∀ (i : Fin 2) (s : State), s.gen.outputs[i].ticksLeft = 0 → s.pru.power ≠ .sleep →
    s.gen.outputs[i].run = .running ∨ s.gen.outputs[i].run = .bursting →
    ∃ t, exec (.halfPeriodEnd i) s = .next t ∧
      (s.gen.outputs[i].run = .running → t.gen.outputs[i] = { s.gen.outputs[i] with
        level := !s.gen.outputs[i].level, ticksLeft := s.gen.table[i].half }) ∧
      (s.gen.outputs[i].run = .bursting → s.gen.outputs[i].level = true →
        t.gen.outputs[i] = { s.gen.outputs[i] with level := false, ticksLeft := s.gen.table[i].half }) ∧
      (s.gen.outputs[i].run = .bursting → s.gen.outputs[i].level = false →
        2 ≤ s.gen.outputs[i].periodsLeft → t.gen.outputs[i] = { s.gen.outputs[i] with
          level := true, ticksLeft := s.gen.table[i].half
          periodsLeft := s.gen.outputs[i].periodsLeft - 1 }) ∧
      (s.gen.outputs[i].run = .bursting → s.gen.outputs[i].level = false →
        s.gen.outputs[i].periodsLeft = 1 → t.gen.outputs[i].level = false ∧
          t.gen.outputs[i].run = if s.gen.table[i].mode = .burstOnTrigger then .waiting else .held) ∧
      (∀ j : Fin 2, j ≠ i → t.gen.outputs[j] = s.gen.outputs[j]) ∧
      t.gen.loopCounter =
        (if i = 0 ∧ s.gen.outputs[i].level = false ∧ t.gen.outputs[i].level = true then
          s.gen.loopCounter + 1 else s.gen.loopCounter) ∧
      ChangesOnly [.genOutputs, .loopCounter] s t

/-! ### Sampling and the compressor -/

/-- The levels a sample holds: the comparator outputs, 0 for a pod that is absent; in loop mode CAL0, CAL1
and the loop counter on channels 0 to 7 and 0 elsewhere; and 0 on channels 16 to 31 in Narrow width (R5, R11,
R13). That a pod reads 0 at the very tick it becomes present is assumption 6. Once the loop-mode sample of a
tick is taken, a WRITE of table 2 and a FORCE that raises an output wait for the next tick, so that it holds
the levels of its tick (R13, R14; assumption 58; that a command which waits changes nothing is
assumption 3). -/
def Obligations.SampleHoldsTheLevelsOfItsTick : Prop :=
  (∀ (s : State) (k : Fin 32),
    (s.ce.table.width = .narrow → 16 ≤ k.val → (sampleLevels s).getLsbD k = false) ∧
    (s.ce.table.width = .wide ∨ k.val < 16 → s.ce.table.loop = false →
      (sampleLevels s).getLsbD k = (s.pfe.outputs.getLsbD k && s.pfe.pods[podOf k].present &&
        !s.pfe.pods[podOf k].inserted)) ∧
    (s.ce.table.width = .wide ∨ k.val < 16 → s.ce.table.loop = true →
      (sampleLevels s).getLsbD k =
        (if k.val = 0 then s.gen.outputs[0].level else if k.val = 1 then s.gen.outputs[1].level
          else if k.val < 8 then s.gen.loopCounter.getLsbD (k.val - 2) else false))) ∧
  ∀ (c : LinkCell) (rest : List LinkCell) (s : State), s.lp.queue = c :: rest → s.ce.table.loop = true →
    s.ce.engine ≠ .idle →
    s.ce.nextTick = s.time + BitVec.ofNat 48 (if s.ce.table.mode = .timing then s.ce.table.divisor
      else if s.ce.table.width = .narrow then 1 else 2) →
    (c.code = 1 → (∃ more, c.payload = 2 :: more ∧ more ≠ []) → exec .writeGenerator s = .next s) ∧
    (c.code = 5 → s.ce.engine = .preFill ∨ s.ce.engine = .armed →
      (∃ i : Fin 2, s.gen.table[i].mode = .burstOnTrigger ∧ s.gen.outputs[i].level = false) →
      exec .force s = .next s)

/-- A due sampler takes a sample, always in timing capture and at a qualifying edge in state capture; in
PreFill and Armed it enters a staging line that has room. It is due again after the divisor, or in state
capture after 1 tick in Narrow and 2 in Wide width. An examination without a qualifying edge, and the first
one, takes none, and a FORCE held for that sample triggers at the newest one staged (R11, R12, R20, R36,
R121). A deglitch filter of span D releases a sample once the D − 1 after it are there, and lets a channel
change only where its level holds in all of them (R91). At a character's last cell, a taken edge, a clock rise
or a data strobe's release a lane emits the symbol its bits form, with its times and tags (R95 to R99, R103,
R104, R107, R108). The model's readings are in assumptions 11, 46 and 48. -/
def Obligations.SamplerTakesASampleWhenItIsDue : Prop :=
  (∀ s : State, Quiet s → s.ce.engine = .preFill ∨ s.ce.engine = .armed → s.ce.heldForce = false →
    s.ce.nextTick = s.time → s.ce.staging.length < 16 →
    (s.ce.table.mode = .timing ∨ ∃ old, s.ce.clock = some old ∧ qualifies s.ce.table.clockEdge old
      ((sampleLevels s).getLsbD s.ce.table.clockChannel) = true) →
    ∃ t, exec .sample s = .next t ∧
      t.ce = { s.ce with
        staging := s.ce.staging ++ [{ stamp := s.time, levels := sampleLevels s }]
        taken := s.ce.taken + 1
        nextTick := s.time + BitVec.ofNat 48 (if s.ce.table.mode = .timing then s.ce.table.divisor
          else if s.ce.table.width = .narrow then 1 else 2)
        clock := some ((sampleLevels s).getLsbD s.ce.table.clockChannel) } ∧
      t.sm.stamps = (s.time :: s.sm.stamps).take 17 ∧ LanesDecode (sampleLevels s) s t ∧
      ChangesOnly [.ce, .sm, .lanes, .ts, .segments, .notices] s t) ∧
  (∀ s : State, Quiet s → s.ce.engine = .preFill ∨ s.ce.engine = .armed ∨ s.ce.engine = .triggered →
    s.ce.heldForce = false ∨ s.ce.taken = 0 → s.ce.nextTick = s.time → s.ce.table.mode = .state →
    (∀ old, s.ce.clock = some old → qualifies s.ce.table.clockEdge old
      ((sampleLevels s).getLsbD s.ce.table.clockChannel) = false) →
    ∃ t, exec .sample s = .next t ∧ t = { s with ce := { s.ce with
      nextTick := s.time + BitVec.ofNat 48 (if s.ce.table.width = .narrow then 1 else 2)
      clock := some ((sampleLevels s).getLsbD s.ce.table.clockChannel) } }) ∧
  (∀ (s : State) (x : Sample) (o : OpenRecord) (n : Fin 32), Quiet s →
    s.ce.engine = .preFill ∨ s.ce.engine = .armed → s.ce.heldForce = true → s.ce.taken ≠ 0 →
    s.ce.nextTick = s.time → s.ce.table.mode = .state →
    (∀ old, s.ce.clock = some old → qualifies s.ce.table.clockEdge old
      ((sampleLevels s).getLsbD s.ce.table.clockChannel) = false) →
    s.ce.staging = [x] → s.ce.openRecord = some o → s.ce.segment = some n →
    elapsed x.stamp o.start ≤ 16777215 → o.triggerPoint = false → s.ce.episode = none →
    s.ce.queue.length < 510 → s.ce.post ≠ 0 →
    ∃ t, exec .sample s = .next t ∧ t.ce = { s.ce with
        nextTick := s.time + BitVec.ofNat 48 (if s.ce.table.width = .narrow then 1 else 2)
        clock := some ((sampleLevels { s with gen := t.gen }).getLsbD s.ce.table.clockChannel)
        engine := .triggered, staging := [], heldForce := false, handled := s.ce.handled + 1
        previous := some x.levels, endIndex := some (s.ce.handled + s.ce.post), lastValue := o.value
        queue := s.ce.queue ++ [{
          value := o.value, duration := elapsed x.stamp o.start, triggerPoint := false
          continuation := o.continuation, gap := false, loop := o.loop }]
        openRecord := some { value := x.levels, start := x.stamp, triggerPoint := true
                             continuation := false, loop := s.ce.table.loop } } ∧
      t.ts = { s.ts with run := .fired, triggerTime := some x.stamp, triggerCause := some .forced } ∧
      t.segments = s.segments.set n { s.segments[n] with
        triggerTime := some x.stamp, triggerCause := some .forced } ∧
      BurstsBegun s.gen t.gen ∧ raised (.triggered n x.stamp .forced) s t ∧
      ChangesOnly [.ce, .ts, .segments, .genOutputs, .loopCounter, .notices] s t) ∧
  (∀ (e : LaneEntry) (period : Nat) (x y : Sample) (ahead : List Sample) (l : Lane),
    l.window ++ [x] = y :: ahead →
    (ahead.length + 1 < max 1 e.deglitch → nextReleased e period x l = none) ∧
    (max 1 e.deglitch ≤ ahead.length + 1 → ∃ r, nextReleased e period x l = some r ∧ r.stamp = y.stamp ∧
      r.period = period ∧ r.previous = l.filtered ∧
      (e.deglitch ≤ 1 ∨ l.filtered = none → r.current = y.levels) ∧
      ∀ (f : Word) (k : Fin 32) (holds : Prop), 2 ≤ e.deglitch → l.filtered = some f →
        (holds ↔ ∀ z ∈ ahead.take (e.deglitch - 1), z.levels.getLsbD k = y.levels.getLsbD k) →
        (holds → r.current.getLsbD k = y.levels.getLsbD k) ∧
        (¬holds → r.current.getLsbD k = f.getLsbD k))) ∧
  ∀ (e : LaneEntry) (x : LaneSample) (d : Decoder) (w : Word), x.previous = some w →
    (∀ (p : AsyncParams) (t0 stop : Time) (cells all data : List Bool) (ones : Nat) (parity : Bool)
      (parityOk stopsOk : Prop), e.kind = .async p → d.async = .receiving t0 cells → cells ≠ [] →
      all = cells ++ [x.current.getLsbD p.data] →
      all.length = 1 + p.dataBits + (if p.parity = .none then 0 else 1) + p.stopBits →
      stop = t0 + BitVec.ofNat 48 ((2 * cells.length + 1) * p.bq / 512) → inPeriod x stop = true →
      data = (all.drop 1).take p.dataBits → parity = all.getD (1 + p.dataBits) false →
      ones = data.count true + flag parity →
      (parityOk ↔ (p.parity = .even → ones % 2 = 0) ∧ (p.parity = .odd → ones % 2 = 1) ∧
        (p.parity = .mark → parity = true) ∧ (p.parity = .space → parity = false)) →
      (stopsOk ↔ ∀ b ∈ all.drop (all.length - p.stopBits), b = p.idleHigh) →
      ((∀ b ∈ all, b ≠ p.idleHigh) → (kindStep e x d).symbols =
        [{ kind := .brk, value := 0, start := t0, stop := stop, tags := 0 }]) ∧
      ((∃ b ∈ all, b = p.idleHigh) → ∃ y, (kindStep e x d).symbols = [y] ∧ y.kind = .data ∧
        y.start = t0 ∧ y.stop = stop ∧ y.value < 2 ^ p.dataBits ∧
        (∀ i < p.dataBits, y.value.testBit (if p.msbFirst then p.dataBits - 1 - i else i) =
          data.getD i false) ∧
        (parityOk → stopsOk → y.tags = 0) ∧ (¬parityOk → stopsOk → y.tags = 1) ∧
        (parityOk → ¬stopsOk → y.tags = 2) ∧ (¬parityOk → ¬stopsOk → y.tags = 3))) ∧
    (∀ (p : ClockedParams) (a b : Word) (bitB : Bool) (first : Time), e.kind = .clocked p →
      d.frame.isOpen = true →
      (∀ k, p.select = some k → w.getLsbD k = p.selectHigh ∧ x.current.getLsbD k = p.selectHigh) →
      w.getLsbD p.clock = p.fallingEdge → x.current.getLsbD p.clock = !p.fallingEdge →
      bitB = (match p.dataB with
        | some k => x.current.getLsbD k
        | none => false) →
      (∀ i < 32, a.getLsbD i = if p.msbFirst then
          if i = 0 then x.current.getLsbD p.dataA else d.clocked.a.getLsbD (i - 1)
        else d.clocked.a.getLsbD i || i == d.clocked.bits && x.current.getLsbD p.dataA) →
      (∀ i < 32, b.getLsbD i = if p.msbFirst then
          if i = 0 then bitB else d.clocked.b.getLsbD (i - 1)
        else d.clocked.b.getLsbD i || i == d.clocked.bits && bitB) →
      first = (if d.clocked.bits = 0 then x.stamp else d.clocked.first) →
      (d.clocked.bits + 1 < p.wordSize → (kindStep e x d).symbols = [] ∧
        (kindStep e x d).decoder.clocked =
          { bits := d.clocked.bits + 1, a := a, b := b, first := first, last := x.stamp }) ∧
      (p.wordSize ≤ d.clocked.bits + 1 → (kindStep e x d).decoder.clocked.bits = 0 ∧
        (kindStep e x d).symbols =
          { kind := .data, value := a.toNat, start := first, stop := x.stamp, tags := 0 } ::
            (if p.dataB.isSome then
              [{ kind := .dataB, value := b.toNat, start := first, stop := x.stamp, tags := 0 }]
            else []))) ∧
    (∀ (p : TwoWireParams) (st : TwoWireState) (bit : Bool) (nack late : Byte), e.kind = .twoWire p →
      d.frame.isOpen = true → w.getLsbD p.clock = false → x.current.getLsbD p.clock = true →
      st = d.twoWire → bit = x.current.getLsbD p.data → nack = (if bit then 0x20 else 0) →
      late = (if st.timeout then 0x10 else 0) →
      (st.bits < 8 → (kindStep e x d).symbols = [] ∧
        (kindStep e x d).decoder.twoWire.bits = st.bits + 1 ∧
        (kindStep e x d).decoder.twoWire.value = 2 * st.value + flag bit) ∧
      (8 ≤ st.bits → (kindStep e x d).decoder.twoWire.bits = 0 ∧
        (st.expect = .data → (kindStep e x d).symbols = [{
          kind := .data, value := st.value, start := st.first, stop := x.stamp
          tags := nack ||| (if st.read then 0x80 else 0) ||| late }]) ∧
        (st.expect = .address → st.value / 8 ≠ 30 → (kindStep e x d).symbols = [{
          kind := .address, value := st.value / 2, start := st.first, stop := x.stamp
          tags := (if st.value % 2 = 1 then 0x80 else 0) ||| nack ||| late }]) ∧
        (st.expect = .address → st.value / 8 = 30 → (kindStep e x d).symbols = [] ∧
          (kindStep e x d).decoder.twoWire.expect = .second {
            start := st.first, upper := st.value / 2 % 4, read := decide (st.value % 2 = 1), nack := bit
            stop := x.stamp }) ∧
        (∀ k : KeptAddress, st.expect = .second k → (kindStep e x d).symbols = [{
          kind := .address, value := k.upper * 256 + st.value, start := k.start, stop := x.stamp
          tags := 0x40 ||| ((if k.read then 0x80 else 0) ||| (if k.nack || bit then 0x20 else 0)) |||
            late }]))) ∧
    (∀ (p : StrobedParams) (c : StrobeCycle) (late : Prop), e.kind = .strobed p → d.frame.isOpen = true →
      d.strobed.data = some c → w.getLsbD p.dataStrobe = false → x.current.getLsbD p.dataStrobe = true →
      (∀ k, p.addressStrobe = some k → w.getLsbD k = true ∨ x.current.getLsbD k = false) →
      (late ↔ ∃ k, p.wait = some k ∧ c.seen = false ∧
        (p.limit < c.samples + 1 ∨ x.current.getLsbD k = true)) →
      ∃ y, (kindStep e x d).symbols = [y] ∧ y.kind = .data ∧ y.start = c.start ∧ y.stop = x.stamp ∧
        y.value = x.current.toNat / 2 ^ p.base.val % 2 ^ p.width ∧
        (∀ i, y.tags.getLsbD i = true ↔
          i = 7 ∧ (∃ k, p.direction = some k ∧ x.current.getLsbD k = true) ∨ i = 4 ∧ late))

/-- A sample after the trigger extends in timing capture an open record of its own value; a different value,
and every sample of a state capture, closes the record at the sample's stamp, pushes it where the queue has
room, and opens a new one. Past 16,777,215 ticks the open record is first split into records of that duration,
each after the first a Continuation (R21 to R24). In PreFill and Armed a sample taken with a full staging line
has the oldest one handled so, and evaluated in Armed, here without a Fire; the first one handled starts the
segment; the one that completes F enters Armed, the TS Running at stage 0 (R20, R34, R80). The lanes decode
the sample, each through its filter, which counts the glitches it takes out (R90 to R92). The model's reading
is in assumption 49. -/
def Obligations.SampleExtendsOrClosesTheOpenRecord : Prop :=
  (∀ (s : State) (o : OpenRecord), Quiet s → s.ce.engine = .triggered → s.ce.heldForce = false →
    s.ce.nextTick = s.time → s.ce.table.mode = .timing → s.ce.openRecord = some o →
    elapsed s.time o.start ≤ 16777215 → s.ce.endIndex ≠ some s.ce.handled → s.ce.episode = none →
    s.ce.queue.length < (if o.triggerPoint then 512 else 510) →
    ∃ t, exec .sample s = .next t ∧
      t.ce.engine = .triggered ∧ t.ce.handled = s.ce.handled + 1 ∧ t.ce.episode = none ∧
      (o.value = sampleLevels s → t.ce.queue = s.ce.queue ∧ t.ce.openRecord = some o) ∧
      (o.value ≠ sampleLevels s →
        t.ce.queue = s.ce.queue ++ [{ value := o.value, duration := elapsed s.time o.start
                                      triggerPoint := o.triggerPoint, continuation := o.continuation
                                      gap := false, loop := o.loop }] ∧
        t.ce.openRecord = some { value := sampleLevels s, start := s.time, triggerPoint := false
                                 continuation := false, loop := s.ce.table.loop }) ∧
      LanesDecode (sampleLevels s) s t ∧
      ChangesOnly [.ce, .sm, .lanes, .ts, .segments, .notices] s t) ∧
  (∀ (s : State) (o : OpenRecord) (old : Bool), Quiet s → s.ce.engine = .triggered →
    s.ce.heldForce = false → s.ce.nextTick = s.time → s.ce.table.mode = .state → s.ce.clock = some old →
    qualifies s.ce.table.clockEdge old ((sampleLevels s).getLsbD s.ce.table.clockChannel) = true →
    s.ce.openRecord = some o → elapsed s.time o.start ≤ 16777215 → s.ce.endIndex ≠ some s.ce.handled →
    s.ce.episode = none → s.ce.queue.length < (if o.triggerPoint then 512 else 510) →
    ∃ t, exec .sample s = .next t ∧
      t.ce.engine = .triggered ∧ t.ce.handled = s.ce.handled + 1 ∧ t.ce.episode = none ∧
      t.ce.queue = s.ce.queue ++ [{ value := o.value, duration := elapsed s.time o.start
                                    triggerPoint := o.triggerPoint, continuation := o.continuation
                                    gap := false, loop := o.loop }] ∧
      t.ce.openRecord = some { value := sampleLevels s, start := s.time, triggerPoint := false
                               continuation := false, loop := s.ce.table.loop } ∧
      LanesDecode (sampleLevels s) s t ∧
      ChangesOnly [.ce, .sm, .lanes, .ts, .segments, .notices] s t) ∧
  (∀ (s : State) (o : OpenRecord) (n : Nat) (split : List Record), Quiet s → s.ce.engine = .triggered →
    s.ce.heldForce = false → s.ce.nextTick = s.time →
    (s.ce.table.mode = .timing ∨ ∃ old, s.ce.clock = some old ∧ qualifies s.ce.table.clockEdge old
      ((sampleLevels s).getLsbD s.ce.table.clockChannel) = true) →
    s.ce.openRecord = some o → 1 ≤ n → n * 16777215 < elapsed s.time o.start →
    elapsed s.time o.start ≤ (n + 1) * 16777215 → s.ce.endIndex ≠ some s.ce.handled →
    s.ce.episode = none → s.ce.queue.length + n + 1 ≤ 510 →
    split = (List.range n).map (fun i => ({
      value := o.value, duration := 16777215, triggerPoint := o.triggerPoint && i == 0
      continuation := o.continuation || i != 0, gap := false, loop := o.loop } : Record)) →
    ∃ t, exec .sample s = .next t ∧
      t.ce.engine = .triggered ∧ t.ce.handled = s.ce.handled + 1 ∧ t.ce.episode = none ∧
      (s.ce.table.mode = .timing → o.value = sampleLevels s → t.ce.queue = s.ce.queue ++ split ∧
        t.ce.openRecord = some { value := o.value, start := o.start + BitVec.ofNat 48 (n * 16777215)
                                 triggerPoint := false, continuation := true, loop := o.loop }) ∧
      (s.ce.table.mode = .state ∨ o.value ≠ sampleLevels s →
        t.ce.queue = s.ce.queue ++ split ++ [{
          value := o.value, duration := elapsed s.time o.start - n * 16777215, triggerPoint := false
          continuation := true, gap := false, loop := o.loop }] ∧
        t.ce.openRecord = some { value := sampleLevels s, start := s.time, triggerPoint := false
                                 continuation := false, loop := s.ce.table.loop }) ∧
      LanesDecode (sampleLevels s) s t ∧
      ChangesOnly [.ce, .sm, .lanes, .ts, .segments, .notices] s t) ∧
  ∀ (s : State) (m q : Sample) (rest : List Sample) (n : Fin 32), Quiet s →
    s.ce.engine = .preFill ∧ s.ts.run = .off ∨ s.ce.engine = .armed ∧ s.ts.run = .running ∧
      (evaluate s.ts (presentedAt s m q)).2 = none →
    s.ce.heldForce = false → s.ce.nextTick = s.time →
    (s.ce.table.mode = .timing ∨ ∃ old, s.ce.clock = some old ∧ qualifies s.ce.table.clockEdge old
      ((sampleLevels s).getLsbD s.ce.table.clockChannel) = true) →
    s.ce.segment = some n → s.ce.staging = m :: q :: rest → rest.length = 14 →
    (∀ o, s.ce.openRecord = some o → o.triggerPoint = false ∧ elapsed m.stamp o.start ≤ 16777215) →
    s.ce.episode = none → s.ce.queue.length < 510 →
    ∃ t, exec .sample s = .next t ∧
      t.ce.staging = q :: rest ++ [{ stamp := s.time, levels := sampleLevels s }] ∧
      t.ce.taken = s.ce.taken + 1 ∧ t.ce.handled = s.ce.handled + 1 ∧ t.ce.previous = some m.levels ∧
      t.ce.episode = none ∧
      (s.ce.openRecord = none → t.ce.queue = s.ce.queue ∧ t.segments[n].startTime = some m.stamp ∧
        t.ce.openRecord = some { value := m.levels, start := m.stamp, triggerPoint := false
                                 continuation := false, loop := s.ce.table.loop }) ∧
      (∀ o, s.ce.openRecord = some o → t.segments[n].startTime = s.segments[n].startTime ∧
        (s.ce.table.mode = .timing → o.value = m.levels →
          t.ce.queue = s.ce.queue ∧ t.ce.openRecord = some o) ∧
        (s.ce.table.mode = .state ∨ o.value ≠ m.levels →
          t.ce.queue = s.ce.queue ++ [{ value := o.value, duration := elapsed m.stamp o.start
                                        triggerPoint := false, continuation := o.continuation
                                        gap := false, loop := o.loop }] ∧
          t.ce.openRecord = some { value := m.levels, start := m.stamp, triggerPoint := false
                                   continuation := false, loop := s.ce.table.loop })) ∧
      (s.ce.engine = .armed → t.ce.engine = .armed ∧
        t.ts = { (evaluate s.ts (presentedAt s m q)).1 with waiting := t.ts.waiting }) ∧
      (s.ce.engine = .preFill → s.ce.handled + 1 < s.ce.preFill →
        t.ce.engine = .preFill ∧ t.ts = { s.ts with waiting := t.ts.waiting }) ∧
      (s.ce.engine = .preFill → s.ce.preFill ≤ s.ce.handled + 1 → t.ce.engine = .armed ∧
        t.ts = { s.ts with run := .running, stage := some 0, primary := 0, secondary := 0
                           waiting := t.ts.waiting }) ∧
      LanesDecode (sampleLevels s) s t ∧
      ChangesOnly [.ce, .sm, .lanes, .ts, .segments, .notices] s t

/-- A record that finds no normal slot is lost: it opens a loss episode that holds the value pushed last and
the lost ticks, or extends the open one; at 16,777,215 lost ticks the capture ends Stalled (R24, R25, R27). -/
def Obligations.LostRecordOpensOrExtendsAnEpisode : Prop :=
  ∀ (s : State) (o : OpenRecord), Quiet s → s.ce.engine = .triggered → s.ce.heldForce = false →
    s.ce.nextTick = s.time → s.ce.table.mode = .timing → s.ce.openRecord = some o →
    elapsed s.time o.start ≤ 16777215 → s.ce.endIndex ≠ some s.ce.handled → o.triggerPoint = false →
    o.value ≠ sampleLevels s → s.ce.episode.isSome ∨ 510 ≤ s.ce.queue.length →
    ∃ t, exec .sample s = .next t ∧
      (∀ e : Episode, e = (match s.ce.episode with
          | some e => { e with lost := e.lost + elapsed s.time o.start }
          | none => { value := s.ce.lastValue, lost := elapsed s.time o.start, start := o.start }) →
        (e.lost < 16777215 → t.ce.engine = .triggered ∧ t.ce.episode = some e ∧
          t.ce.queue = s.ce.queue ∧ t.ce.handled = s.ce.handled + 1) ∧
        (16777215 ≤ e.lost → t.ce.engine = .closing ∧ t.ce.reason = some .stalled ∧
          t.ce.endTime = some (e.start + 16777215#48) ∧ t.ce.openRecord = none ∧ t.ce.staging = [] ∧
          t.ce.queue ++ t.ce.toPush = s.ce.queue ++ [{
            value := e.value, duration := 16777215, triggerPoint := false, continuation := false
            gap := true, loop := s.ce.table.loop }])) ∧
      ChangesOnly [.ce, .sm, .lanes, .ts, .segments, .notices] s t

/-- Sample m + P makes the end cut: it is not handled, the open record closes at its stamp and is queued, and
the engine enters Closing with reason PostComplete (R38, R40; for a record within the largest duration that
began before the cut, with no episode open). That the lanes are Idle from then on is assumption 68. -/
def Obligations.EndCutEntersClosing : Prop :=
  ∀ (s : State) (o : OpenRecord), Quiet s → s.ce.engine = .triggered → s.ce.heldForce = false →
    s.ce.nextTick = s.time → s.ce.table.mode = .timing → s.ce.openRecord = some o →
    1 ≤ elapsed s.time o.start → elapsed s.time o.start ≤ 16777215 →
    s.ce.endIndex = some s.ce.handled → s.ce.episode = none →
    ∃ t, exec .sample s = .next t ∧ t.ce.engine = .closing ∧ t.ce.reason = some .postComplete ∧
      t.ce.endTime = some s.time ∧ t.ce.handled = s.ce.handled ∧ t.ce.openRecord = none ∧
      t.ce.queue ++ t.ce.toPush = s.ce.queue ++ [{
        value := o.value, duration := elapsed s.time o.start, triggerPoint := o.triggerPoint
        continuation := o.continuation, gap := false, loop := o.loop }] ∧
      (∀ l : Fin 4, t.lanes[l].mode = .idle) ∧
      ChangesOnly [.ce, .sm, .lanes, .ts, .segments, .notices] s t

/-! ### The Trigger Sequencer -/

/-- A Field term is true exactly when a presented Field symbol of its field has a value that meets its sense,
Inside or Outside, compared as unsigned numbers; Negate inverts it (R69). The other kinds: a Never term is
false, a Pattern term compares the levels under its mask, an Edge term needs a change in its direction from
the sample before, a Symbol term a presented symbol of its lane, kinds, value and tags, and a CounterExpired
term its counter's expiry (R66, R67, R68, R70). A Field symbol joins the sources of its span, the first most
significant, takes its bits, inverted where the entry says so, and the sources' Parity, Framing, Short and
Timeout tags (R120; its duration where its last source does not end before its first starts). -/
def Obligations.FieldTermTestsTheFieldSymbols : Prop :=
  (∀ (x : Presented) (expired : Vector Bool 2) (f : Fin 32) (sense : Sense) (low high : Word)
    (negate : Bool),
    termTrue x expired { negate := negate, kind := .field f sense low high } = true ↔
      ((∃ y ∈ x.symbols, y.kind = .field ∧ y.position = f.val ∧
        (sense = .inside ∧ low.toNat ≤ y.value.toNat ∧ y.value.toNat ≤ high.toNat ∨
          sense = .outside ∧ (y.value.toNat < low.toNat ∨ high.toNat < y.value.toNat))) ↔
        negate = false)) ∧
  (∀ (x : Presented) (expired : Vector Bool 2) (negate : Bool),
    (termTrue x expired { negate := negate, kind := .never } = true ↔ negate = true) ∧
    (∀ mask value : Word, termTrue x expired { negate := negate, kind := .pattern mask value } = true ↔
      ((∀ k : Fin 32, mask.getLsbD k = true → x.levels.getLsbD k = value.getLsbD k) ↔ negate = false)) ∧
    (∀ (k : Fin 32) (p : Polarity),
      termTrue x expired { negate := negate, kind := .edge k p } = true ↔
        ((∃ w, x.previous = some w ∧ w.getLsbD k ≠ x.levels.getLsbD k ∧
          (p = .rising → x.levels.getLsbD k = true) ∧ (p = .falling → x.levels.getLsbD k = false)) ↔
          negate = false)) ∧
    (∀ (l : Fin 4) (kinds required forbidden : Byte) (mask value : Word),
      termTrue x expired { negate := negate, kind := .symbol l kinds required forbidden mask value } =
          true ↔
        ((∃ y ∈ x.symbols, y.lane = l ∧
          (∃ i, [SymbolKind.start, .restart, .stop, .address, .data, .dataB, .brk, .field][i]? =
            some y.kind ∧ kinds.getLsbD i = true) ∧
          (∀ k : Fin 32, mask.getLsbD k = true → y.value.getLsbD k = value.getLsbD k) ∧
          ∀ i : Fin 8, (required.getLsbD i = true → y.tags.getLsbD i = true) ∧
            (forbidden.getLsbD i = true → y.tags.getLsbD i = false)) ↔ negate = false)) ∧
    ∀ c : Fin 2, termTrue x expired { negate := negate, kind := .counterExpired c } = true ↔
      (expired[c] = true ↔ negate = false)) ∧
  ∀ (s : State) (l : Fin 4) (number : Fin 32) (q : FieldEntry) (width : Nat) (es : List FxSource)
    (a b : FxSource), q = s.fieldMap[number] → q.enable = true → q.lane = l → q.width ≤ 32 →
    width = wordWidth s.laneTable[l].kind → es.length = q.span → es.head? = some a →
    es.getLast? = some b → (∀ i < q.span, sourceAt s.lanes[l].fx (q.first + i) = es[i]?) →
    ∃ y, formField s l (q.first + q.span - 1) number = some y ∧ y.lane = l ∧ y.kind = .field ∧
      y.position = number.val ∧ y.start = a.start ∧
      (0 ≤ timeDiff b.stop a.start → y.duration = min (timeDiff b.stop a.start).toNat 16777215) ∧
      (∀ i, y.value.getLsbD i = true ↔ i < q.width ∧
        (q.invert = true ↔ ¬(q.startBit + i < width * q.span ∧
          ((es.map (·.value)).reverse.getD ((q.startBit + i) / width) 0).getLsbD
            ((q.startBit + i) % width) = true))) ∧
      (∀ i, y.tags.getLsbD i = true ↔ i ∈ [0, 1, 2, 4] ∧ ∃ e ∈ es, e.tags.getLsbD i = true)

/-- In an evaluated sample both branches of the stage count: a branch whose condition holds, all its terms or,
with OR, one of them, and never an empty list, counts 1, and another keeps its count or, Consecutive, starts
anew. At most one is taken, the Primary before the Secondary: it starts or stops the counters, adds a history
entry, and enters its target, stays, or fires (R72, R73, R74, R76, R83). -/
def Obligations.PrimaryBranchIsTakenBeforeSecondary : Prop :=
  ∀ (ts : Ts) (n : Fin 8) (truth : Fin 16 → Bool) (stamp : Time) (p q : Nat) (holds : Branch → Prop),
    (∀ b, holds b ↔ b.terms ≠ [] ∧ (b.any = true → ∃ j ∈ b.terms, truth j = true) ∧
      (b.any = false → ∀ j ∈ b.terms, truth j = true)) →
    (holds ts.stages[n].primary → p = ts.primary + 1) →
    (¬holds ts.stages[n].primary → p = if ts.stages[n].primary.consecutive then 0 else ts.primary) →
    (holds ts.stages[n].secondary → q = ts.secondary + 1) →
    (¬holds ts.stages[n].secondary → q = if ts.stages[n].secondary.consecutive then 0 else ts.secondary) →
    (p < ts.stages[n].primary.count → q < ts.stages[n].secondary.count →
      stepBranches ts n truth stamp = ({ ts with primary := p, secondary := q }, none)) ∧
    ∀ (second : Bool) (b : Branch),
      (second = false ∧ b = ts.stages[n].primary ∧ b.count ≤ p) ∨
        (second = true ∧ b = ts.stages[n].secondary ∧ p < ts.stages[n].primary.count ∧ b.count ≤ q) →
      ∃ u fired, stepBranches ts n truth stamp = (u, fired) ∧
        u.history = (if ts.history.length < 16 then ts.history else ts.history.drop 1) ++
          [{ stage := n, secondary := second, target := b.target, time := stamp }] ∧
        (∀ (c : Fin 2) (a : CounterAction), a = (if c = 0 then b.action0 else b.action1) →
          (a = .none → u.counters[c] = ts.counters[c]) ∧
          (a = .start → u.counters[c] = { ts.counters[c] with
            running := true, value := ts.counterTable[c].preload }) ∧
          (a = .stop → u.counters[c] = { ts.counters[c] with running := false })) ∧
        match b.target with
        | .stage k => fired = none ∧ u.stage = some k ∧ u.primary = 0 ∧ u.secondary = 0 ∧ u.run = ts.run
        | .stay => fired = none ∧ u.stage = ts.stage ∧ u.primary = 0 ∧ u.secondary = 0 ∧ u.run = ts.run
        | .fire => fired = some n ∧ u.run = .fired ∧ u.stage = ts.stage ∧ u.primary = p ∧
            u.secondary = q ∧ u.triggerTime = some stamp ∧ u.triggerCause = some (.stage n)

/-- A sample taken with a full staging line while the TS runs has the oldest staged sample evaluated; where a
stage fires, the segment takes the trigger time and cause, the TS is Fired, the outputs in BurstOnTrigger
begin a burst at level 1, and Triggered is raised (R14, R17, R20, R35, R63, R74, R82; for a cut record that
finds a normal slot). -/
def Obligations.FireSetsTheTriggerOfTheSegment : Prop :=
  ∀ (s : State) (m q : Sample) (rest : List Sample) (n : Fin 8) (k : Fin 32) (o : OpenRecord),
    Quiet s → s.ce.engine = .armed → s.ce.heldForce = false → s.ce.nextTick = s.time →
    s.ce.table.mode = .timing → s.ts.run = .running → s.ce.segment = some k →
    s.ce.staging = m :: q :: rest → rest.length = 14 →
    (evaluate s.ts (presentedAt s m q)).2 = some n →
    s.ce.openRecord = some o → elapsed m.stamp o.start ≤ 16777215 → o.triggerPoint = false →
    s.ce.episode = none → s.ce.queue.length < 510 →
    ∃ t, exec .sample s = .next t ∧
      t.segments[k].triggerTime = some m.stamp ∧ t.segments[k].triggerCause = some (.stage n) ∧
      t.ts.run = .fired ∧ t.ts.triggerTime = some m.stamp ∧ t.ts.triggerCause = some (.stage n) ∧
      BurstsBegun s.gen t.gen ∧
      t.lp.notices[1] = (raiseNotice (.triggered k m.stamp (.stage n)) s).lp.notices[1] ∧
      (∀ j : Fin 32, j ≠ k → t.segments[j] = s.segments[j]) ∧
      ChangesOnly [.ce, .sm, .lanes, .ts, .segments, .notices, .genOutputs, .loopCounter] s t

/-- A counter that would reach or pass zero in the evaluation that is due expires: with AutoReload its value
becomes the preload and it runs on, else it stops at 0; the other counter is as it was (R78). In a sample a
Running counter goes down by its source's events: 1, the ticks of the sample's period at which the prescaler
is a multiple of 2^p, the truth of a term, or an edge (R8, R70, R77). The model's readings are in assumptions
12, 49 and, for a pause of the state clock, 66. -/
def Obligations.CounterExpiryStopsOrReloads : Prop :=
  (∀ (i : Fin 2) (s : State) (x : Presented), sampleDue s = true → (sampleNow (settle s)).isSome →
    dueEvaluation s = some x → s.ts.counters[i].running = true → s.ts.counters[i].expiredEarly = false →
    1 ≤ sourceEvents s.ts x s.ts.counterTable[i].source →
    s.ts.counters[i].value ≤ sourceEvents s.ts x s.ts.counterTable[i].source →
    ∃ t, exec (.counterExpiry i) s = .next t ∧
      t.ts.counters[i].running = s.ts.counterTable[i].autoReload ∧
      t.ts.counters[i].value =
        (if s.ts.counterTable[i].autoReload then s.ts.counterTable[i].preload else 0) ∧
      (∀ j : Fin 2, j ≠ i → t.ts.counters[j] = s.ts.counters[j]) ∧
      t.ts.run = s.ts.run ∧ t.ts.stage = s.ts.stage ∧ t.ts.history = s.ts.history ∧
      ChangesOnly [.ts] s t) ∧
  ∀ (ts : Ts) (x : Presented),
    sourceEvents ts x .samples = 1 ∧
    (∀ p : Fin 16, (x.atClear = true → x.stamp = x.cleared ∧ x.next ≠ x.stamp) →
      sourceEvents ts x (.ticks p) = ((List.range (elapsed x.next x.stamp)).filter fun i =>
        (elapsed x.stamp x.cleared + i) % 2 ^ p.val == 0 && !(x.atClear && i == 0)).length) ∧
    (∀ j : Fin 16, sourceEvents ts x (.termTrue j) =
      if termTrue x ts.lastExpiry ts.terms[j] then 1 else 0) ∧
    (∀ (k : Fin 32) (p : Polarity) (seen : Prop),
      (seen ↔ ∃ w, x.previous = some w ∧ w.getLsbD k ≠ x.levels.getLsbD k ∧
        (p = .rising → x.levels.getLsbD k = true) ∧ (p = .falling → x.levels.getLsbD k = false)) →
      (seen → sourceEvents ts x (.edge k p) = 1) ∧ (¬seen → sourceEvents ts x (.edge k p) = 0)) ∧
    ∀ (i : Fin 2) (events : Nat), events = sourceEvents ts x ts.counterTable[i].source →
      ts.counters[i].expiredEarly = false →
      (ts.counters[i].running = false ∨ events = 0 → countOf ts x i = (ts.counters[i], false)) ∧
      (ts.counters[i].running = true → events < ts.counters[i].value →
        countOf ts x i = ({ ts.counters[i] with value := ts.counters[i].value - events }, false)) ∧
      (ts.counters[i].running = true → 1 ≤ events → ts.counters[i].value ≤ events →
        countOf ts x i = (if ts.counterTable[i].autoReload then
            { ts.counters[i] with value := ts.counterTable[i].preload }
          else { ts.counters[i] with running := false, value := 0 }, true))

/-! ### The Decode Lanes -/

/-- A lane whose next sample lies at or past its frame's gap deadline emits a Stop that starts where R93, or
R109 for a cycle that outlasted it, puts it, and the frame closes. The Stop enters the FIFO; of a full one,
with 32 symbols, it is discarded: the lane's Lost counter and the lost count of the segment being filled go
up, the next symbol will carry Lost, and the first loss raises LaneLost (R92, R93, R109, R110, R116; for a
Clocked lane without a word in progress). The deadline is G periods after the latest event: bit periods for
Async, the ticks between the two latest edges or releases, at least one sample period, for Clocked and
Strobed; a character's end, a taken edge and a release are such events (R93). The model's readings are in
assumptions 12 and 52. -/
def Obligations.GapDeadlineEmitsAStop : Prop :=
  (∀ (l : Fin 4) (s : State) (x : LaneSample) (deadline : Time), Quiet s →
    dueLaneSample l s = some x → gapStopTime s.laneTable[l] x s.lanes[l].decoder = some deadline →
    (∀ p, s.laneTable[l].kind = .clocked p → s.lanes[l].decoder.clocked.bits = 0) →
    ∃ t, exec (.gapDeadline l) s = .next t ∧
      t.lanes[l].decoder.frame.isOpen = false ∧ t.lanes[l].fx = [] ∧
      (s.lanes[l].fifo.length < 32 → t.lanes[l].pendingLost = false ∧
        (∃ y ∈ t.lanes[l].fifo, y.lane = l ∧ y.kind = .stop ∧ y.start = deadline ∧ y.duration = 0 ∧
          y.value = 0 ∧ y.position = s.lanes[l].wordCount ∧
          y.tags = if s.lanes[l].pendingLost then 0x08 else 0) ∧
        t.lanes[l].fifo.length = s.lanes[l].fifo.length + 1 ∧
        t.lanes[l].counters.lost = s.lanes[l].counters.lost ∧ ChangesOnly [.lanes, .ts] s t) ∧
      (32 ≤ s.lanes[l].fifo.length → t.lanes[l].pendingLost = true ∧ t.lanes[l].fifo = s.lanes[l].fifo ∧
        t.lanes[l].counters.lost = min (s.lanes[l].counters.lost + 1) 4294967295 ∧
        (s.lanes[l].counters.lost = 0 → raised (.laneLost l) s t) ∧
        (s.lanes[l].counters.lost ≠ 0 → t.lp = s.lp) ∧
        (∀ n, s.ce.segment = some n → t.segments = s.segments.set n { s.segments[n] with
          symbolLost := min (s.segments[n].symbolLost + 1) 4294967295 }) ∧
        (s.ce.segment = none → t.segments = s.segments)) ∧
      t.lanes[l].counters.emitted = min (s.lanes[l].counters.emitted + 1) 4294967295 ∧
      (∀ j : Fin 4, j ≠ l → t.lanes[j] = s.lanes[j]) ∧
      ChangesOnly [.lanes, .ts, .segments, .notices] s t) ∧
  ∀ (e : LaneEntry) (x : LaneSample) (d : Decoder),
    (d.frame.isOpen = false → gapStopTime e x d = none) ∧
    (∀ p, e.kind = .twoWire p → gapStopTime e x d = none) ∧
    (∀ p, e.kind = .clocked p → p.select.isSome → gapStopTime e x d = none) ∧
    (∀ p, e.kind = .async p → d.async ≠ .hunting → gapStopTime e x d = none) ∧
    (∀ (p : StrobedParams) (low : Prop), e.kind = .strobed p →
      (low ↔ ∃ w, x.previous = some w ∧ (w.getLsbD p.dataStrobe = false ∨
        ∃ k, p.addressStrobe = some k ∧ w.getLsbD k = false)) →
      (low → gapStopTime e x d = none) ∧
      (¬low → d.frame.isOpen = true → d.frame.passed = true → gapStopTime e x d = some x.stamp)) ∧
    (∀ (latest : Time) (ticks : Nat), d.frame.isOpen = true → d.frame.latest = some latest →
      (∃ p, e.kind = .async p ∧ d.async = .hunting ∧ ticks = e.gap * p.bq / 256) ∨
        (∃ p, e.kind = .clocked p ∧ p.select = none ∧
          ticks = e.gap * max x.period (d.frame.interval.getD 0)) ∨
        (∃ p, e.kind = .strobed p ∧ d.frame.passed = false ∧
          (∀ w, x.previous = some w → w.getLsbD p.dataStrobe = true ∧
            ∀ k, p.addressStrobe = some k → w.getLsbD k = true) ∧
          ticks = e.gap * max x.period (d.frame.interval.getD 0)) →
      (timeDiff (latest + BitVec.ofNat 48 ticks) (x.stamp + BitVec.ofNat 48 x.period) < 0 →
        gapStopTime e x d = some (latest + BitVec.ofNat 48 ticks)) ∧
      (0 ≤ timeDiff (latest + BitVec.ofNat 48 ticks) (x.stamp + BitVec.ofNat 48 x.period) →
        gapStopTime e x d = none)) ∧
    ∀ w, x.previous = some w → d.frame.isOpen = true →
      (∀ p, e.kind = .clocked p → p.select = none → w.getLsbD p.clock = p.fallingEdge →
        x.current.getLsbD p.clock = !p.fallingEdge → (kindStep e x d).decoder.frame = { d.frame with
          latest := some x.stamp, interval := d.frame.latest.map fun t => (timeDiff x.stamp t).toNat }) ∧
      (∀ p, e.kind = .strobed p → w.getLsbD p.dataStrobe = false → x.current.getLsbD p.dataStrobe = true →
        (∀ k, p.addressStrobe = some k → w.getLsbD k = true ∨ x.current.getLsbD k = false) →
        (kindStep e x d).decoder.frame.latest = some x.stamp ∧
        (kindStep e x d).decoder.frame.interval = d.frame.latest.map fun t => (timeDiff x.stamp t).toNat) ∧
      ∀ (p : AsyncParams) (t0 stop : Time) (cells : List Bool), e.kind = .async p →
        d.async = .receiving t0 cells → cells ≠ [] →
        cells.length + 1 = 1 + p.dataBits + (if p.parity = .none then 0 else 1) + p.stopBits →
        stop = t0 + BitVec.ofNat 48 ((2 * cells.length + 1) * p.bq / 512) → inPeriod x stop = true →
        (kindStep e x d).decoder.frame.latest = some stop

/-- A TwoWire lane whose next sample finds the clock low in more samples than the stretch limit marks a
timeout for the interval (R106). The model's reading is in assumption 12. -/
def Obligations.StretchTimeoutMarksTheInterval : Prop :=
  ∀ (l : Fin 4) (s : State) (x : LaneSample) (p : TwoWireParams), Quiet s →
    dueLaneSample l s = some x → s.laneTable[l].kind = .twoWire p →
    s.lanes[l].decoder.frame.isOpen = true → x.current.getLsbD p.clock = false →
    p.stretch < s.lanes[l].decoder.twoWire.low + 1 → s.lanes[l].decoder.twoWire.marked = false →
    ∃ t, exec (.stretchTimeout l) s = .next t ∧
      t.lanes[l] = { s.lanes[l] with decoder := { s.lanes[l].decoder with
        twoWire := { s.lanes[l].decoder.twoWire with marked := true, timeout := true } } } ∧
      (∀ j : Fin 4, j ≠ l → t.lanes[j] = s.lanes[j]) ∧
      ChangesOnly [.lanes] s t

/-! ### The ring, the symbol span and the close of a segment -/

/-- A grant to the write queue, in a ring whose next position does not hold the trigger record: the head of
the queue is stored at the position after the newest, every other byte of the DRAM reads as before, and the
status record counts the record, or, in a full ring, gives up its oldest one; its end time is the end of the
written record, and its gap count that of the gap records the ring holds. An episode that is open while a
capture runs gets its gap record into the freed slot; in Closing the records that wait move up, in order,
while there is room (R26, R28, R37, R40, R52). A drain that would overwrite the trigger record writes nothing:
the queue is discarded and the engine is in Closing with reason MemoryLimit and the end of the newest written
record as its end time (R29); that the lanes are Idle from then on is assumption 68. -/
def Obligations.DrainWritesTheHeadOrEndsMemoryLimit : Prop :=
  (∀ (s : State) (n : Fin 32) (r : Record) (rest : List Record) (position address : Nat) (g : SegmentStatus),
    nextGrant s = some .drain → s.ce.segment = some n → s.ce.queue = r :: rest → g = s.segments[n] →
    position = (match g.newest with
      | some p => (p + 1) % (s.plan[n].captureCount * 8192)
      | none => 0) →
    address = s.plan[n].captureFirst * 65536 + position * 8 →
    g.triggerPosition ≠ some position → address + 8 ≤ totalBlocks s.mp.size * 65536 →
    memWf s.dram = true →
    ∃ t, exec .writeQueueDrain s = .next t ∧
      stores address (recordBytes r) s t ∧
      t.segments[n].newest = some position ∧
      (∀ e, g.endTime = some e → t.segments[n].endTime = some (e + BitVec.ofNat 48 r.duration)) ∧
      (r.triggerPoint = true → t.segments[n].triggerPosition = some position) ∧
      (r.triggerPoint = false → t.segments[n].triggerPosition = g.triggerPosition) ∧
      (g.recordCount < s.plan[n].captureCount * 8192 →
        t.segments[n].recordCount = g.recordCount + 1 ∧ t.segments[n].startTime = g.startTime ∧
        t.segments[n].oldest = some (g.oldest.getD position) ∧
        t.segments[n].endTime =
          some (g.endTime.getD (g.startTime.getD 0) + BitVec.ofNat 48 r.duration) ∧
        t.segments[n].gapCount = g.gapCount + flag r.gap) ∧
      (s.plan[n].captureCount * 8192 ≤ g.recordCount →
        t.segments[n].recordCount = g.recordCount ∧
        t.segments[n].oldest = some ((position + 1) % (s.plan[n].captureCount * 8192)) ∧
        t.segments[n].gapCount =
          g.gapCount - flag (recordOf (memReadBytes s.dram address 8)).gap + flag r.gap ∧
        t.segments[n].startTime = g.startTime.map fun x =>
          x + BitVec.ofNat 48 (recordOf (memReadBytes s.dram address 8)).duration) ∧
      (s.ce.engine = .closing → t.ce.episode = s.ce.episode ∧
        t.ce.queue ++ t.ce.toPush = rest ++ s.ce.toPush ∧ rest.length ≤ t.ce.queue.length ∧
        (t.ce.toPush ≠ [] → 510 ≤ t.ce.queue.length) ∧
        (rest.length ≤ 510 → (∀ q ∈ s.ce.toPush, q.triggerPoint = false) → t.ce.queue.length ≤ 510)) ∧
      (s.ce.engine ≠ .closing → t.ce.toPush = s.ce.toPush) ∧
      (∀ e, s.ce.engine ≠ .closing → s.ce.episode = some e → rest.length < 510 → t.ce.episode = none ∧
        t.ce.queue = rest ++ [{ value := e.value, duration := e.lost, triggerPoint := false
                                continuation := false, gap := true, loop := s.ce.table.loop }]) ∧
      (s.ce.engine ≠ .closing → s.ce.episode = none ∨ 510 ≤ rest.length →
        t.ce.queue = rest ∧ t.ce.episode = s.ce.episode) ∧
      (∀ j : Fin 32, j ≠ n → t.segments[j] = s.segments[j]) ∧
      ChangesOnly [.ce, .segments, .dram, .re] s t) ∧
  (∀ (s : State) (n : Fin 32) (r : Record) (rest : List Record) (position : Nat),
    nextGrant s = some .drain → s.ce.segment = some n → s.ce.queue = r :: rest →
    position = (match s.segments[n].newest with
      | some p => (p + 1) % (s.plan[n].captureCount * 8192)
      | none => 0) →
    s.segments[n].triggerPosition = some position →
    ∃ t, exec .writeQueueDrain s = .next t ∧ t.ce.queue = [] ∧ t.ce.toPush = [] ∧
      t.ce.engine = .closing ∧ t.ce.reason = some .memoryLimit ∧ t.ce.openRecord = none ∧
      t.ce.episode = none ∧ t.ce.staging = [] ∧
      (∀ e, s.segments[n].endTime = some e → t.ce.endTime = some e) ∧
      (∀ l : Fin 4, t.lanes[l].mode = .idle) ∧
      ChangesOnly [.ce, .ts, .lanes, .segments, .notices] s t)

/-- A grant to the Symbol Merger takes the eligible head that goes next from its FIFO: with room in the span,
or before the trigger cut of a capture over the oldest symbol of a full one, it is stored at the position
after the newest and every other byte of the DRAM reads as before; otherwise it is counted lost, and in a
capture the status becomes Truncated (R122, R123, R128). A head is eligible in Closing, after a whole replay,
or when it ends at or before the merge horizon and every hold-back; of the eligible heads the earliest end
goes next, and of equal ends the lowest lane, where the ends lie within half the range of times (R7, R121,
R122). The model's reading is in assumption 44. -/
def Obligations.SymbolWriteStoresOrCountsLost : Prop :=
  (∀ (s : State) (n : Fin 32) (l : Fin 4) (y : Symbol) (zs : List Symbol) (capacity position address : Nat)
    (g : SegmentStatus),
    nextGrant s = some .mergeWrite ∨ nextGrant s = some .redecodeWrite →
    mergeSegment s = some n → nextSymbol s = some (l, y) → s.lanes[l].fifo = y :: zs → g = s.segments[n] →
    capacity = s.plan[n].symbolCount * 4096 →
    position = (match g.symbolFirst with
      | some f => (f + g.symbolCount) % capacity
      | none => 0) →
    address = s.plan[n].symbolFirst * 65536 + position * 16 →
    address + 16 ≤ totalBlocks s.mp.size * 65536 → memWf s.dram = true →
    ∃ t, exec .symbolWrite s = .next t ∧ t.lanes[l].fifo = zs ∧
      (g.symbolCount < capacity → stores address (symbolBytes y) s t ∧
        t.segments[n].symbolCount = g.symbolCount + 1 ∧
        t.segments[n].symbolFirst = some (g.symbolFirst.getD position) ∧
        t.segments[n].symbolLost = g.symbolLost) ∧
      (0 < capacity → capacity ≤ g.symbolCount → s.redecode = none → g.triggerTime = none →
        stores address (symbolBytes y) s t ∧ t.segments[n].symbolCount = g.symbolCount ∧
        t.segments[n].symbolFirst = some ((position + 1) % capacity) ∧
        t.segments[n].symbolLost = g.symbolLost) ∧
      (capacity ≤ g.symbolCount → capacity = 0 ∨ s.redecode.isSome ∨ g.triggerTime.isSome →
        t.dram = s.dram ∧ t.segments[n].symbolCount = g.symbolCount ∧
        t.segments[n].symbolFirst = g.symbolFirst ∧
        t.segments[n].symbolLost = min (g.symbolLost + 1) 4294967295 ∧
        (s.redecode = none → t.segments[n].symbolStatus = some .truncated) ∧
        (∀ q, s.redecode = some q → t.redecode = some { q with refused := true } ∧
          t.segments[n].symbolStatus = g.symbolStatus)) ∧
      (∀ j : Fin 32, j ≠ n → t.segments[j] = s.segments[j]) ∧
      ChangesOnly [.lanes, .segments, .redecode, .dram, .re] s t) ∧
  ∀ (s : State) (base : Time),
    (∀ l y, EligibleHead s l y → 0 ≤ timeDiff (symbolEnd y) base) →
    (nextSymbol s = none ↔ ∀ l y, ¬EligibleHead s l y) ∧
    ∀ l y, nextSymbol s = some (l, y) ↔ EligibleHead s l y ∧ ∀ k z, k ≠ l → EligibleHead s k z →
      timeDiff (symbolEnd y) (symbolEnd z) < 0 ∨ symbolEnd y = symbolEnd z ∧ l < k

/-- A trim step at the close of a segment, or, at the redecode's priority, of a redecoded one. Once queue and
FIFOs are drained it is due exactly while the oldest symbol ends before the segment's start or the newest ends
after its end. Granted, it completes: the oldest goes while it ends before the start, and otherwise the
newest, which then ends after the end; the DRAM is not written. Where no trim step is granted the command
changes nothing (R40, R59, R122, R124, R128). That a trim which finds nothing to remove asks for no grant, so
that a step is due exactly then, is the model's reading, assumption 22; that the command without a grant
changes nothing is its convention, assumption 3. -/
def Obligations.TrimStepRemovesOneSymbol : Prop :=
  (∀ (s : State) (n : Fin 32) (start stop oldest newest : Time) (first capacity : Nat) (g : SegmentStatus)
    (symbol : Nat → Symbol),
    (s.redecode = none ∧ s.ce.segment = some n ∧ s.ce.engine = .closing ∧ s.ce.queue = [] ∧
        s.ce.toPush = [] ∧ s.ce.endTime = some stop) ∨
      ((∃ r, s.redecode = some r ∧ r.segment = n ∧ r.left = 0) ∧ s.segments[n].endTime = some stop) →
    (∀ l : Fin 4, s.lanes[l].fifo = []) → g = s.segments[n] →
    g.startTime = some start → g.symbolFirst = some first → 1 ≤ g.symbolCount →
    capacity = s.plan[n].symbolCount * 4096 →
    (∀ p, symbol p =
      symbolOf (memReadBytes s.dram (s.plan[n].symbolFirst * 65536 + p * 16) 16)) →
    oldest = (symbol first).start + BitVec.ofNat 48 (symbol first).duration →
    newest = (symbol ((first + g.symbolCount - 1) % capacity)).start +
      BitVec.ofNat 48 (symbol ((first + g.symbolCount - 1) % capacity)).duration →
    (trimDue s = true ↔ timeDiff oldest start < 0 ∨ timeDiff stop newest < 0) ∧
    (nextGrant s = some .mergeTrim ∨ nextGrant s = some .redecodeTrim →
      (0 ≤ timeDiff oldest start → timeDiff stop newest < 0) ∧
      ∃ t, exec .symbolTrim s = .next t ∧
        t.segments = s.segments.set n { g with
          symbolCount := g.symbolCount - 1
          symbolFirst :=
            if g.symbolCount = 1 then none
            else if timeDiff oldest start < 0 then some ((first + 1) % capacity)
            else some first } ∧
        ChangesOnly [.segments] s t)) ∧
  ∀ s : State, nextGrant s ≠ some .mergeTrim → nextGrant s ≠ some .redecodeTrim →
    exec .symbolTrim s = .next s

/-- What the close of a segment leaves, once queue and FIFOs are drained and no trim step is left: the status
record is Closed with its end reason and end time and CaptureClosed is raised. After a single capture the
engine is Idle and the merge horizon absent; a sequence ends Complete at its count, Stopped after a STOP, and
NoSegment without a candidate, each with SequenceEnded, and otherwise goes on in the next segment, the first
candidate above the closed one, or, with none above, the first from the retain floor on: it enters PreFill, or
Armed with F = 0, with sampler, sequencer and lanes afresh, and no notice but CaptureClosed is raised (R33,
R34, R40, R41, R80, R90, R111, R124). The model's readings are in assumptions 17 and, for
a trim that needs no grant to end, 22. -/
def Obligations.CloseCompletesTheSegment : Prop :=
  ∀ (s : State) (n : Fin 32) (reason : EndReason) (closed : State),
    s.ce.engine = .closing → s.ce.queue = [] → s.ce.toPush = [] → (∀ l : Fin 4, s.lanes[l].fifo = []) →
    trimDue s = false → s.ce.segment = some n → s.ce.reason = some reason →
    closed = raiseNotice (.captureClosed n reason s.segments[n].recordCount)
      { s with segments := s.segments.set n { s.segments[n] with
          state := .closed, endTime := s.ce.endTime, endReason := some reason } } →
    ∃ t, exec .closeComplete s = .next t ∧
      (s.ce.sequence ≤ 1 →
        t = { closed with ce := { idleCe with table := s.ce.table }, sm := { stamps := [] } }) ∧
      (2 ≤ s.ce.sequence → s.ce.done + 1 = s.ce.sequence →
        t = raiseNotice (.sequenceEnded (s.ce.done + 1) .complete)
          { closed with ce := { idleCe with table := s.ce.table }, sm := { stamps := [] } }) ∧
      (2 ≤ s.ce.sequence → s.ce.done + 1 ≠ s.ce.sequence → s.ce.stopTaken = true →
        t = raiseNotice (.sequenceEnded (s.ce.done + 1) .stopped)
          { closed with ce := { idleCe with table := s.ce.table }, sm := { stamps := [] } }) ∧
      (2 ≤ s.ce.sequence → s.ce.done + 1 ≠ s.ce.sequence → s.ce.stopTaken = false →
        (∀ m : Fin 32, m ≠ n → s.plan[m].planned = false ∨ m.val < s.ce.table.retainFloor ∨
          s.segments[m].holdCount ≠ 0) →
        t = raiseNotice (.sequenceEnded (s.ce.done + 1) .noSegment)
          { closed with ce := { idleCe with table := s.ce.table }, sm := { stamps := [] } }) ∧
      (∀ (m : Fin 32) (candidate : Fin 32 → Prop), 2 ≤ s.ce.sequence →
        s.ce.done + 1 ≠ s.ce.sequence → s.ce.stopTaken = false →
        (∀ j, candidate j ↔ s.plan[j].planned = true ∧ s.ce.table.retainFloor ≤ j.val ∧
          s.segments[j].holdCount = 0) →
        candidate m →
        n < m ∧ (∀ j, n < j → j < m → ¬candidate j) ∨
          m < n ∧ (∀ j, n < j → ¬candidate j) ∧ (∀ j, j < m → ¬candidate j) →
        t.ce = { idleCe with
          table := s.ce.table
          engine := if s.ce.table.preFill = 0 then .armed else .preFill
          segment := some m, sequence := s.ce.sequence, done := s.ce.done + 1
          preFill := s.ce.table.preFill, post := s.ce.table.postTrigger
          startTick := s.time, nextTick := s.time } ∧
        t.prescaler = 0 ∧
        t.ts = { defaultTs with
          terms := s.ts.terms, stages := s.ts.stages, counterTable := s.ts.counterTable
          run := if s.ce.table.preFill = 0 then .running else .off
          stage := if s.ce.table.preFill = 0 then some 0 else none } ∧
        t.sm.stamps = [] ∧
        (∀ l : Fin 4, t.lanes[l] = if s.laneTable[l].enable then { idleLane with mode := .running }
          else { s.lanes[l] with counters := idleLane.counters }) ∧
        t.segments = closed.segments.set m { emptySegment 0 with
          state := .filling, loop := s.ce.table.loop, symbolStatus := some .complete } ∧
        t.lp.notices = closed.lp.notices) ∧
      ChangesOnly [.ce, .prescaler, .ts, .sm, .segments, .lanes, .notices] s t

/-! ### The commands of the Capture Engine and the redecode -/

/-- ARM of a segment, in Run or Standby: the checks in the order of R32 and R89, the first that fails giving
the Refused reply and changing nothing. When all pass it replies Accepted and the segment enters PreFill, or
Armed at once with F = 0: sampler, queue and counts start afresh, its status record is Filling, the prescaler
and the lane counters are 0 and every lane that is On runs (R10, R30, R32, R33, R34, R53, R89, R181). -/
def Obligations.ArmChecksInOrderAndStartsTheCapture : Prop :=
  ∀ (c : LinkCell) (rest : List LinkCell) (s : State) (k : Byte), Ready c rest s → c.code = 3 →
    c.payload = [k] → s.pru.power ≠ .sleep →
    (s.ce.engine ≠ .idle ∨ s.redecode.isSome → refusesInRun .arm c rest .busy s) ∧
    (s.ce.engine = .idle → s.redecode = none →
      (31 < k.toNat → refusesInRun .arm c rest .badValue s) ∧
      ∀ n : Fin 32, k.toNat = n.val →
        (s.plan[n].planned = false → refusesInRun .arm c rest .notPlanned s) ∧
        (s.plan[n].planned = true →
          (n.val < s.ce.table.retainFloor → refusesInRun .arm c rest .retained s) ∧
          (s.ce.table.retainFloor ≤ n.val →
            (s.segments[n].holdCount ≠ 0 → refusesInRun .arm c rest .held s) ∧
            (s.segments[n].holdCount = 0 →
              (s.ce.table.mode = .timing → s.ce.table.width = .wide → s.ce.table.divisor = 1 →
                refusesInRun .arm c rest .rateTooHigh s) ∧
              (s.ce.table.mode = .state → s.ce.table.width = .narrow → 16 ≤ s.ce.table.clockChannel.val →
                s.ce.table.loop = false → refusesInRun .arm c rest .channelUnavailable s) ∧
              (s.ce.table.mode = .state →
                s.ce.table.width = .wide ∨ s.ce.table.clockChannel.val < 16 ∨ s.ce.table.loop = true →
                (∃ l : Fin 4, s.laneTable[l].enable = true) → refusesInRun .arm c rest .laneNeedsTiming s) ∧
              (s.ce.table.mode = .timing → s.ce.table.width = .narrow ∨ s.ce.table.divisor ≠ 1 →
                ∀ l : Fin 4, (∀ j : Fin 4, j < l → ¬laneUnavailable s j ∧ ¬laneTooFast s j) →
                  (laneUnavailable s l → refusesInRun .arm c rest .channelUnavailable s) ∧
                  (¬laneUnavailable s l → laneTooFast s l → refusesInRun .arm c rest .rateTooHigh s)) ∧
              (s.ce.table.mode = .timing ∧ (s.ce.table.width = .narrow ∨ s.ce.table.divisor ≠ 1) ∧
                  (∀ l : Fin 4, ¬laneUnavailable s l ∧ ¬laneTooFast s l) ∨
                s.ce.table.mode = .state ∧ (∀ l : Fin 4, s.laneTable[l].enable = false) ∧
                  (s.ce.table.width = .wide ∨ s.ce.table.clockChannel.val < 16 ∨
                    s.ce.table.loop = true) →
                ∃ t, exec .arm s = .next t ∧ answered c rest .accepted t ∧ t.pru.power = .run ∧
                  t.ce = { idleCe with
                    table := s.ce.table
                    engine := if s.ce.table.preFill = 0 then .armed else .preFill
                    segment := some n, sequence := s.ce.table.sequenceCount, done := 0
                    preFill := s.ce.table.preFill, post := s.ce.table.postTrigger
                    startTick := s.time, nextTick := s.time } ∧
                  t.segments = s.segments.set n { emptySegment 0 with
                    state := .filling, loop := s.ce.table.loop, symbolStatus := some .complete } ∧
                  t.prescaler = 0 ∧ t.ts.history = [] ∧ t.ts.triggerTime = none ∧
                  (s.ce.table.preFill = 0 → t.ts.run = .running ∧ t.ts.stage = some 0) ∧
                  (s.ce.table.preFill ≠ 0 → t.ts.run = .off ∧ t.ts.stage = none) ∧
                  t.sm.stamps = [] ∧
                  (∀ l : Fin 4, t.lanes[l] = if s.laneTable[l].enable then
                      { idleLane with mode := .running, fifo := s.lanes[l].fifo }
                    else { s.lanes[l] with counters := idleLane.counters }) ∧
                  ChangesOnly (withDispatch [.ce, .prescaler, .ts, .lanes, .sm, .segments, .power])
                    s t)))))

/-- STOP during a capture: the engine is in Closing, nothing is staged and no lane runs. With nothing staged,
the open record closes at this tick and the end reason is Stopped; a segment that has handled no sample starts
and ends at this tick with no record. In Idle and Closing STOP has no effect. It replies Done (R39, R40, R80,
R112; for a record within the largest duration, with no episode open). A FORCE that is held for this tick's
sample triggers at the newest sample first (R36). The model's readings are in assumptions 16, 46 and
68. -/
def Obligations.StopClosesTheSegmentAtItsTick : Prop :=
  ∀ (c : LinkCell) (rest : List LinkCell) (s : State), Ready c rest s → c.code = 4 → c.payload = [] →
    s.pru.power ≠ .sleep →
    ∃ t, exec .stop s = .next t ∧ answered c rest (.done []) t ∧
      (s.ce.engine = .idle ∨ s.ce.engine = .closing → ChangesOnly dispatchParts s t) ∧
      (s.ce.engine = .preFill ∨ s.ce.engine = .armed ∨ s.ce.engine = .triggered →
        s.ce.heldForce = false ∨ s.ce.taken = 0 →
        t.ce.engine = .closing ∧ t.ce.stopTaken = true ∧ t.ce.staging = [] ∧ t.ce.openRecord = none ∧
        (s.ts.run = .running → t.ts.run = .halted) ∧ (∀ l : Fin 4, t.lanes[l].mode = .idle) ∧
        (∀ o, s.ce.staging = [] → s.ce.episode = none → s.ce.openRecord = some o → 1 ≤ s.ce.handled →
          1 ≤ elapsed s.time o.start → elapsed s.time o.start ≤ 16777215 →
          t.ce.reason = some .stopped ∧ t.ce.endTime = some s.time ∧
          t.ce.queue ++ t.ce.toPush = s.ce.queue ++ [{
            value := o.value, duration := elapsed s.time o.start, triggerPoint := o.triggerPoint
            continuation := o.continuation, gap := false, loop := o.loop }]) ∧
        (∀ n, s.ce.staging = [] → s.ce.episode = none → s.ce.openRecord = none → s.ce.handled = 0 →
          s.ce.queue = [] → s.ce.segment = some n →
          t.ce.reason = some .stopped ∧ t.ce.endTime = some s.time ∧ t.ce.queue = [] ∧ t.ce.toPush = [] ∧
            t.segments[n].startTime = some s.time) ∧
        ChangesOnly (withDispatch [.ce, .ts, .segments, .lanes, .notices]) s t) ∧
      (∀ (x : Sample) (o : OpenRecord) (n : Fin 32), s.ce.engine = .preFill ∨ s.ce.engine = .armed →
        s.ce.heldForce = true → s.ce.taken ≠ 0 → s.ce.staging = [x] → s.ce.openRecord = some o →
        s.ce.segment = some n → elapsed x.stamp o.start ≤ 16777215 → elapsed s.time x.stamp ≤ 16777215 →
        o.triggerPoint = false → s.ce.episode = none → s.ce.queue.length < 510 → s.ce.post ≠ 0 →
        t.ce.engine = .closing ∧ t.ce.reason = some .stopped ∧ t.ce.endTime = some s.time ∧
        t.ce.queue ++ t.ce.toPush = s.ce.queue ++ [
          { value := o.value, duration := elapsed x.stamp o.start, triggerPoint := false
            continuation := o.continuation, gap := false, loop := o.loop },
          { value := x.levels, duration := elapsed s.time x.stamp, triggerPoint := true
            continuation := false, gap := false, loop := s.ce.table.loop }] ∧
        t.segments[n].triggerTime = some x.stamp ∧ t.segments[n].triggerCause = some .forced ∧
        BurstsBegun s.gen t.gen ∧
        ChangesOnly (withDispatch [.ce, .ts, .segments, .lanes, .genOutputs, .loopCounter, .notices]) s t)

/-- FORCE in Idle, Triggered and Closing has no effect. In PreFill and Armed the TS becomes Fired with cause
Forced; before the first sample, and while a sample of the tick is still to be taken, the trigger is held, and
else with one sample staged that sample is the trigger sample: the open record closes there, the trigger
record opens, and the trigger is passed on. It replies Done (R35, R36, R81; for a cut record that finds a
normal slot, and P above 0). A trigger that is held triggers at the first sample taken, whose record opens the
segment with the levels that the outputs have once the trigger is passed on at that tick (R13, R14, R17, R36).
The model's readings are in assumptions 14, 46, 47 and, in when a FORCE is ready, 58. -/
def Obligations.ForceTriggersAtTheNewestSample : Prop :=
  (∀ (c : LinkCell) (rest : List LinkCell) (s : State), Ready c rest s → c.code = 5 → c.payload = [] →
    s.pru.power ≠ .sleep →
    ∃ t, exec .force s = .next t ∧ answered c rest (.done []) t ∧
      (s.ce.engine = .idle ∨ s.ce.engine = .triggered ∨ s.ce.engine = .closing →
        ChangesOnly dispatchParts s t) ∧
      (s.ce.engine = .preFill ∨ s.ce.engine = .armed → s.ce.taken = 0 ∨ sampleComes s = true →
        t.ce = { s.ce with heldForce := true } ∧
        t.ts = { s.ts with run := .fired, triggerTime := none, triggerCause := some .forced } ∧
        ChangesOnly (withDispatch [.ce, .ts]) s t) ∧
      (∀ (x : Sample) (o : OpenRecord) (n : Fin 32), s.ce.engine = .preFill ∨ s.ce.engine = .armed →
        s.ce.taken ≠ 0 → sampleComes s = false → s.ce.staging = [x] → s.ce.openRecord = some o →
        s.ce.segment = some n → elapsed x.stamp o.start ≤ 16777215 → o.triggerPoint = false →
        s.ce.episode = none → s.ce.queue.length < 510 → s.ce.post ≠ 0 →
        t.ce = { s.ce with
          engine := .triggered, staging := [], heldForce := false, handled := s.ce.handled + 1
          previous := some x.levels, endIndex := some (s.ce.handled + s.ce.post), lastValue := o.value
          queue := s.ce.queue ++ [{
            value := o.value, duration := elapsed x.stamp o.start, triggerPoint := false
            continuation := o.continuation, gap := false, loop := o.loop }]
          openRecord := some { value := x.levels, start := x.stamp, triggerPoint := true
                               continuation := false, loop := s.ce.table.loop } } ∧
        t.ts = { s.ts with run := .fired, triggerTime := some x.stamp, triggerCause := some .forced } ∧
        t.segments = s.segments.set n { s.segments[n] with
          triggerTime := some x.stamp, triggerCause := some .forced } ∧
        BurstsBegun s.gen t.gen ∧ raised (.triggered n x.stamp .forced) s t ∧
        ChangesOnly (withDispatch [.ce, .ts, .segments, .genOutputs, .loopCounter, .notices]) s t)) ∧
  ∀ (s : State) (n : Fin 32), Quiet s → s.ce.engine = .preFill ∨ s.ce.engine = .armed →
    s.ce.heldForce = true → s.ce.taken = 0 → s.ce.handled = 0 → s.ce.staging = [] →
    s.ce.openRecord = none → s.ce.segment = some n → s.ce.nextTick = s.time → s.ce.post ≠ 0 →
    (s.ce.table.mode = .timing ∨ ∃ old, s.ce.clock = some old ∧ qualifies s.ce.table.clockEdge old
      ((sampleLevels s).getLsbD s.ce.table.clockChannel) = true) →
    ∃ t, exec .sample s = .next t ∧ t.ce.engine = .triggered ∧ t.ce.heldForce = false ∧
      t.ce.handled = 1 ∧ t.ce.endIndex = some s.ce.post ∧ t.ce.queue = s.ce.queue ∧
      t.ce.openRecord = some { value := sampleLevels { s with gen := t.gen }, start := s.time
                               triggerPoint := true, continuation := false, loop := s.ce.table.loop } ∧
      t.segments[n].startTime = some s.time ∧ t.segments[n].triggerTime = some s.time ∧
      t.segments[n].triggerCause = some .forced ∧ t.ts.triggerTime = some s.time ∧
      BurstsBegun s.gen t.gen ∧ LanesDecode (sampleLevels { s with gen := t.gen }) s t ∧
      t.lp.notices[1] = (raiseNotice (.triggered n s.time .forced) s).lp.notices[1] ∧
      ChangesOnly [.ce, .sm, .lanes, .ts, .segments, .notices, .genOutputs, .loopCounter] s t

/-- REDECODE of a segment, in Run or Standby: the checks in the order of R125, the first that fails giving the
Refused reply. When all pass it replies Accepted: the span is emptied with status Incomplete, the lane
counters are 0, every lane that is On replays, and the stream starts at the segment's oldest record; a render
of the segment that has not ended its span reading, or still clears its area, draws no more of it and writes
what it has queued (R125, R126, R148, R181; for a segment with records). The model's reading is in assumption
28. -/
def Obligations.RedecodeChecksInOrderAndStartsTheReplay : Prop :=
  ∀ (c : LinkCell) (rest : List LinkCell) (s : State) (k : Byte), Ready c rest s → c.code = 6 →
    c.payload = [k] → s.pru.power ≠ .sleep →
    (s.ce.engine ≠ .idle ∨ s.redecode.isSome → refusesInRun .redecode c rest .busy s) ∧
    (s.ce.engine = .idle → s.redecode = none →
      (31 < k.toNat → refusesInRun .redecode c rest .badValue s) ∧
      ∀ n : Fin 32, k.toNat = n.val →
        (s.segments[n].state ≠ .closed → refusesInRun .redecode c rest .notClosed s) ∧
        (s.segments[n].state = .closed →
          (∀ r, s.lp.readout = some r → r.segment = n → r.kind = .symbols →
            refusesInRun .redecode c rest .busy s) ∧
          ((∀ r, s.lp.readout = some r → ¬(r.segment = n ∧ r.kind = .symbols)) →
            (s.ce.table.mode = .state → (∃ l : Fin 4, s.laneTable[l].enable = true) →
              refusesInRun .redecode c rest .laneNeedsTiming s) ∧
            (s.ce.table.mode = .timing → (∃ l : Fin 4, laneTooFast s l) →
              refusesInRun .redecode c rest .rateTooHigh s) ∧
            (s.ce.table.mode = .timing ∧ (∀ l : Fin 4, ¬laneTooFast s l) ∨
                (∀ l : Fin 4, s.laneTable[l].enable = false) →
              s.segments[n].startTime ≠ s.segments[n].endTime → s.segments[n].recordCount ≠ 0 →
              ∃ t, exec .redecode s = .next t ∧ answered c rest .accepted t ∧ t.pru.power = .run ∧
                t.redecode = some {
                  segment := n, divisor := s.ce.table.divisor, stamp := s.segments[n].startTime.getD 0
                  next := s.segments[n].oldest.getD 0, left := s.segments[n].recordCount
                  start := s.segments[n].startTime.getD 0, refused := false } ∧
                t.segments = s.segments.set n { s.segments[n] with
                  symbolFirst := none, symbolCount := 0, symbolLost := 0
                  symbolStatus := some .incomplete } ∧
                t.sm.stamps = [] ∧
                (∀ l : Fin 4, t.lanes[l] = if s.laneTable[l].enable then
                    { idleLane with mode := .replaying, fifo := s.lanes[l].fifo }
                  else { s.lanes[l] with counters := idleLane.counters }) ∧
                (∀ d, s.re.draw = some d → d.snapshot.view.segment = n →
                  d.phase ≠ .finished ∨ s.re.job = .drawing ∧ s.re.rowsClipped = none →
                  ∃ e, t.re.draw = some e ∧ e.omitted = true ∧ e.writes = d.writes ∧
                    (∀ p left, d.phase = .symbols p left → e.phase = .finished)) ∧
                ((∀ d, s.re.draw = some d → d.snapshot.view.segment ≠ n ∨ d.phase = .finished ∧
                    (s.re.job ≠ .drawing ∨ s.re.rowsClipped ≠ none)) →
                  t.re = s.re) ∧
                ChangesOnly (withDispatch [.redecode, .segments, .lanes, .sm, .re, .power]) s t))))

/-- A grant to the redecode reads the record its stream stands at: each replay sample stamped before the
record's end is given to the lanes, in order, and enters the merge horizon, and the stream goes on at the next
ring position; after the last record the lanes are Idle. The bounds of the queues are a premise, since a
longer list of stamps, which no run reaches, would be kept where no sample is given. Once the FIFOs are
drained and the span is trimmed the redecode is done: the segment is Redecoded, or RedecodedTruncated if the
span refused a symbol, and RedecodeDone is raised (R121, R127, R128). The model's readings are in assumptions
23 and, for a trim that needs no grant to end, 22. -/
def Obligations.RedecodeReplaysRecordsAndCompletes : Prop :=
  (∀ (s : State) (r : Redecode) (q : Record) (stop : Time) (count : Nat),
    QueueLaw s → nextGrant s = some .redecodeRead → s.redecode = some r →
    (∀ l : Fin 4, s.lanes[l].mode ≠ .running) →
    s.plan[r.segment].captureFirst * 65536 + r.next * 8 + 8 ≤ totalBlocks s.mp.size * 65536 →
    q = recordOf (memReadBytes s.dram (s.plan[r.segment].captureFirst * 65536 + r.next * 8) 8) →
    stop = r.start + BitVec.ofNat 48 q.duration →
    count = (if timeDiff r.stamp stop < 0 then ((stop - r.stamp).toNat + r.divisor - 1) / r.divisor else 0) →
    ∃ t, exec .redecodeRecordRead s = .next t ∧
      t.redecode = some { r with
        stamp := r.stamp + BitVec.ofNat 48 (count * r.divisor)
        next := (r.next + 1) % (s.plan[r.segment].captureCount * 8192), left := r.left - 1
        start := stop } ∧
      t.sm.stamps = (((List.range count).map fun i => r.stamp + BitVec.ofNat 48 (i * r.divisor)).reverse ++
        s.sm.stamps).take 17 ∧
      (2 ≤ r.left → LanesReplay r.divisor q.value count r.stamp s t) ∧
      (r.left ≤ 1 → ∀ l : Fin 4, t.lanes[l].mode = .idle) ∧
      ChangesOnly [.redecode, .sm, .lanes, .notices] s t) ∧
  (∀ (s : State) (r : Redecode) (status : SymbolStatus), s.redecode = some r → r.left = 0 →
    (∀ l : Fin 4, s.lanes[l].fifo = []) → trimDue s = false →
    status = (if r.refused then .redecodedTruncated else .redecoded) →
    ∃ t, exec .redecodeDone s = .next t ∧ t.redecode = none ∧ t.sm.stamps = [] ∧
      t.segments = s.segments.set r.segment { s.segments[r.segment] with symbolStatus := some status } ∧
      raised (.redecodeDone r.segment status s.segments[r.segment].symbolCount
        s.segments[r.segment].symbolLost) s t ∧
      ChangesOnly [.redecode, .sm, .segments, .notices] s t)

/-! ### Rendering and scan-out -/

/-- RENDER, in Run or Standby, replies Accepted. In Idle a render starts: the results of the last one go, the
snapshot is taken from the active set, the panel and cursor tables and the segment's status record, the back
buffer is the one not in front, the area is to be cleared, its rows are stacked up to the first that does not
fit, and the segment is held. Nothing is read for NoData, only the span for an empty window [Ts, Te), and else
the locate walk begins at the newest record. While a render is under way the pending flag is set and nothing
else. SWAP replies Done and makes the other view set the active one, in every job state (R55, R134, R135,
R136, R141, R142, R148, R181). That the area is cleared line by line from the top is the model's choice,
assumption 54. -/
def Obligations.RenderStartsOrPendsAndSwapExchangesTheSets : Prop :=
  (∀ (c : LinkCell) (rest : List LinkCell) (s : State), Ready c rest s → c.code = 7 → c.payload = [] →
    s.pru.power ≠ .sleep →
    ∃ t, exec .render s = .next t ∧ answered c rest .accepted t ∧ t.pru.power = .run ∧
      (s.re.job ≠ .idle → t.re = { s.re with pending := true } ∧
        ChangesOnly (withDispatch [.re, .power]) s t) ∧
      (∀ (set : ViewSet) (v : View) (n : Fin 32) (g : SegmentStatus), s.re.job = .idle →
        set = (if s.re.active = .a then s.re.setA else s.re.setB) →
        v = clampArea s.su.panel.width s.su.panel.height set.view → n = v.segment → g = s.segments[n] →
        (∃ d laneRow, t.re = { s.re with
            job := .drawing, pending := false, draw := some d, segment := some n, outcome := none
            rowsClipped := none, bounds := none, readings := none, stale := false } ∧
          d.snapshot = {
            view := v, rows := set.rows.toList.take v.rowCount, panelWidth := s.su.panel.width
            panelHeight := s.su.panel.height
            cursor1 := { enabled := s.su.cursors.cursor1.enabled, offset := s.su.cursors.cursor1.offset }
            cursor2 := { enabled := s.su.cursors.cursor2.enabled, offset := s.su.cursors.cursor2.offset }
            noData := decide (g.state = .empty ∨ g.recordCount = 0), filling := decide (g.state = .filling)
            oldest := g.oldest.getD 0, newest := g.newest.getD 0, recordCount := g.recordCount
            startTime := g.startTime, endTime := g.endTime, triggerTime := g.triggerTime
            symbolFirst := g.symbolFirst.getD 0, symbolCount := g.symbolCount
            reference := if v.reference = .trigger ∧ g.triggerTime.isSome then g.triggerTime
              else g.startTime
            buffer := !s.su.front
            redecoding := decide (∃ r, s.redecode = some r ∧ r.segment = n) } ∧
          d.writes = ((List.range v.height).map fun i =>
            { x := v.left, y := v.top + i, pixels := List.replicate v.width 0 }) ∧
          d.reads = 0 ∧ d.drawn = 0 ∧ d.used = [] ∧ d.nextColumn = 0 ∧ d.firstColumn = none ∧
          d.lastColumn = none ∧ d.ringWrites = 0 ∧ d.spanWrites = 0 ∧
          (d.omitted = true ↔ ∃ r, s.redecode = some r ∧ r.segment = n) ∧
          d.placed.length ≤ d.snapshot.rows.length ∧
          (∀ (i offset : Nat) (r : Row), d.snapshot.rows[i]? = some r →
            offset = ((d.snapshot.rows.take i).map (·.height)).sum →
            (offset + r.height ≤ v.height → d.placed[i]? = some { row := r, top := v.top + offset }) ∧
            (v.height < offset + r.height → d.placed[i]? = none)) ∧
          (laneRow ↔ ∃ p ∈ d.placed, ∃ l, p.row.kind = .lane l) ∧
          (d.snapshot.noData = true → d.phase = .finished) ∧
          (d.snapshot.noData = false → windowEnd d.snapshot ≤ windowStart d.snapshot →
            (laneRow ∧ d.omitted = false ∧ g.symbolCount ≠ 0 →
              d.phase = .symbols (g.symbolFirst.getD 0) g.symbolCount) ∧
            (¬(laneRow ∧ d.omitted = false ∧ g.symbolCount ≠ 0) → d.phase = .finished)) ∧
          (d.snapshot.noData = false → windowStart d.snapshot < windowEnd d.snapshot →
            d.phase = .locate (g.newest.getD 0) g.recordCount (g.endTime.getD 0))) ∧
        t.segments = s.segments.set n { g with holdCount := g.holdCount + 1 } ∧
        ChangesOnly (withDispatch [.re, .job, .segments, .holds, .power]) s t)) ∧
  (∀ (c : LinkCell) (rest : List LinkCell) (s : State), Ready c rest s → c.code = 8 → c.payload = [] →
    s.pru.power ≠ .sleep →
    ∃ t, exec .swap s = .next t ∧ answered c rest (.done []) t ∧
      t.re = { s.re with active := if s.re.active = .a then .b else .a } ∧
      ChangesOnly (withDispatch [.active, .re]) s t) ∧
  ∀ (sn : Snapshot) (inside : Int → Prop) (edge : Int),
    (∀ t, inside t ↔ relStart sn ≤ t ∧ t < relEnd sn ∧
      ∃ c ∈ [sn.cursor1, sn.cursor2], c.enabled = true ∧ c.offset = t) →
    (∀ t, edge ≤ t ↔ (sn.view.width * sn.view.zoom : Nat) ≤ (t - sn.view.origin) * 256) →
    (∃ earliest, windowStart sn = max (relStart sn) earliest ∧
      (earliest = sn.view.origin ∨ inside earliest) ∧ earliest ≤ sn.view.origin ∧
      ∀ t, inside t → earliest ≤ t) ∧
    ∃ latest, windowEnd sn = min (relEnd sn) latest ∧ (latest = edge ∨ inside (latest - 1)) ∧
      edge ≤ latest ∧ ∀ t, inside t → t + 1 ≤ latest

/-- A grant to the render for pixels stores the oldest waiting run in the back buffer of its snapshot, where
R45 lays it out, and changes no other byte; when the last run of the clearing is written RowsClipped becomes
the number of rows not placed (R45, R136, R142). This grant and every other goes to the waiting requester of
highest priority, a row read before a block of the fill and a redecode's symbol before its next record; in
Sleep there is none (R59, R60, R122). The model's readings are in assumptions 9, 25 and 54. -/
def Obligations.PixelWriteStoresOneRun : Prop :=
  (∀ (s : State) (d : Draw) (w : PixelRun) (ws : List PixelRun) (address : Nat),
    nextGrant s = some .renderPixels → s.re.draw = some d → d.writes = w :: ws →
    address = (s.mp.regions.symbolEnd + (if d.snapshot.buffer then
        (d.snapshot.panelWidth * d.snapshot.panelHeight + 65535) / 65536 else 0)) * 65536 +
      w.y * d.snapshot.panelWidth + w.x →
    address + w.pixels.length ≤ totalBlocks s.mp.size * 65536 → memWf s.dram = true →
    ∃ t, exec .renderPixelWrite s = .next t ∧ stores address w.pixels s t ∧
      t.re = { s.re with
        draw := some { d with writes := ws }
        rowsClipped := if ws = [] ∧ s.re.rowsClipped = none then
            some (d.snapshot.rows.length - d.placed.length)
          else s.re.rowsClipped } ∧
      ChangesOnly [.dram, .re] s t) ∧
  ∀ s : State,
    (s.pru.power = .sleep → nextGrant s = none) ∧
    (s.pru.power ≠ .sleep →
      (∀ r, nextGrant s = some r → Waits s r ∧ ∀ q, Waits s q → r.priority ≤ q.priority) ∧
      ((∃ q, Waits s q) → nextGrant s ≠ none) ∧
      (Waits s .scanRow → nextGrant s = some .scanRow) ∧
      (Waits s .redecodeWrite → nextGrant s ≠ some .redecodeRead))

/-- A grant to the render for a record. A ring position written since the render started ends it in WaitFlip,
Overrun, or AnnotationsOmitted where it met that first, without readings. Otherwise the locate walk goes back
until a record starts before the window or was the oldest, and the forward pass keeps each up to the window's
end or the newest. The data columns then all read are drawn in every placed row, those with a pixel set
counting for the bounds (R139 to R141, R143, R149). A column covers its times by R139; one wholly a gap is a
hatch, without a change shows its value, and is a stroke for one change and a block for more. A Group gathers
its channels' bits, and a long enough stable run carries them in hexadecimal (R144, R145). One-pixel runs and
their order are the model's choice, assumption 54. The readings are in assumptions 25 to 27. -/
def Obligations.RecordReadLocatesThenGoesForward : Prop :=
  (∀ (s : State) (d : Draw) (n : Fin 32) (capacity position left : Nat) (time : Time) (r : Record)
    (late : Prop),
    nextGrant s = some .renderRecord → s.re.draw = some d → n = d.snapshot.view.segment →
    capacity = s.plan[n].captureCount * 8192 → position < capacity →
    s.plan[n].captureFirst * 65536 + position * 8 + 8 ≤ totalBlocks s.mp.size * 65536 →
    r = recordOf (memReadBytes s.dram (s.plan[n].captureFirst * 65536 + position * 8) 8) →
    (late ↔ ∃ i < d.ringWrites, position = (d.snapshot.newest + 1 + i) % capacity) →
    d.phase = .locate position left time ∨ d.phase = .forward position left time →
    ∃ t e, exec .renderRecordRead s = .next t ∧ t.re.draw = some e ∧
      e.reads = min (d.reads + 1) 4294967295 ∧ e.snapshot = d.snapshot ∧
      (late → t.re.job = .waitFlip ∧ e.outcome = (if d.omitted then .annotationsOmitted else .overrun) ∧
        e.readings = none ∧ e.used = d.used ∧ e.writes = d.writes ∧ e.bounds = some {
          firstColumn := d.firstColumn, lastColumn := d.lastColumn
          firstStart := d.used.head?.map (·.start)
          lastEnd := d.used.getLast?.map fun u => u.start + BitVec.ofNat 48 u.record.duration
          recordsRead := e.reads, symbolsDrawn := d.drawn }) ∧
      (¬late → t.re.job = s.re.job ∧
        (d.phase = .locate position left time → e.used = d.used ∧ e.writes = d.writes ∧
          e.phase =
            if relTime d.snapshot (time - BitVec.ofNat 48 r.duration) < windowStart d.snapshot ∨ left ≤ 1 then
              .forward position (d.snapshot.recordCount - left + 1) (time - BitVec.ofNat 48 r.duration)
            else .locate (if position = 0 then capacity - 1 else position - 1) (left - 1)
              (time - BitVec.ofNat 48 r.duration)) ∧
        (d.phase = .forward position left time → e.used = d.used ++ [{ start := time, record := r }] ∧
          (∀ columns shown : List Nat,
            columns = (List.range' d.nextColumn (e.nextColumn - d.nextColumn)).filter
              (isDataColumn d.snapshot) →
            shown = columns.filter (fun c => !(d.placed.flatMap (rowTrace d.snapshot e.used c)).isEmpty) →
            e.writes = d.writes ++ columns.flatMap (fun c =>
              d.placed.flatMap (rowColumn s.su.glyphs d.snapshot e.used c)) ∧
            e.firstColumn = d.firstColumn.or shown.head? ∧
            e.lastColumn = shown.getLast?.or d.lastColumn) ∧
          (windowEnd d.snapshot ≤ relTime d.snapshot time + r.duration ∨ left ≤ 1 →
            e.nextColumn = max d.nextColumn d.snapshot.view.width ∧
            e.phase = if (∃ p ∈ d.placed, ∃ l, p.row.kind = .lane l) ∧ d.omitted = false ∧
                d.snapshot.symbolCount ≠ 0 then
                .symbols d.snapshot.symbolFirst d.snapshot.symbolCount
              else .finished) ∧
          (relTime d.snapshot time + r.duration < windowEnd d.snapshot → 2 ≤ left →
            (∀ c < d.snapshot.view.width, d.nextColumn ≤ c → (c < e.nextColumn ↔
              ((c + 1) * d.snapshot.view.zoom : Nat) ≤
                (relTime d.snapshot time + r.duration - d.snapshot.view.origin) * 256)) ∧
            e.phase = .forward ((position + 1) % capacity) (left - 1)
              (time + BitVec.ofNat 48 r.duration)))) ∧
      ChangesOnly [.re, .job] s t) ∧
  (∀ (sn : Snapshot) (used : List TimedRecord) (c x : Nat) (p : PlacedRow) (value : Word → Nat)
    (r : TimedRecord) (starts changes : List (TimedRecord × TimedRecord)) (gap : Prop),
    (∃ k : Fin 32, p.row.kind = .channel k ∧ ∀ w, value w = flag (w.getLsbD k)) ∨
      (∃ m : Word, p.row.kind = .group m ∧ ∀ (w : Word) (i : Nat), (value w).testBit i =
        match ((List.range 32).filter fun k => m.getLsbD k)[i]? with
        | some k => w.getLsbD k
        | none => false) →
    x = sn.view.left + c → recordAt sn used (columnInstant sn c) = some r →
    starts = (neighbours used).filter (fun q => timeColumn sn (relTime sn q.2.start) = .at c) →
    changes = starts.filter (fun q => value q.1.record.value ≠ value q.2.record.value) →
    (gap ↔ r.record.gap = true ∧ ∀ q ∈ starts, relTime sn q.2.start ≤ columnInstant sn c) →
    ((reduceColumn sn used value c).value = value r.record.value ∧
      (reduceColumn sn used value c).changes = min changes.length 2 ∧
      ((reduceColumn sn used value c).gap = true ↔ gap)) ∧
    ∀ w : PixelRun,
      (gap → (w ∈ rowTrace sn used c p ↔ ∃ y, p.top + 1 ≤ y ∧ y ≤ p.top + p.row.height - 2 ∧
        (x + y) % 2 = 0 ∧ w = { x := x, y := y, pixels := [p.row.activity] })) ∧
      (¬gap → changes.length = 0 → (w ∈ rowTrace sn used c p ↔ ∃ y,
        w = { x := x, y := y, pixels := [p.row.line] } ∧
        ((∃ m, p.row.kind = .group m) ∧ (y = p.top + 1 ∨ y = p.top + p.row.height - 2) ∨
          (∃ k, p.row.kind = .channel k) ∧
            y = if value r.record.value = 1 then p.top + 1 else p.top + p.row.height - 2))) ∧
      (¬gap → changes.length = 1 → (w ∈ rowTrace sn used c p ↔ ∃ y, p.top + 1 ≤ y ∧
        y ≤ p.top + p.row.height - 2 ∧ w = { x := x, y := y, pixels := [p.row.line] })) ∧
      (¬gap → 2 ≤ changes.length → (w ∈ rowTrace sn used c p ↔ ∃ y, p.top + 1 ≤ y ∧
        y ≤ p.top + p.row.height - 2 ∧ w = { x := x, y := y, pixels := [p.row.activity] }))) ∧
  (∀ (sn : Snapshot) (c : Nat), isDataColumn sn c = true ↔ c < sn.view.width ∧
    (c * sn.view.zoom : Nat) < (relEnd sn - sn.view.origin) * 256 ∧
    (relStart sn - sn.view.origin) * 256 < ((c + 1) * sn.view.zoom : Nat)) ∧
  (∀ (sn : Snapshot) (t d : Int), d = (t - sn.view.origin) * 256 →
    (timeColumn sn t = .left ↔ t < sn.view.origin) ∧
    (timeColumn sn t = .right ↔ (sn.view.width * sn.view.zoom : Nat) ≤ d) ∧
    ∀ c : Nat, timeColumn sn t = .at c ↔ c < sn.view.width ∧ (c * sn.view.zoom : Nat) ≤ d ∧
      d < ((c + 1) * sn.view.zoom : Nat)) ∧
  (∀ (sn : Snapshot) (c : Nat) (r s e time : Time), sn.reference = some r → sn.startTime = some s →
    sn.endTime = some e → relTime sn time = timeDiff time r ∧ relStart sn = timeDiff s r ∧
      relEnd sn = timeDiff e r ∧
      columnInstant sn c = max (timeDiff s r) (sn.view.origin + (c * sn.view.zoom / 256 : Nat))) ∧
  ∀ (glyphs : Vector (BitVec 60) 64) (sn : Snapshot) (used : List TimedRecord) (c digits : Nat)
    (p : PlacedRow) (m : Word) (stable : Nat → Prop) (ends : Nat → Prop), p.row.kind = .group m →
    isDataColumn sn c = true →
    (∀ j, stable j ↔ isDataColumn sn j = true ∧ (reduceColumn sn used (groupValue m) j).gap = false ∧
      (reduceColumn sn used (groupValue m) j).changes = 0) →
    digits = (((List.range 32).filter fun k => m.getLsbD k).length + 3) / 4 →
    (∀ j, ends j ↔ j = c ∧ ¬stable c ∨ j = c + 1 ∧ stable c ∧ isDataColumn sn (c + 1) = false) →
    rowColumn glyphs sn used c p = rowTrace sn used c p ++ rowText glyphs sn used c p ∧
    ∀ (x y : Nat) (k : Byte), paints (rowText glyphs sn used c p) x y k ↔ k = p.row.text ∧
      ∃ (first len : Nat) (number : List (Fin 64)), ends (first + len) ∧
        (∀ j, first ≤ j → j < first + len → stable j) ∧ (first = 0 ∨ ¬stable (first - 1)) ∧
        1 ≤ digits ∧ 12 ≤ p.row.height ∧ 6 * digits + 2 ≤ len ∧
        showsHex digits (reduceColumn sn used (groupValue m) (first + len - 1)).value number ∧
        glyphsCover glyphs number (sn.view.left + first + (len - 6 * digits) / 2)
          (p.top + (p.row.height - 10) / 2) x y

/-- A grant to the render for a symbol. A span position written since the render started ends the render
Overrun, or AnnotationsOmitted where it met that first. Otherwise the symbol is drawn in every placed Lane row
of its lane, unless it ends before the segment, ends left of the view or starts right of it, its end being a
time mapped like any other; the read of the last symbol, or of one after which none can start before the right
edge, ends the reading (R139, R143, R146). A box one column wide is a tick, a wider one an outline, with the
text where it fits: the kind's glyph, and a value in its fewest hexadecimal digits; the data columns a box
covers count for the bounds (R146, R147, R149). The readings are in assumptions 26, 54 and 55. -/
def Obligations.SymbolReadDrawsTheSymbol : Prop :=
  (∀ (s : State) (d : Draw) (n : Fin 32) (capacity position left : Nat) (y : Symbol) (rows : List PlacedRow)
    (stop : Time) (late outside : Prop),
    nextGrant s = some .renderSymbol → s.re.draw = some d → n = d.snapshot.view.segment →
    capacity = s.plan[n].symbolCount * 4096 → position < capacity →
    d.phase = .symbols position left → 1 ≤ d.snapshot.symbolCount →
    s.plan[n].symbolFirst * 65536 + position * 16 + 16 ≤ totalBlocks s.mp.size * 65536 →
    y = symbolOf (memReadBytes s.dram (s.plan[n].symbolFirst * 65536 + position * 16) 16) →
    rows = d.placed.filter (fun p => p.row.kind = .lane y.lane) →
    (late ↔ ∃ i < d.spanWrites,
      position = (d.snapshot.symbolFirst + d.snapshot.symbolCount + i) % capacity) →
    stop = y.start + BitVec.ofNat 48 y.duration →
    (outside ↔ timeDiff stop (d.snapshot.startTime.getD 0) < 0 ∨
      timeColumn d.snapshot (relTime d.snapshot stop) = .left ∨
      timeColumn d.snapshot (relTime d.snapshot y.start) = .right) →
    ∃ t e, exec .renderSymbolRead s = .next t ∧ t.re.draw = some e ∧ e.snapshot = d.snapshot ∧
      e.used = d.used ∧ e.reads = d.reads ∧
      (late → t.re.job = .waitFlip ∧ e.outcome = (if d.omitted then .annotationsOmitted else .overrun) ∧
        e.readings = none ∧ e.drawn = d.drawn ∧ e.writes = d.writes) ∧
      (¬late → t.re.job = s.re.job ∧
        (outside → e.writes = d.writes ∧ e.drawn = d.drawn ∧ e.firstColumn = d.firstColumn ∧
          e.lastColumn = d.lastColumn) ∧
        (¬outside → e.drawn = min (d.drawn + rows.length) 4294967295 ∧
          ∀ (first last : Nat) (columns : List Nat),
            first = (match timeColumn d.snapshot (relTime d.snapshot y.start) with
              | .at k => k
              | _ => 0) →
            last = (match timeColumn d.snapshot (relTime d.snapshot stop) with
              | .at k => k
              | _ => d.snapshot.view.width - 1) →
            columns = (List.range' first (last + 1 - first)).filter (isDataColumn d.snapshot) →
            e.writes = d.writes ++
              rows.flatMap (boxPixels s.su.glyphs d.snapshot.view.left y first last) ∧
            (rows = [] ∨ columns = [] → e.firstColumn = d.firstColumn ∧ e.lastColumn = d.lastColumn) ∧
            (rows ≠ [] → (∀ p ∈ rows, 3 ≤ p.row.height) → ∀ a b, columns.head? = some a →
              columns.getLast? = some b → e.firstColumn = some (min a (d.firstColumn.getD a)) ∧
                e.lastColumn = some (max b (d.lastColumn.getD b)))) ∧
        e.phase = if left ≤ 1 ∨
            rightEdge d.snapshot ≤ relTime d.snapshot stop - 16777215 then .finished
          else .symbols ((position + 1) % capacity) (left - 1)) ∧
      ChangesOnly [.re, .job] s t) ∧
  ∀ (glyphs : Vector (BitVec 60) 64) (left first last : Nat) (y : Symbol) (p : PlacedRow) (colour : Byte)
    (text : List (Fin 64)), first ≤ last → 8 ≤ p.row.height → SymbolText y text →
    ((∃ i ∈ [0, 1, 2, 3, 4, 5], y.tags.getLsbD i = true) → colour = p.row.activity) →
    ((∀ i ∈ [0, 1, 2, 3, 4, 5], y.tags.getLsbD i = false) → colour = p.row.line) →
    ∃ outline label, boxPixels glyphs left y first last p = outline ++ label ∧
      (∀ (x l : Nat) (k : Byte), paints outline x l k ↔ k = colour ∧ p.top + 1 ≤ l ∧
        l + 2 ≤ p.top + p.row.height ∧ left + first ≤ x ∧ x ≤ left + last ∧
        (x = left + first ∨ x = left + last ∨ l = p.top + 1 ∨ l + 2 = p.top + p.row.height)) ∧
      ∀ (x l : Nat) (k : Byte), paints label x l k ↔ k = p.row.text ∧ first < last ∧ 12 ≤ p.row.height ∧
        6 * text.length + 2 ≤ last - first + 1 ∧
        glyphsCover glyphs text (left + first + 1 + (last - first + 1 - 2 - 6 * text.length) / 2)
          (p.top + (p.row.height - 10) / 2) x l

/-- When nothing is left to read or to write, the drawing is complete: the job is in WaitFlip with its
outcome and its bounds, and with its readings unless it showed no data (R135, R136, R148, R149, R150). A
cursor's reading is the Value of the record used that contains its time, for an enabled cursor within the
segment, and absent otherwise; the interval lies between the earlier of the two cursors' times and the later
one, and an edge count is that of the records starting after the lower time and not after the upper one whose
bit differs from that of the record before, up to 65535; differences are those of R7 (R7, R150). The model's
readings are in assumptions 25, 26, 27 and, for two times 2^47 ticks apart, 62. -/
def Obligations.DrawingCompleteEntersWaitFlip : Prop :=
  (∀ (s : State) (d : Draw) (first second lower upper : Time), s.re.job = .drawing →
    s.re.draw = some d → d.writes = [] → d.phase = .finished →
    first = d.snapshot.reference.getD 0 + BitVec.ofInt 48 d.snapshot.cursor1.offset →
    second = d.snapshot.reference.getD 0 + BitVec.ofInt 48 d.snapshot.cursor2.offset →
    (timeDiff second first < 0 → lower = second ∧ upper = first) →
    (0 ≤ timeDiff second first → lower = first ∧ upper = second) →
    ∃ t, exec .drawingComplete s = .next t ∧
      t.re = { s.re with
        job := .waitFlip
        draw := some { d with
          outcome := if d.snapshot.noData then .noData else if d.omitted then .annotationsOmitted else .done
          bounds := some {
            firstColumn := d.firstColumn, lastColumn := d.lastColumn
            firstStart := d.used.head?.map (·.start)
            lastEnd := d.used.getLast?.map fun u => u.start + BitVec.ofNat 48 u.record.duration
            recordsRead := d.reads, symbolsDrawn := d.drawn }
          readings := if d.snapshot.noData then none else some {
            value1 := valueReading d d.snapshot.cursor1, value2 := valueReading d d.snapshot.cursor2
            interval := if d.snapshot.cursor1.enabled && d.snapshot.cursor2.enabled then
                some ((upper - lower).toNat, (List.range 32).map (edgeCount d lower upper))
              else none } } } ∧
      ChangesOnly [.re, .job] s t) ∧
  ∀ (d : Draw) (c : CursorAt) (contains : TimedRecord → Prop)
    (differs : Nat → TimedRecord → TimedRecord → Bool) (lower upper : Time) (k : Nat),
    (∀ u, contains u ↔ relTime d.snapshot u.start ≤ c.offset ∧
      c.offset < relTime d.snapshot u.start + u.record.duration) →
    (∀ a b, differs k a b = true ↔ timeDiff lower b.start < 0 ∧ timeDiff b.start upper ≤ 0 ∧
      a.record.value.getLsbD k ≠ b.record.value.getLsbD k) →
    (c.enabled = false ∨ c.offset < relStart d.snapshot ∨ relEnd d.snapshot ≤ c.offset →
      valueReading d c = none) ∧
    (c.enabled = true → relStart d.snapshot ≤ c.offset → c.offset < relEnd d.snapshot →
      (∀ u ∈ d.used, contains u → (∀ w ∈ d.used, contains w → w = u) →
        valueReading d c = some u.record.value) ∧
      ((∀ u ∈ d.used, ¬contains u) → valueReading d c = none)) ∧
    edgeCount d lower upper k = min 65535
      ((List.range d.used.length).filter fun i =>
        match d.used[i]?, d.used[i + 1]? with
        | some a, some b => differs k a b
        | _, _ => false).length

/-- A frame boundary, out of Sleep and once the frame has lasted its ticks: the Scan-out Unit takes up
panel, palette and cursors as stored, and a new active size removes the front-frame view and begins the
fill. A render in WaitFlip flips: its buffer comes to the front with its view, its hold goes, RenderDone is
raised, and the job is Idle or, with a render pending, Drawing again into the other buffer (R137, R153,
R154, R155, R159). That the fill begins at the symbol end is the model's choice, assumption 50;
its readings are in assumptions 25 and 31. -/
def Obligations.FrameBoundaryTakesUpTablesAndFlips : Prop :=
  ∀ s : State, s.pru.power ≠ .sleep →
    (s.su.applied.height + s.su.applied.vFront + s.su.applied.vSync + s.su.applied.vBack) *
      ((s.su.applied.width + s.su.applied.hFront + s.su.applied.hSync + s.su.applied.hBack) *
        s.su.applied.divisor) ≤ (timeDiff s.time s.su.frameStart).toNat →
    ∃ t, exec .frameBoundary s = .next t ∧
      t.su.applied = s.su.panel ∧ t.su.appliedPalette = s.su.palette ∧
      t.su.appliedCursors = s.su.cursors ∧ t.su.frameStart = s.time ∧ t.su.frameView = t.su.frontView ∧
      t.su.read = none ∧ t.su.shown = none ∧ t.su.resizing = false ∧ t.su.scanBase = s.su.scanBase ∧
      (s.su.resizing = false → t.mp = s.mp) ∧
      (s.su.resizing = true → t.su.frontView = none ∧ t.mp.fill = some {
        kind := .panel, next := s.mp.regions.symbolEnd
        left := 2 * ((s.su.panel.width * s.su.panel.height + 65535) / 65536) }) ∧
      (s.re.job ≠ .waitFlip → t.su.front = s.su.front ∧ t.re = s.re ∧ t.segments = s.segments ∧
        t.lp = s.lp ∧ (s.su.resizing = false → t.su.frontView = s.su.frontView)) ∧
      (∀ (d : Draw) (n : Fin 32), s.re.job = .waitFlip → s.re.draw = some d →
        n = d.snapshot.view.segment →
        t.su.front = d.snapshot.buffer ∧ raised (.renderDone n d.outcome) s t ∧
        (s.su.resizing = false → t.su.frontView = some {
          left := d.snapshot.view.left, top := d.snapshot.view.top, width := d.snapshot.view.width
          height := d.snapshot.view.height, reference := d.snapshot.reference
          origin := d.snapshot.view.origin, zoom := d.snapshot.view.zoom, segment := n
          triggerTime := d.snapshot.triggerTime }) ∧
        (s.re.pending = false →
          t.re = { s.re with job := .idle, draw := none, outcome := some d.outcome, bounds := d.bounds
                             readings := d.readings } ∧
          t.segments = s.segments.set n { s.segments[n] with
            holdCount := s.segments[n].holdCount - 1 }) ∧
        (s.re.pending = true → t.re.job = .drawing ∧ t.re.pending = false ∧ t.re.outcome = none ∧
          ∃ e, t.re.draw = some e ∧ e.snapshot.buffer = !d.snapshot.buffer ∧
            t.re.segment = some e.snapshot.view.segment)) ∧
      ChangesOnly [.su, .fill, .re, .job, .segments, .holds, .notices] s t

/-- A grant to scan-out reads the row that is asked for during the current line, the line before it: the bytes
of the front buffer from line times width on, where the frame buffers are scanned (R45, R154, R155). The panel
port shows, at each active pixel, the palette colour of the row's byte, or of index 0 where the row is not
read, with the overlay over it; its data are 0 elsewhere, its syncs stand at their active levels in their
intervals, and with Enabled Off and in Sleep every output is low (R153, R154, R155, R156, R159, R161). The
overlay of the frame's view is, in its area, cursor 1 over cursor 2 over the dashed marker: a line in the
column of its time, by R139, or for a cursor outside an arrow at the edge (R139, R159, R160). The model's
readings are in assumptions 29, 30 and 31. -/
def Obligations.RowReadTakesTheRowOfTheNextLine : Prop :=
  (∀ (s : State) (y address : Nat), nextGrant s = some .scanRow →
    s.su.applied.vSync + s.su.applied.vBack + y =
      (timeDiff s.time s.su.frameStart).toNat / ((s.su.applied.width + s.su.applied.hFront +
        s.su.applied.hSync + s.su.applied.hBack) * s.su.applied.divisor) + 1 →
    address = (s.su.scanBase + (if s.su.front then
        (s.su.applied.width * s.su.applied.height + 65535) / 65536 else 0)) * 65536 +
      y * s.su.applied.width →
    address + s.su.applied.width ≤ totalBlocks s.mp.size * 65536 →
    ∃ t row, exec .scanOutRowRead s = .next t ∧
      t.su = { s.su with shown := s.su.read, read := some row } ∧ row.line = y ∧
      row.pixels.length = s.su.applied.width ∧
      (∀ x < s.su.applied.width, row.pixels.getD x 0 = memRead s.dram (address + x)) ∧
      ChangesOnly [.su] s t) ∧
  (∀ (s : State) (p : Panel) (total line x : Nat), p = s.su.applied →
    total = (p.width + p.hFront + p.hSync + p.hBack) * p.divisor →
    line = (timeDiff s.time s.su.frameStart).toNat / total →
    x = (timeDiff s.time s.su.frameStart).toNat % total / p.divisor →
    (p.enabled = false ∨ s.pru.power = .sleep →
      panelPins s = { clock := false, hSync := false, vSync := false, data := 0 }) ∧
    (p.enabled = true → s.pru.power ≠ .sleep →
      ((panelPins s).hSync = p.hActiveHigh ↔ p.width + p.hFront ≤ x ∧ x < p.width + p.hFront + p.hSync) ∧
      ((panelPins s).vSync = p.vActiveHigh ↔ line < p.vSync) ∧
      (p.width ≤ x ∨ line < p.vSync + p.vBack ∨ p.vSync + p.vBack + p.height ≤ line →
        (panelPins s).data = 0) ∧
      ∀ (y : Nat) (index : Byte), line = p.vSync + p.vBack + y → x < p.width → y < p.height →
        ((∃ f, s.mp.fill = some f ∧ f.kind = .panel) → index = 0) →
        ((∀ f, s.mp.fill = some f → f.kind ≠ .panel) →
          (∀ r, s.su.read = some r → r.line = y → index = r.pixels.getD x 0) ∧
          (∀ r q, s.su.read = some r → r.line ≠ y → s.su.shown = some q → q.line = y →
            index = q.pixels.getD x 0) ∧
          ((∀ r, s.su.read = some r → r.line ≠ y) →
            (s.su.read = none ∨ ∀ q, s.su.shown = some q → q.line ≠ y) → index = 0)) →
        (panelPins s).data = s.su.appliedPalette[((overlayIndex s.su x y).getD index).toFin])) ∧
  (∀ (zoom width : Nat) (d : Int),
    (columnOf zoom width d = .left ↔ d < 0) ∧
    (columnOf zoom width d = .right ↔ (width * zoom : Nat) ≤ d * 256) ∧
    ∀ c : Nat, columnOf zoom width d = .at c ↔ c < width ∧ (c * zoom : Nat) ≤ d * 256 ∧
      d * 256 < ((c + 1) * zoom : Nat)) ∧
  ∀ (su : Su) (x y : Nat),
    (su.frameView = none → overlayIndex su x y = none) ∧
    ∀ v : FrontView, su.frameView = some v →
      (v.reference = none → overlayIndex su x y = none) ∧
      (¬(v.left ≤ x ∧ x < v.left + v.width ∧ v.top ≤ y ∧ y < v.top + v.height) →
        overlayIndex su x y = none) ∧
      ∀ (r : Time) (covers : Cursor → Nat → Prop) (marker : Prop), v.reference = some r →
        v.left ≤ x → x < v.left + v.width → v.top ≤ y → y < v.top + v.height →
        (∀ c m, covers c m ↔ c.enabled = true ∧
          ((∃ k, columnOf v.zoom v.width (c.offset - v.origin) = .at k ∧ x = v.left + k) ∨
            (columnOf v.zoom v.width (c.offset - v.origin) = .left ∧
              ∃ i ≤ 2, x = v.left + i ∧ m ≤ y + (2 - i) ∧ y ≤ m + (2 - i)) ∨
            (columnOf v.zoom v.width (c.offset - v.origin) = .right ∧
              ∃ i ≤ 2, x + 1 + i = v.left + v.width ∧ m ≤ y + (2 - i) ∧ y ≤ m + (2 - i)))) →
        (marker ↔ (y - v.top) % 4 < 2 ∧ ∃ t k, v.triggerTime = some t ∧
          columnOf v.zoom v.width (timeDiff t r - v.origin) = .at k ∧ x = v.left + k) →
        (covers su.appliedCursors.cursor1 (v.top + v.height / 3) →
          overlayIndex su x y = some su.appliedCursors.cursor1.colour) ∧
        (¬covers su.appliedCursors.cursor1 (v.top + v.height / 3) →
          covers su.appliedCursors.cursor2 (v.top + 2 * v.height / 3) →
          overlayIndex su x y = some su.appliedCursors.cursor2.colour) ∧
        (¬covers su.appliedCursors.cursor1 (v.top + v.height / 3) →
          ¬covers su.appliedCursors.cursor2 (v.top + 2 * v.height / 3) →
          (marker → overlayIndex su x y = some su.appliedCursors.marker) ∧
          (¬marker → overlayIndex su x y = none))

/-- A grant to the fill makes one block index 0 and no other byte changes; when no block is left the fill is
complete: the frame buffers are scanned at their new place, and the WRITE that waited replies Done (R47,
R153, R164). That the blocks are taken upward is the model's choice, assumption 50; its
readings are in assumptions 31 and 45. -/
def Obligations.FillClearsABlockAndEndsWithDone : Prop :=
  (∀ (s : State) (f : Fill), nextGrant s = some .fillBlock → s.mp.fill = some f →
    f.next + 1 ≤ totalBlocks s.mp.size →
    ∃ t, exec .frameBufferFillBlock s = .next t ∧
      (∀ x, memRead t.dram x =
        if f.next * 65536 ≤ x ∧ x < (f.next + 1) * 65536 then 0 else memRead s.dram x) ∧
      t.mp.fill = some { f with next := f.next + 1, left := f.left - 1 } ∧
      ChangesOnly [.dram, .fill] s t) ∧
  (∀ (s : State) (f : Fill), s.mp.fill = some f → f.left = 0 →
    ∃ t, exec .fillComplete s = .next t ∧ t.mp.fill = none ∧
      t.su = { s.su with scanBase := s.mp.regions.symbolEnd } ∧
      (∀ tag, s.lp.inProgress = some (.fill tag) → t.lp = { s.lp with
        inProgress := none, slot := some { tag := tag, body := .done [] } }) ∧
      ((∀ tag, s.lp.inProgress ≠ some (.fill tag)) → t.lp = s.lp) ∧
      ChangesOnly [.fill, .su, .slot, .inProgress] s t)

/-! ### The link -/

/-- A whole Command cell arrives: with fewer than 8 cells waiting it joins the queue at the tail; at 8 it is
dropped, the dropped count goes up, saturating, and CommandDropped is raised with its tag and that count: a
notice not pending becomes pending with count 1, a pending one counts on, up to 255, and a masked one does
not change. The arrival restarts the idle timer in Run. A cell of another kind is discarded (R162, R163, R175,
R182, R186). -/
def Obligations.ArrivalJoinsTheQueueOrIsDropped : Prop :=
  ∀ (c : LinkCell) (s : State), c.payload.length = min c.length.toNat 60 →
    ∃ t, exec (.commandCellArrival c) s = .next t ∧
      (c.kind ≠ 0 → t = s) ∧
      (c.kind = 0 → t.pru.idleStart = (if s.pru.power = .run then s.time else s.pru.idleStart) ∧
        (s.lp.queue.length < 8 → t.lp = { s.lp with queue := s.lp.queue ++ [c] }) ∧
        (8 ≤ s.lp.queue.length → ∀ n : Nat, n = min (s.lp.dropped + 1) 4294967295 →
          t.lp.dropped = n ∧ t.lp.queue = s.lp.queue ∧
          t.lp.notices = (if s.pru.table.enables.getLsbD 0 then s.lp.notices.set 0 {
              pending := true
              count := if s.lp.notices[0].pending then min (s.lp.notices[0].count + 1) 255 else 1
              snapshot := some (.commandDropped c.tag n) }
            else s.lp.notices))) ∧
      ChangesOnly [.queue, .dropped, .notices, .idleStart] s t

/-- With the link free the next upstream cell is chosen afresh: the reply in the slot, else the pending notice
of highest priority, else the ready stream cell, else a Fill cell; the three other sends do not occur. A
STATUS report is taken as its reply begins, DEVICE clearing the Changed flags; a notice that is sent is no
longer pending and keeps its snapshot; while a cell is being sent no other begins (R4, R166, R172, R176,
R178). The bytes of a cell are its kind's code, tag, payload length and code, and then its payload; a refusal
code and the snapshot of each kind of notice have the layouts of R186 (R162, R185, R186). That nothing begins
while a link reset is due, and the tag of a Notice cell, are the model's (assumptions 4 and 19),
as is that a send which does not occur changes nothing (assumption 3). -/
def Obligations.SendsFollowTheArbitersOrder : Prop :=
  (∀ s : State, s.lp.resetDue = false →
    (s.lp.sending.isSome → ∀ i ∈ [Instr.sendReply, .sendNotice, .sendStreamCell, .sendFill],
      exec i s = .next s) ∧
    (s.lp.sending = none →
      (∀ r, s.lp.slot = some r →
        (∀ i ∈ [Instr.sendNotice, .sendStreamCell, .sendFill], exec i s = .next s) ∧
        ∃ t cell, exec .sendReply s = .next t ∧ t.lp = { s.lp with sending := some cell } ∧
          cell.kind = .reply ∧ cell.tag = r.tag ∧
          (∀ data, r.body = .done data → cell.code = 0 ∧ cell.payload = data) ∧
          (∀ q, r.body = .status q → cell.code = 0 ∧ cell.payload = reportBytes s q) ∧
          (r.body = .reset → cell.code = 0 ∧ cell.payload = []) ∧
          (r.body = .accepted → cell.code = 1 ∧ cell.payload = []) ∧
          (∀ code index, r.body = .refused code index → cell.code = 2 ∧
            cell.payload = [BitVec.ofNat 8 (refusalNumber code), index]) ∧
          (∀ p : Fin 4, t.pfe.pods[p] =
            if r.body = .status .device then { s.pfe.pods[p] with changed := false } else s.pfe.pods[p]) ∧
          ChangesOnly [.sending, .pods] s t) ∧
      (∀ i : Fin 10, s.lp.slot = none → s.lp.notices[i].pending = true →
        (∀ j : Fin 10, j < i → s.lp.notices[j].pending = false) →
        (∀ x ∈ [Instr.sendReply, .sendStreamCell, .sendFill], exec x s = .next s) ∧
        ∃ t cell, exec .sendNotice s = .next t ∧ t.lp = { s.lp with
            sending := some cell
            notices := s.lp.notices.set i { s.lp.notices[i] with pending := false, count := 0 } } ∧
          cell.kind = .notice ∧ cell.code = BitVec.ofNat 8 (i.val + 1) ∧
          cell.payload = leBytes 1 s.lp.notices[i].count ++ leBytes 4 (s.time.toNat / 400000) ++
            (match s.lp.notices[i].snapshot with
              | some n => snapshotBytes n
              | none => []) ∧
          ChangesOnly [.sending, .notices, .noticesSent] s t) ∧
      (∀ (r : Readout) (d : StreamCell), s.lp.slot = none →
        (∀ j : Fin 10, s.lp.notices[j].pending = false) → s.lp.readout = some r → r.ready = some d →
        (∀ x ∈ [Instr.sendReply, .sendNotice, .sendFill], exec x s = .next s) ∧
        ∃ t, exec .sendStreamCell s = .next t ∧ t.lp = { s.lp with
            readout := some { r with ready := none }
            sending := some {
              kind := .stream, tag := r.tag, code := if r.kind = .records then 0 else 1
              payload := leBytes 4 d.ordinal ++ d.data, items := d.items } } ∧
          ChangesOnly [.sending, .readout] s t) ∧
      (s.lp.slot = none → (∀ j : Fin 10, s.lp.notices[j].pending = false) →
        (∀ r, s.lp.readout = some r → r.ready = none) →
        (∀ x ∈ [Instr.sendReply, .sendNotice, .sendStreamCell], exec x s = .next s) ∧
        ∃ t, exec .sendFill s = .next t ∧ t.lp = { s.lp with
            sending := some { kind := .fill, tag := 0, code := 0, payload := [], items := 0 } } ∧
          ChangesOnly [.sending] s t))) ∧
  (∀ c : UpCell, ∃ kind : Byte, upCellBytes c =
      kind :: c.tag :: BitVec.ofNat 8 c.payload.length :: c.code :: c.payload ∧
    (c.kind = .reply → kind = 1) ∧ (c.kind = .stream → kind = 2) ∧ (c.kind = .notice → kind = 3) ∧
    (c.kind = .fill → kind = 4)) ∧
  (∀ (c : RefusalCode) (i : Nat), [RefusalCode.badCommand, .badTable, .badIndex, .badLength, .badValue,
    .busy, .outOfRegion, .overlap, .held, .notPlanned, .retained, .notClosed, .rateTooHigh,
    .channelUnavailable, .laneNeedsTiming, .asleep][i]? = some c → refusalNumber c = i + 1) ∧
  (∀ (k n i : Nat), (leBytes k n).length = k ∧
    (i < k → byteAt (leBytes k n) i = n / 256 ^ i % 256)) ∧
  ∀ (q : NoticeSnapshot) (b : List Byte), b = snapshotBytes q →
    (∀ tag count, q = .commandDropped tag count →
      b.length = 5 ∧ byteAt b 0 = tag.toNat ∧ bytesAt b 1 4 = leBytes 4 count) ∧
    (∀ n t c, q = .triggered n t c →
      b.length = 8 ∧ byteAt b 0 = n ∧ bytesAt b 1 6 = leBytes 6 t.toNat ∧
      (∀ k : Fin 8, c = .stage k → byteAt b 7 = k) ∧ (c = .forced → byteAt b 7 = 8)) ∧
    (∀ n reason count, q = .captureClosed n reason count →
      b.length = 6 ∧ byteAt b 0 = n ∧ bytesAt b 2 4 = leBytes 4 count ∧
      (reason, byteAt b 1) ∈ [(EndReason.postComplete, 0), (.memoryLimit, 1), (.stalled, 2), (.stopped, 3),
        (.reset, 4)]) ∧
    (∀ done reason, q = .sequenceEnded done reason →
      b.length = 2 ∧ byteAt b 0 = done % 256 ∧
      (reason, byteAt b 1) ∈ [(SequenceEnd.complete, 0), (.noSegment, 1), (.stopped, 2)]) ∧
    (∀ l, q = .laneLost l → b.length = 1 ∧ byteAt b 0 = l) ∧
    (∀ pod present, q = .podChange pod present →
      b.length = 2 ∧ byteAt b 0 = pod ∧ byteAt b 1 = if present then 1 else 0) ∧
    (∀ n status count lost, q = .redecodeDone n status count lost →
      b.length = 10 ∧ byteAt b 0 = n ∧ bytesAt b 2 4 = leBytes 4 count ∧ bytesAt b 6 4 = leBytes 4 lost ∧
      (status, byteAt b 1) ∈ [(SymbolStatus.complete, 0), (.truncated, 1), (.redecoded, 2),
        (.redecodedTruncated, 3), (.incomplete, 4)]) ∧
    (∀ n outcome, q = .renderDone n outcome →
      b.length = 2 ∧ byteAt b 0 = n ∧
      (outcome, byteAt b 1) ∈ [(RenderOutcome.done, 0), (.noData, 1), (.overrun, 2), (.aborted, 3),
        (.annotationsOmitted, 4)]) ∧
    (∀ n kind items complete, q = .readoutDone n kind items complete →
      b.length = 7 ∧ byteAt b 0 = n ∧ byteAt b 1 = (if kind = .records then 0 else 1) ∧
      bytesAt b 2 4 = leBytes 4 items ∧ byteAt b 6 = if complete then 0 else 1) ∧
    (∀ k : Fin 32, q = .wake (.activity k) → b.length = 2 ∧ byteAt b 0 = 0 ∧ byteAt b 1 = k) ∧
    (q = .wake .link → b.length = 2 ∧ byteAt b 0 = 1 ∧ byteAt b 1 = 255)

/-- The last byte of a cell leaves and the link is free: a reply empties the reply slot, and after the reply
of a RESET the link reset is due; a stream cell counts its items, and with the run sent or a CANCEL taken the
readout ends: its hold goes and ReadoutDone is raised (R56, R164, R166, R173, R174). The model's reading is in
assumption 19. -/
def Obligations.CellsThatHaveLeftFreeTheLink : Prop :=
  ∀ (s : State) (c : UpCell), s.lp.sending = some c →
    (c.kind = .reply → ∃ t, exec .replySent s = .next t ∧ t.lp.sending = none ∧ t.lp.slot = none ∧
      (t.lp.resetDue = true ↔ ∃ r, s.lp.slot = some r ∧ r.body = .reset) ∧
      ChangesOnly [.sending, .slot, .resetDue] s t) ∧
    (c.kind = .notice → ∃ t, exec .noticeCellSent s = .next t ∧ t.lp.sending = none ∧
      ChangesOnly [.sending] s t) ∧
    (c.kind = .fill → ∃ t, exec .fillCellSent s = .next t ∧ t.lp.sending = none ∧
      ChangesOnly [.sending] s t) ∧
    (c.kind = .stream → ∃ t, exec .streamCellSent s = .next t ∧ t.lp.sending = none ∧
      (s.lp.readout = none → ChangesOnly [.sending] s t) ∧
      (∀ r, s.lp.readout = some r →
        (r.cancelled = false → r.sent + c.items ≠ r.length →
          t.lp.readout = some { r with sent := r.sent + c.items } ∧ ChangesOnly [.sending, .readout] s t) ∧
        (r.cancelled = true ∨ r.sent + c.items = r.length → t.lp.readout = none ∧
          t.segments = s.segments.set r.segment { s.segments[r.segment] with
            holdCount := s.segments[r.segment].holdCount - 1 } ∧
          raised (.readoutDone r.segment r.kind (r.sent + c.items)
            (decide (r.sent + c.items = r.length))) s t ∧
          ChangesOnly [.sending, .readout, .segments, .holds, .notices] s t)))

/-- The form checks of a dispatched command come first: a code that names no command is refused BadCommand, a
Length above 60 BadLength whatever the payload holds, a payload that has not the length of the command's
arguments BadLength, and in Sleep a command other than POWER, STATUS and RESET Asleep; nothing else changes
but the idle timer (R165, R170, R181, R186). The model's reading is in assumption 8. -/
def Obligations.FormIsCheckedBeforeTheCommand : Prop :=
  (∀ (c : LinkCell) (rest : List LinkCell) (s : State), Ready c rest s →
    (c.code.toNat = 0 ∨ 13 < c.code.toNat → refuses .badCommand c rest .badCommand 0 s) ∧
    (∀ k, (c.code.toNat, k) ∈ [(2, 3), (3, 1), (4, 0), (5, 0), (6, 1), (7, 0), (8, 0), (9, 10), (10, 0),
        (11, 2), (12, 1), (13, 0)] →
      (c.payload.length ≠ k → refuses (commandRow c) c rest .badLength 0 s) ∧
      (c.payload.length = k → c.code.toNat ≤ 10 → s.pru.power = .sleep →
        refuses (commandRow c) c rest .asleep 0 s)) ∧
    (c.code.toNat = 1 → s.pru.power = .sleep → refuses (commandRow c) c rest .asleep 0 s)) ∧
  ∀ (c : LinkCell) (rest : List LinkCell) (s : State), s.lp.queue = c :: rest → s.lp.slot = none →
    s.lp.inProgress = none → s.pru.wake = none → s.lp.resetDue = false → waitsForTick c s = false →
    60 < c.length.toNat →
    (1 ≤ c.code.toNat → c.code.toNat ≤ 13 → refuses (commandRow c) c rest .badLength 0 s) ∧
    (c.code.toNat = 0 ∨ 13 < c.code.toNat → refuses .badCommand c rest .badCommand 0 s)

/-- READOUT, in Run or Standby: the checks in the order of R171. When all pass it replies Accepted, holds the
segment and fixes its run: the count clamped to the items from the first ordinal on, and an empty run where
there are none, which ends at once with ReadoutDone and no hold (R56, R171, R173, R181). -/
def Obligations.ReadoutChecksInOrderAndFixesItsRun : Prop :=
  ∀ (c : LinkCell) (rest : List LinkCell) (s : State) (segment kind : Byte) (first count : Nat),
    Ready c rest s → c.code = 9 → s.pru.power ≠ .sleep → first < 4294967296 → count < 4294967296 →
    c.payload = [segment, kind] ++ leBytes 4 first ++ leBytes 4 count →
    (31 < segment.toNat ∨ 1 < kind.toNat → refusesInRun .readout c rest .badValue s) ∧
    ∀ (n : Fin 32) (k : ItemKind) (items length : Nat), segment.toNat = n.val →
      kind.toNat = (if k = .records then 0 else 1) →
      items = (if k = .records then s.segments[n].recordCount else s.segments[n].symbolCount) →
      length = min count (items - first) →
      (s.lp.readout.isSome → refusesInRun .readout c rest .busy s) ∧
      (s.lp.readout = none → s.segments[n].state ≠ .closed → refusesInRun .readout c rest .notClosed s) ∧
      (s.lp.readout = none → s.segments[n].state = .closed → k = .symbols →
        (∃ r, s.redecode = some r ∧ r.segment = n) → refusesInRun .readout c rest .busy s) ∧
      (s.lp.readout = none → s.segments[n].state = .closed →
        (k = .symbols → ∀ r, s.redecode = some r → r.segment ≠ n) →
        ∃ t, exec .readout s = .next t ∧ answered c rest .accepted t ∧ t.pru.power = .run ∧
          (length ≠ 0 → t.lp.readout = some {
              tag := c.tag, segment := n, kind := k, next := first, left := length, length := length
              sent := 0, ready := none, cancelled := false } ∧
            t.segments = s.segments.set n { s.segments[n] with
              holdCount := s.segments[n].holdCount + 1 } ∧
            ChangesOnly (withDispatch [.readout, .segments, .holds, .power]) s t) ∧
          (length = 0 → raised (.readoutDone n k 0 true) s t ∧
            ChangesOnly (withDispatch [.notices, .power]) s t))

/-- A grant to the readout reads the items of its next cell, 7 records or 3 symbols or what is left of the
run, each from the position its ordinal has in the ring or the span, and the cell is ready (R52, R172). -/
def Obligations.ReadoutReadMakesTheNextCellReady : Prop :=
  ∀ (s : State) (r : Readout) (items size : Nat) (address : Nat → Nat), nextGrant s = some .readout →
    s.lp.readout = some r →
    items = min r.left (if r.kind = .records then 7 else 3) →
    size = (if r.kind = .records then 8 else 16) →
    (∀ i, address i = if r.kind = .records then
        s.plan[r.segment].captureFirst * 65536 + (s.segments[r.segment].oldest.getD 0 + (r.next + i)) %
          (s.plan[r.segment].captureCount * 8192) * 8
      else s.plan[r.segment].symbolFirst * 65536 + (s.segments[r.segment].symbolFirst.getD 0 +
          (r.next + i)) % (s.plan[r.segment].symbolCount * 4096) * 16) →
    (∀ i < items, address i + size ≤ totalBlocks s.mp.size * 65536) →
    ∃ t d, exec .readoutRead s = .next t ∧
      t.lp.readout = some { r with next := r.next + items, left := r.left - items, ready := some d } ∧
      d.ordinal = r.next ∧ d.items = items ∧ d.data.length = items * size ∧
      (∀ i < items, ∀ b < size, d.data.getD (i * size + b) 0 = memRead s.dram (address i + b)) ∧
      ChangesOnly [.readout] s t

/-- CANCEL replies Done and has no other effect without a readout. A readout ends at once, unless a stream
cell is being sent, which it waits for; a ready cell is discarded. At its end the hold goes and ReadoutDone is
raised with the items sent, complete if they are the whole run (R56, R173). -/
def Obligations.CancelEndsTheReadout : Prop :=
  ∀ (c : LinkCell) (rest : List LinkCell) (s : State), Ready c rest s → c.code = 10 → c.payload = [] →
    s.pru.power ≠ .sleep →
    ∃ t, exec .cancel s = .next t ∧ answered c rest (.done []) t ∧
      (s.lp.readout = none → ChangesOnly dispatchParts s t) ∧
      (∀ r, s.lp.readout = some r →
        ((∃ u, s.lp.sending = some u ∧ u.kind = .stream) →
          t.lp.readout = some { r with ready := none, cancelled := true } ∧
          ChangesOnly (withDispatch [.readout]) s t) ∧
        ((∀ u, s.lp.sending = some u → u.kind ≠ .stream) → t.lp.readout = none ∧
          t.segments = s.segments.set r.segment { s.segments[r.segment] with
            holdCount := s.segments[r.segment].holdCount - 1 } ∧
          raised (.readoutDone r.segment r.kind r.sent (decide (r.sent = r.length))) s t ∧
          ChangesOnly (withDispatch [.readout, .segments, .holds, .notices]) s t))

/-! ### Tables -/

/-- Every WRITE is checked in the order of R167 before its entries: a payload under two bytes BadLength, a
table above 16 BadTable, a part of an entry BadLength, entries past the table's end BadIndex, and a table
whose write condition does not hold Busy with the first index; nothing is stored (R167, R168). The model's
reading is in assumption 8. -/
def Obligations.WriteIsCheckedBeforeItsEntries : Prop :=
  ∀ (c : LinkCell) (rest : List LinkCell) (s : State), Ready c rest s → c.code = 1 → s.pru.power ≠ .sleep →
    (c.payload.length < 2 → refuses (commandRow c) c rest .badLength 0 s) ∧
    ∀ (table first : Byte) (bytes : List Byte) (size entries : Nat) (free : Prop),
      c.payload = table :: first :: bytes →
      size = [20, 4, 8, 4, 10, 16, 20, 8, 16, 8, 24, 24, 8, 2, 8, 16, 8].getD table.toNat 1 →
      entries = [1, 4, 2, 1, 32, 16, 8, 2, 4, 32, 41, 41, 3, 256, 64, 1, 1].getD table.toNat 0 →
      (free ↔ s.ce.engine = .idle ∧ s.redecode = none) →
      (16 < table.toNat → refuses (commandRow c) c rest .badTable 0 s) ∧
      (table.toNat ≤ 16 →
        (bytes.length % size ≠ 0 → refuses (commandRow c) c rest .badLength 0 s) ∧
        (bytes.length % size = 0 →
          (entries ≤ first.toNat ∨ entries < first.toNat + bytes.length / size →
            refuses (commandRow c) c rest .badIndex 0 s) ∧
          (first.toNat < entries → first.toNat + bytes.length / size ≤ entries →
            (table.toNat ∈ [0, 1, 4, 5, 6, 7, 8, 9] → ¬free →
              refuses (commandRow c) c rest .busy first s) ∧
            (table.toNat = 3 → ¬free ∨ s.re.job ≠ .idle ∨ s.lp.readout.isSome →
              refuses (commandRow c) c rest .busy first s) ∧
            (table.toNat = 10 → s.re.active = .a → refuses (commandRow c) c rest .busy first s) ∧
            (table.toNat = 11 → s.re.active = .b → refuses (commandRow c) c rest .busy first s) ∧
            (table.toNat = 14 ∨ table.toNat = 15 → s.re.job = .drawing →
              refuses (commandRow c) c rest .busy first s))))

/-- A WRITE of one entry of table 0, 5 to 11, 13 or 14 whose write condition holds: an entry its reader takes
is stored at its index and the reply is Done; one it refuses is refused BadValue with its index and changes
nothing. The entries refused are those with a field, or a code, outside its range where the table's rule gives
no other treatment; what is stored is each field of the entry, clamped as the rule gives (R9, R30, R66, R71,
R75, R86, R87, R118, R131, R132, R156, R157, R167, R187). The model's readings are in assumptions 21, for the
Stop bits of an Async lane, and 61, for bits that no layout names. -/
def Obligations.WriteStoresAnEntryOrRefusesIt : Prop :=
  (∀ (c : LinkCell) (rest : List LinkCell) (s : State) (table : Byte) (k : Nat) (e : List Byte)
    (stored : (State → State → Prop) → List Part → Prop),
    Ready c rest s → c.code = 1 → s.pru.power ≠ .sleep → k < 256 →
    c.payload = table :: BitVec.ofNat 8 k :: e →
    (table.toNat ≤ 9 → s.ce.engine = .idle ∧ s.redecode = none) →
    (∀ effect parts, stored effect parts ↔ ∃ t, exec .write s = .next t ∧ answered c rest (.done []) t ∧
      effect s t ∧ ChangesOnly (withDispatch parts) s t) →
    (table = 0 → k = 0 → e.length = 20 → match readAcq e with
      | some v => stored (fun s t => t.ce = { s.ce with table := v }) [.acqTable, .ce]
      | none => refuses .write c rest .badValue 0 s) ∧
    (∀ i : Fin 16, table = 5 → k = i.val → e.length = 16 → match readTerm e with
      | some v => stored (fun s t => t.ts = { s.ts with terms := s.ts.terms.set i v }) [.tsTables, .ts]
      | none => refuses .write c rest .badValue (BitVec.ofNat 8 k) s) ∧
    (∀ i : Fin 8, table = 6 → k = i.val → e.length = 20 → match readStage e with
      | some v => stored (fun s t => t.ts = { s.ts with stages := s.ts.stages.set i v }) [.tsTables, .ts]
      | none => refuses .write c rest .badValue (BitVec.ofNat 8 k) s) ∧
    (∀ i : Fin 2, table = 7 → k = i.val → e.length = 8 → match readCounter e with
      | some v =>
        stored (fun s t => t.ts = { s.ts with counterTable := s.ts.counterTable.set i v }) [.tsTables, .ts]
      | none => refuses .write c rest .badValue (BitVec.ofNat 8 k) s) ∧
    (∀ i : Fin 4, table = 8 → k = i.val → e.length = 16 → match readLane e with
      | some v => stored (fun s t => t.laneTable = s.laneTable.set i v) [.laneTable]
      | none => refuses .write c rest .badValue (BitVec.ofNat 8 k) s) ∧
    (∀ i : Fin 32, table = 9 → k = i.val → e.length = 8 → match readField e with
      | some v => stored (fun s t => t.fieldMap = s.fieldMap.set i v) [.fieldMap]
      | none => refuses .write c rest .badValue (BitVec.ofNat 8 k) s) ∧
    (table = 10 → k = 0 → e.length = 24 → s.re.active = .b →
      match readView s.su.panel.width s.su.panel.height e with
      | some v => stored (fun s t => t.re = { s.re with setA := { s.re.setA with view := v } })
          [.viewSets, .re]
      | none => refuses .write c rest .badValue 0 s) ∧
    (table = 11 → k = 0 → e.length = 24 → s.re.active = .a →
      match readView s.su.panel.width s.su.panel.height e with
      | some v => stored (fun s t => t.re = { s.re with setB := { s.re.setB with view := v } })
          [.viewSets, .re]
      | none => refuses .write c rest .badValue 0 s) ∧
    (∀ i : Fin 40, table = 10 → k = i.val + 1 → e.length = 24 → s.re.active = .b → match readRow e with
      | some v => stored (fun s t => t.re =
          { s.re with setA := { s.re.setA with rows := s.re.setA.rows.set i v } }) [.viewSets, .re]
      | none => refuses .write c rest .badValue (BitVec.ofNat 8 k) s) ∧
    (∀ i : Fin 40, table = 11 → k = i.val + 1 → e.length = 24 → s.re.active = .a → match readRow e with
      | some v => stored (fun s t => t.re =
          { s.re with setB := { s.re.setB with rows := s.re.setB.rows.set i v } }) [.viewSets, .re]
      | none => refuses .write c rest .badValue (BitVec.ofNat 8 k) s) ∧
    (∀ i : Fin 256, table = 13 → k = i.val → e.length = 2 →
      stored (fun s t => t.su =
        { s.su with palette := s.su.palette.set i (BitVec.ofNat 16 (numAt e 0 2)) }) [.palette, .su]) ∧
    (∀ i : Fin 64, table = 14 → k = i.val → e.length = 8 → s.re.job ≠ .drawing →
      stored (fun s t => t.su =
        { s.su with glyphs := s.su.glyphs.set i (BitVec.ofNat 60 (numAt e 0 8)) }) [.glyphs, .su])) ∧
  ∀ e : List Byte,
    ((readAcq e = none ↔ acqRefused e) ∧ ∀ v, readAcq e = some v → AcqStored e v) ∧
    ((readTerm e = none ↔ termRefused e) ∧ ∀ v, readTerm e = some v → TermStored e v) ∧
    (e.length = 20 → (readStage e = none ↔ branchRefused e 0 ∨ branchRefused e 10) ∧
      ∀ v, readStage e = some v → BranchStored e 0 v.primary ∧ BranchStored e 10 v.secondary) ∧
    ((readCounter e = none ↔ counterRefused e) ∧ ∀ v, readCounter e = some v → CounterStored e v) ∧
    ((readLane e = none ↔ laneRefused e) ∧ ∀ v, readLane e = some v → LaneStored e v) ∧
    ((readField e = none ↔ fieldRefused e) ∧ ∀ v, readField e = some v → FieldStored e v) ∧
    (e.length = 24 → ∀ w h, (readView w h e = none ↔ 31 < byteAt e 0 ∨ 1 < byteAt e 1) ∧
      ∀ v, readView w h e = some v → ViewStored w h e v) ∧
    ((readRow e = none ↔ rowRefused e) ∧ ∀ v, readRow e = some v → RowStored e v)

/-- A WRITE of one pod entry stores the threshold clamped to 5 V and rounded toward zero to 10 mV and the
hysteresis as 0, 25, 50 or 100 mV, and the pod's comparators decide with it at once; one of a generator
entry restarts its output in its mode; one of a cursor stores it and makes a render's readings stale; one of
table 16 restarts the idle timer in Run (R1, R2, R3, R14, R15, R151, R158, R177, R182). The model's
readings are in assumptions 36, 58, 59 and 61. -/
def Obligations.WritesThatActAtOnce : Prop :=
  ∀ (c : LinkCell) (rest : List LinkCell) (s : State) (e : List Byte),
    Ready c rest s → c.code = 1 → s.pru.power ≠ .sleep →
    (∀ (i : Fin 4) (mv : Int), c.payload = 1 :: BitVec.ofNat 8 i :: e → e.length = 4 →
      s.ce.engine = .idle → s.redecode = none → mv = (BitVec.ofNat 16 (numAt e 0 2)).toInt →
      ∃ t v, exec .writePods s = .next t ∧ answered c rest (.done []) t ∧
        v = { threshold := (max (-5000) (min 5000 mv)).tdiv 10 * 10
              hysteresis := if numAt e 2 2 = 0 ∨ numAt e 2 2 = 25 ∨ numAt e 2 2 = 50 then numAt e 2 2
                else 100 } ∧
        t.pfe.table = s.pfe.table.set i v ∧
        (∀ k : Fin 32, t.pfe.outputs.getLsbD k =
          if podOf k ≠ i then s.pfe.outputs.getLsbD k
          else if 2 * v.threshold + v.hysteresis < s.pfe.inputs[k] then true
          else if s.pfe.inputs[k] ≤ 2 * v.threshold - v.hysteresis then false
          else s.pfe.outputs.getLsbD k) ∧
        ChangesOnly (withDispatch [.podTable, .outputs]) s t) ∧
    (∀ i : Fin 2, c.payload = 2 :: BitVec.ofNat 8 i :: e → e.length = 8 →
      (3 < byteAt e 0 → refuses .writeGenerator c rest .badValue (BitVec.ofNat 8 i) s) ∧
      (byteAt e 0 ≤ 3 → ∃ t v, exec .writeGenerator s = .next t ∧ answered c rest (.done []) t ∧
        v.half = max 1 (min 16777216 (numAt e 4 4)) ∧ v.burst = max 1 (numAt e 2 2) ∧
        t.gen.table = s.gen.table.set i v ∧
        (∀ o, o = t.gen.outputs[i] →
          (byteAt e 0 = 0 → v.mode = .off ∧ o.level = false ∧ o.run = .held) ∧
          (byteAt e 0 = 1 → v.mode = .square ∧ o.level = true ∧ o.run = .running ∧ o.ticksLeft = v.half) ∧
          (byteAt e 0 = 2 → v.mode = .burst ∧ o.level = true ∧ o.run = .bursting ∧
            o.ticksLeft = v.half ∧ o.periodsLeft = v.burst) ∧
          (byteAt e 0 = 3 → v.mode = .burstOnTrigger ∧ o.level = false ∧ o.run = .waiting)) ∧
        (∀ j : Fin 2, j ≠ i → t.gen.outputs[j] = s.gen.outputs[j]) ∧
        t.gen.loopCounter = (if i = 0 ∧ s.gen.outputs[i].level = false ∧ t.gen.outputs[i].level = true then
          s.gen.loopCounter + 1 else s.gen.loopCounter) ∧
        ChangesOnly (withDispatch [.genTable, .genOutputs, .loopCounter]) s t)) ∧
    (∀ k : Nat, k < 3 → c.payload = 12 :: BitVec.ofNat 8 k :: e → e.length = 8 →
      ∃ t, exec .writeCursors s = .next t ∧ answered c rest (.done []) t ∧
        (∀ u : Cursor, u = {
            enabled := (e.getD 0 0).getLsbD 0, colour := e.getD 1 0
            offset := max (-140737488355327) (BitVec.ofNat 48 (numAt e 2 6)).toInt } →
          (k = 0 → t.su = { s.su with cursors := { s.su.cursors with cursor1 := u } }) ∧
          (k = 1 → t.su = { s.su with cursors := { s.su.cursors with cursor2 := u } }) ∧
          (k = 2 → t.su = { s.su with cursors := { s.su.cursors with marker := e.getD 1 0 } })) ∧
        t.re = { s.re with stale := s.re.stale || decide (k < 2 ∧ s.re.segment.isSome) } ∧
        ChangesOnly (withDispatch [.cursors, .su, .re]) s t) ∧
    (c.payload = 16 :: 0 :: e → e.length = 8 →
      ∃ t, exec .writePowerAndNotice s = .next t ∧ answered c rest (.done []) t ∧
        t.pru.table = {
          enables := BitVec.ofNat 10 (numAt e 0 2), exponent := min 15 (byteAt e 2)
          wakeMask := BitVec.ofNat 32 (numAt e 4 4) } ∧
        (s.pru.power = .run → t.pru.idleStart = s.time) ∧
        ChangesOnly (withDispatch [.powerTable]) s t)

/-- A WRITE of table 3 or 15 whose write condition holds: the refusals of R46 and R153 in their order, else
the entry is stored. Regions with a new symbol end begin the fill of both frame buffers at their new place,
and a panel of a new size waits for the frame boundary; the reply then waits for the fill, and is Done at once
otherwise. A panel entry whose Enabled is neither Off nor On is refused BadValue, and the other fields are
clamped (R45, R46, R47, R152, R153, R164, R168, R187). That the fill begins at the
symbol end is the model's choice, assumption 50; its readings are in assumptions 31, 37, 45 and 61. -/
def Obligations.WritesThatMoveTheFrameBuffers : Prop :=
  ∀ (c : LinkCell) (rest : List LinkCell) (s : State) (e : List Byte),
    Ready c rest s → c.code = 1 → s.pru.power ≠ .sleep →
    (∀ (capture symbol : Nat) (outside : Prop), c.payload = 3 :: 0 :: e → e.length = 4 →
      s.ce.engine = .idle → s.redecode = none → s.re.job = .idle → s.lp.readout = none → s.mp.fill = none →
      capture = numAt e 0 2 → symbol = numAt e 2 2 →
      (outside ↔ ∃ n : Fin 32, s.plan[n].planned = true ∧
        (capture < s.plan[n].captureFirst + s.plan[n].captureCount ∨ s.plan[n].symbolCount ≠ 0 ∧
          (s.plan[n].symbolFirst < capture ∨
            symbol < s.plan[n].symbolFirst + s.plan[n].symbolCount))) →
      (capture < 1 ∨ symbol < capture ∨ totalBlocks s.mp.size < symbol →
        refuses .writeRegions c rest .badValue 0 s) ∧
      (1 ≤ capture → capture ≤ symbol → symbol ≤ totalBlocks s.mp.size →
        (outside ∨ totalBlocks s.mp.size - symbol <
            2 * ((s.su.panel.width * s.su.panel.height + 65535) / 65536) →
          refuses .writeRegions c rest .outOfRegion 0 s) ∧
        (¬outside → 2 * ((s.su.panel.width * s.su.panel.height + 65535) / 65536) ≤
            totalBlocks s.mp.size - symbol →
          ∃ t, exec .writeRegions s = .next t ∧ t.lp.queue = rest ∧
            t.mp.regions = { captureEnd := capture, symbolEnd := symbol } ∧
            (symbol = s.mp.regions.symbolEnd → answered c rest (.done []) t ∧
              ChangesOnly (withDispatch [.regions]) s t) ∧
            (symbol ≠ s.mp.regions.symbolEnd → t.lp.slot = none ∧ t.lp.inProgress = some (.fill c.tag) ∧
              t.mp.fill = some {
                kind := .region, next := symbol
                left := 2 * ((s.su.panel.width * s.su.panel.height + 65535) / 65536) } ∧
              ChangesOnly (withDispatch [.regions, .fill, .inProgress]) s t)))) ∧
    (c.payload = 15 :: 0 :: e → e.length = 16 → s.re.job ≠ .drawing → s.su.resizing = false →
      (readPanel e = none → refuses .writePanel c rest .badValue 0 s) ∧
      (readPanel e = none ↔ 1 < byteAt e 0) ∧ (∀ p, readPanel e = some p → PanelStored e p) ∧
      ∀ (p : Panel) (resized : Prop), readPanel e = some p →
        (resized ↔ p.width ≠ s.su.panel.width ∨ p.height ≠ s.su.panel.height) →
        (resized → s.re.job = .waitFlip → refuses .writePanel c rest .busy 0 s) ∧
        (¬resized ∨ s.re.job = .idle → totalBlocks s.mp.size - s.mp.regions.symbolEnd <
            2 * ((p.width * p.height + 65535) / 65536) →
          refuses .writePanel c rest .outOfRegion 0 s) ∧
        (¬resized ∨ s.re.job = .idle → 2 * ((p.width * p.height + 65535) / 65536) ≤
            totalBlocks s.mp.size - s.mp.regions.symbolEnd →
          ∃ t, exec .writePanel s = .next t ∧ t.lp.queue = rest ∧ t.su.panel = p ∧
            (¬resized → answered c rest (.done []) t ∧ t.su = { s.su with panel := p } ∧
              ChangesOnly (withDispatch [.panel, .su]) s t) ∧
            (resized → t.lp.slot = none ∧ t.lp.inProgress = some (.fill c.tag) ∧
              t.su = { s.su with panel := p, resizing := true } ∧
              ChangesOnly (withDispatch [.panel, .su, .inProgress]) s t)))

/-- A WRITE of one entry of the segment plan: the checks in the order of R50, and an entry that passes is
written and makes the segment's status record Empty, its holds kept. Of two entries the second is checked
against the plan with the first written, so it is refused Overlap where its capture span shares a block with
the first's; where it is refused the first stays written (R49, R50, R51, R54, R167). -/
def Obligations.PlanWriteChecksEachEntry : Prop :=
  ∀ (c : LinkCell) (rest : List LinkCell) (s : State) (k : Fin 32) (e : List Byte) (p : PlanEntry)
    (outside overlaps : Prop),
    Ready c rest s → c.code = 1 → s.pru.power ≠ .sleep → s.ce.engine = .idle → s.redecode = none →
    e.length = 10 → byteAt e 0 ≤ 1 →
    p = { planned := decide (byteAt e 0 = 1), captureFirst := numAt e 2 2, captureCount := numAt e 4 2
          symbolFirst := numAt e 6 2, symbolCount := numAt e 8 2 } →
    (outside ↔ s.mp.regions.captureEnd < p.captureFirst + p.captureCount ∨ p.symbolCount ≠ 0 ∧
      (p.symbolFirst < s.mp.regions.captureEnd ∨
        s.mp.regions.symbolEnd < p.symbolFirst + p.symbolCount)) →
    (overlaps ↔ ∃ m : Fin 32, m ≠ k ∧ s.plan[m].planned = true ∧
      ((∃ b, p.captureFirst ≤ b ∧ b < p.captureFirst + p.captureCount ∧
          s.plan[m].captureFirst ≤ b ∧ b < s.plan[m].captureFirst + s.plan[m].captureCount) ∨
        ∃ b, p.symbolFirst ≤ b ∧ b < p.symbolFirst + p.symbolCount ∧
          s.plan[m].symbolFirst ≤ b ∧ b < s.plan[m].symbolFirst + s.plan[m].symbolCount)) →
    (c.payload = 4 :: BitVec.ofNat 8 k :: e →
      (s.segments[k].holdCount ≠ 0 → refuses .writeSegmentPlan c rest .held (BitVec.ofNat 8 k) s) ∧
      (s.segments[k].holdCount = 0 → p.planned = true →
        (p.captureCount = 0 → refuses .writeSegmentPlan c rest .badValue (BitVec.ofNat 8 k) s) ∧
        (p.captureCount ≠ 0 → outside →
          refuses .writeSegmentPlan c rest .outOfRegion (BitVec.ofNat 8 k) s) ∧
        (p.captureCount ≠ 0 → ¬outside → overlaps →
          refuses .writeSegmentPlan c rest .overlap (BitVec.ofNat 8 k) s)) ∧
      (s.segments[k].holdCount = 0 → p.planned = false ∨ p.captureCount ≠ 0 ∧ ¬outside ∧ ¬overlaps →
        ∃ t, exec .writeSegmentPlan s = .next t ∧ answered c rest (.done []) t ∧
          t.plan = s.plan.set k p ∧
          t.segments = s.segments.set k (emptySegment s.segments[k].holdCount) ∧
          ChangesOnly (withDispatch [.plan, .segments]) s t)) ∧
    (∀ (n : Fin 32) (f : List Byte), c.payload = 4 :: BitVec.ofNat 8 k :: (e ++ f) → f.length = 10 →
      n.val = k.val + 1 → s.segments[k].holdCount = 0 → p.planned = false → s.segments[n].holdCount ≠ 0 →
      ∃ t, exec .writeSegmentPlan s = .next t ∧ answered c rest (.refused .held (BitVec.ofNat 8 n)) t ∧
        t.plan = s.plan.set k p ∧ t.segments = s.segments.set k (emptySegment 0) ∧
        ChangesOnly (withDispatch [.plan, .segments]) s t) ∧
    (∀ (n : Fin 32) (f : List Byte) (first count b : Nat), c.payload = 4 :: BitVec.ofNat 8 k :: (e ++ f) →
      f.length = 10 → n.val = k.val + 1 → s.segments[k].holdCount = 0 → s.segments[n].holdCount = 0 →
      p.planned = true → p.captureCount ≠ 0 → ¬outside → ¬overlaps →
      byteAt f 0 = 1 → first = numAt f 2 2 → count = numAt f 4 2 →
      first + count ≤ s.mp.regions.captureEnd →
      (numAt f 8 2 = 0 ∨ s.mp.regions.captureEnd ≤ numAt f 6 2 ∧
        numAt f 6 2 + numAt f 8 2 ≤ s.mp.regions.symbolEnd) →
      first ≤ b → b < first + count → p.captureFirst ≤ b → b < p.captureFirst + p.captureCount →
      ∃ t, exec .writeSegmentPlan s = .next t ∧
        answered c rest (.refused .overlap (BitVec.ofNat 8 n)) t ∧
        t.plan = s.plan.set k p ∧ t.segments = s.segments.set k (emptySegment 0) ∧
        ChangesOnly (withDispatch [.plan, .segments]) s t)

/-- READ of a table above 16 is refused BadTable, and from an index past its table BadIndex; otherwise it
replies Done with the first index, the number of entries returned and the entries as stored, as many as the
least of the count, the entries left in the table and those that fit in 60 bytes. It changes no state (R169).
-/
def Obligations.ReadReturnsTheStoredEntries : Prop :=
  ∀ (c : LinkCell) (rest : List LinkCell) (s : State) (table first count : Byte) (size entries n : Nat),
    Ready c rest s → c.code = 2 → c.payload = [table, first, count] → s.pru.power ≠ .sleep →
    size = [20, 4, 8, 4, 10, 16, 20, 8, 16, 8, 24, 24, 8, 2, 8, 16, 8].getD table.toNat 1 →
    entries = [1, 4, 2, 1, 32, 16, 8, 2, 4, 32, 41, 41, 3, 256, 64, 1, 1].getD table.toNat 0 →
    n = min count.toNat (min (entries - first.toNat) ((60 - 2) / size)) →
    (16 < table.toNat → refuses .read c rest .badTable 0 s) ∧
    (table.toNat ≤ 16 → entries ≤ first.toNat → refuses .read c rest .badIndex 0 s) ∧
    (table.toNat ≤ 16 → first.toNat < entries →
      ∃ t, exec .read s = .next t ∧
        answered c rest (.done ([first, BitVec.ofNat 8 n] ++
          (List.range n).flatMap fun i => entryBytes s table.toNat (first.toNat + i))) t ∧
        ChangesOnly dispatchParts s t)

/-! ### Status and power -/

/-- STATUS, in every power state, is answered with the report that its selector and number name, to be taken
when the reply begins to be sent, and is refused BadValue where they name none; RESET is answered Done, and
the link reset waits for that reply to leave. Neither changes anything else but the idle timer (R84, R151,
R174, R178, R181). The reports hold their fields in the order and with the sizes of R186, an absent number as
all ones and an absent time as 0 with its presence bit clear. The model's readings are in assumptions 8,
32, for an absent time difference, and 57. -/
def Obligations.StatusAndResetAreAnswered : Prop :=
  (∀ (c : LinkCell) (rest : List LinkCell) (s : State) (selector number : Byte)
    (answers : Instr → ReplyBody → Prop),
    Ready c rest s →
    (∀ i body, answers i body ↔ ∃ t, exec i s = .next t ∧ answered c rest body t ∧
      ChangesOnly dispatchParts s t) →
    (c.code = 13 → c.payload = [] → answers .reset .reset) ∧
    (c.code = 11 → c.payload = [selector, number] →
      (selector = 0 → answers .statusDevice (.status .device)) ∧
      (4 < selector.toNat → refuses .statusDevice c rest .badValue 0 s) ∧
      (∀ n : Fin 32, selector = 1 → number.toNat = n.val → answers .statusSegment (.status (.segment n))) ∧
      (selector = 1 → 31 < number.toNat → refuses .statusSegment c rest .badValue 0 s) ∧
      (∀ n : Fin 4, selector = 2 → number.toNat = n.val → answers .statusLane (.status (.lane n))) ∧
      (selector = 2 → 3 < number.toNat → refuses .statusLane c rest .badValue 0 s) ∧
      (∀ n : Fin 3, selector = 3 → number.toNat = n.val →
        answers .statusSequencer (.status (.sequencer n))) ∧
      (selector = 3 → 2 < number.toNat → refuses .statusSequencer c rest .badValue 0 s) ∧
      (∀ n : Fin 3, selector = 4 → number.toNat = n.val → answers .statusRender (.status (.render n))) ∧
      (selector = 4 → 2 < number.toNat → refuses .statusRender c rest .badValue 0 s))) ∧
  ∀ s : State,
    DeviceReport s (reportBytes s .device) ∧
    (∀ n : Fin 32, SegmentReport s.segments[n] (reportBytes s (.segment n))) ∧
    (∀ l : Fin 4, LaneReport s.lanes[l] (reportBytes s (.lane l))) ∧
    SequencerReport s.ts (reportBytes s (.sequencer 0)) ∧
    (∀ (part : Fin 3) (held : List HistoryEntry), held = (if part = 1 then s.ts.history.take 8
        else s.ts.history.drop 8) → part ≠ 0 →
      (reportBytes s (.sequencer part)).length = 1 + 7 * held.length ∧
      byteAt (reportBytes s (.sequencer part)) 0 = s.ts.history.length % 256 ∧
      ∀ (i : Nat) (h : HistoryEntry), held[i]? = some h →
        byteAt (reportBytes s (.sequencer part)) (1 + 7 * i) =
          h.stage.val + (if h.secondary then 8 else 0) + 16 * (match h.target with
            | .stage n => n.val
            | .fire => 8
            | .stay => 9) ∧
        numAt (reportBytes s (.sequencer part)) (2 + 7 * i) 6 = h.time.toNat) ∧
    RenderReport s.re (reportBytes s (.render 0)) ∧
    (∀ (part : Fin 3) (interval : Option (Nat × List Nat)), part ≠ 0 →
      interval = s.re.readings.bind (·.interval) →
      (reportBytes s (.render part)).length = 33 ∧
      (byteAt (reportBytes s (.render part)) 0 = if interval.isSome then 1 else 0) ∧
      ∀ i < 16, numAt (reportBytes s (.render part)) (1 + 2 * i) 2 =
        ((interval.bind fun q => q.2[i + (if part = 2 then 16 else 0)]?).getD 65535) % 65536)

/-- POWER by current state and target: a move to Standby or Sleep is refused Busy while a capture, a render,
a redecode or a readout runs; to Sleep the wake logic takes its mask and levels and both generator pins go
low; in Sleep, POWER Run and Standby start a wake with cause Link and are answered when it completes. The
idle timer of 2 to the power n milliseconds leads to Standby (R18, R180, R181, R182, R183). The model's
reading is in assumptions 8, 34 and 35. -/
def Obligations.PowerMovesBetweenTheStates : Prop :=
  (∀ (c : LinkCell) (rest : List LinkCell) (s : State) (target : Byte) (idle : Prop),
    Ready c rest s → c.code = 12 → c.payload = [target] →
    (idle ↔ s.ce.engine = .idle ∧ s.re.job = .idle ∧ s.redecode = none ∧ s.lp.readout = none) →
    (2 < target.toNat → refuses .powerRun c rest .badValue 0 s) ∧
    (target = 0 → s.pru.power ≠ .sleep →
      ∃ t, exec .powerRun s = .next t ∧ answered c rest (.done []) t ∧ t.pru.power = .run ∧
        t.pru.idleStart = s.time ∧ ChangesOnly (withDispatch [.power]) s t) ∧
    (target = 1 → s.pru.power = .run → ¬idle → refuses .powerStandby c rest .busy 0 s) ∧
    (target = 1 → s.pru.power = .run ∧ idle ∨ s.pru.power = .standby →
      ∃ t, exec .powerStandby s = .next t ∧ answered c rest (.done []) t ∧ t.pru.power = .standby ∧
        ChangesOnly (withDispatch [.power]) s t) ∧
    (target = 2 → s.pru.power ≠ .sleep → ¬idle → refuses .powerSleep c rest .busy 0 s) ∧
    (target = 2 → s.pru.power ≠ .sleep → idle →
      ∃ t, exec .powerSleep s = .next t ∧ answered c rest (.done []) t ∧ t.pru.power = .sleep ∧
        t.pru.mask = s.pru.table.wakeMask ∧ t.pru.changed = 0 ∧
        (∀ k : Fin 32, t.pru.recorded.getLsbD k =
          (s.pfe.outputs.getLsbD k && s.pfe.pods[podOf k].present)) ∧
        (∀ i : Fin 2, t.gen.outputs[i] = { s.gen.outputs[i] with level := false }) ∧
        ChangesOnly (withDispatch [.power, .wakeLogic, .genOutputs]) s t) ∧
    (target = 2 → s.pru.power = .sleep →
      ∃ t, exec .powerSleep s = .next t ∧ answered c rest (.done []) t ∧
        ChangesOnly dispatchParts s t) ∧
    (∀ (i : Instr) (next : PowerState), s.pru.power = .sleep →
      (target = 0 ∧ i = .powerRun ∧ next = .run) ∨ (target = 1 ∧ i = .powerStandby ∧ next = .standby) →
      ∃ t, exec i s = .next t ∧ t.lp.queue = rest ∧ t.lp.inProgress = some (.wake c.tag) ∧
        t.pru.wake = some { cause := .link, target := next } ∧
        ChangesOnly [.queue, .inProgress, .wake] s t)) ∧
  (∀ s : State, s.pru.power = .run → s.pru.table.exponent ≠ 0 → s.ce.engine = .idle →
    s.re.job = .idle → s.redecode = none → s.lp.readout = none → s.lp.inProgress = none →
    2 ^ s.pru.table.exponent * 400000 ≤ (timeDiff s.time s.pru.idleStart).toNat →
    ∃ t, exec .idleTimeout s = .next t ∧ t.pru.power = .standby ∧ ChangesOnly [.power] s t)

/-- In Sleep the first change on a masked channel starts a wake to Run that names the lowest such channel.
When a wake completes the part is in Run or Standby, the wake logic is at rest, a frame begins, the presence
filters start anew, each output takes up its mode, Wake is raised with its cause, and the POWER that began
it is answered Done (R5, R18, R161, R180, R183). The model's reading is in assumption 35. -/
def Obligations.WakeStartsAtAChangeAndRestoresTheBlocks : Prop :=
  (∀ (s : State) (k : Fin 32), s.pru.power = .sleep → s.pru.wake = none →
    s.pru.changed.getLsbD k = true → (∀ j : Fin 32, j < k → s.pru.changed.getLsbD j = false) →
    ∃ t, exec .wakeActivity s = .next t ∧ t.pru.wake = some { cause := .activity k, target := .run } ∧
      ChangesOnly [.wake] s t) ∧
  (∀ (s : State) (w : WakeProgress), s.pru.wake = some w → s.su.resizing = false →
    ∃ t, exec .wakeComplete s = .next t ∧ t.pru.wake = none ∧
      t.pru.power = (if w.target = .standby then .standby else .run) ∧
      (w.target ≠ .standby → t.pru.idleStart = s.time) ∧
      t.pru.mask = 0 ∧ t.pru.recorded = 0 ∧ t.pru.changed = 0 ∧ raised (.wake w.cause) s t ∧
      t.su.frameStart = s.time ∧ t.su.applied = s.su.panel ∧ t.su.appliedPalette = s.su.palette ∧
      t.su.appliedCursors = s.su.cursors ∧ t.su.frameView = s.su.frontView ∧ t.su.front = s.su.front ∧
      (∀ p : Fin 4, t.pfe.pods[p] = { s.pfe.pods[p] with filterStart := s.time }) ∧
      (∀ i : Fin 2,
        (s.gen.table[i].mode = .square → t.gen.outputs[i].level = true ∧
          t.gen.outputs[i].run = .running ∧ t.gen.outputs[i].ticksLeft = s.gen.table[i].half) ∧
        (s.gen.table[i].mode = .burstOnTrigger → t.gen.outputs[i].level = false ∧
          t.gen.outputs[i].run = .waiting) ∧
        (s.gen.table[i].mode = .off ∨ s.gen.table[i].mode = .burst → t.gen.outputs[i].level = false ∧
          t.gen.outputs[i].run = .held)) ∧
      (∀ tag, s.lp.inProgress = some (.wake tag) → t.lp.inProgress = none ∧
        t.lp.slot = some { tag := tag, body := .done [] }) ∧
      ((∀ tag, s.lp.inProgress ≠ some (.wake tag)) → t.lp.inProgress = s.lp.inProgress ∧
        t.lp.slot = s.lp.slot) ∧
      ChangesOnly [.wake, .wakeLogic, .power, .idleStart, .su, .pods, .genOutputs, .loopCounter, .notices,
        .slot, .inProgress] s t)

/-! ### Encodings -/

/-- A record and a symbol read back from the bytes they are stored as, with every field at every value its
width admits (R19, R52, R114, R185). An entry of a table as READ sends it has its table's size, and a WRITE of
those bytes would store the entry that stands, whatever bytes it was written from (R169, R187). The model's
readings are in assumptions 21 and 61. -/
def Obligations.RecordsAndSymbolsReadBack : Prop :=
  (∀ r : Record, r.duration < 16777216 →
    recordOf (recordBytes r) = r ∧ (recordBytes r).length = 8) ∧
  (∀ y : Symbol, y.duration < 16777216 → y.position < 256 →
    symbolOf (symbolBytes y) = y ∧ (symbolBytes y).length = 16) ∧
  ∀ (s : State) (e : List Byte) (sent : Nat → Nat → List Byte), sent = entryBytes s →
    (readAcq e = some s.ce.table → readAcq (sent 0 0) = some s.ce.table ∧ (sent 0 0).length = 20) ∧
    (∀ i : Fin 4, readPod e = s.pfe.table[i] →
      readPod (sent 1 i) = s.pfe.table[i] ∧ (sent 1 i).length = 4) ∧
    (∀ i : Fin 2, readGen e = some s.gen.table[i] →
      readGen (sent 2 i) = some s.gen.table[i] ∧ (sent 2 i).length = 8) ∧
    (readRegions e = s.mp.regions → readRegions (sent 3 0) = s.mp.regions ∧ (sent 3 0).length = 4) ∧
    (∀ i : Fin 32, readPlan e = some s.plan[i] →
      readPlan (sent 4 i) = some s.plan[i] ∧ (sent 4 i).length = 10) ∧
    (∀ i : Fin 16, readTerm e = some s.ts.terms[i] →
      readTerm (sent 5 i) = some s.ts.terms[i] ∧ (sent 5 i).length = 16) ∧
    (∀ i : Fin 8, readStage e = some s.ts.stages[i] →
      readStage (sent 6 i) = some s.ts.stages[i] ∧ (sent 6 i).length = 20) ∧
    (∀ i : Fin 2, readCounter e = some s.ts.counterTable[i] →
      readCounter (sent 7 i) = some s.ts.counterTable[i] ∧ (sent 7 i).length = 8) ∧
    (∀ i : Fin 4, readLane e = some s.laneTable[i] →
      readLane (sent 8 i) = some s.laneTable[i] ∧ (sent 8 i).length = 16) ∧
    (∀ i : Fin 32, readField e = some s.fieldMap[i] →
      readField (sent 9 i) = some s.fieldMap[i] ∧ (sent 9 i).length = 8) ∧
    (∀ w h, readView w h e = some s.re.setA.view →
      readView w h (sent 10 0) = some s.re.setA.view ∧ (sent 10 0).length = 24) ∧
    (∀ w h, readView w h e = some s.re.setB.view →
      readView w h (sent 11 0) = some s.re.setB.view ∧ (sent 11 0).length = 24) ∧
    (∀ i : Fin 40, readRow e = some s.re.setA.rows[i] →
      readRow (sent 10 (i + 1)) = some s.re.setA.rows[i] ∧ (sent 10 (i + 1)).length = 24) ∧
    (∀ i : Fin 40, readRow e = some s.re.setB.rows[i] →
      readRow (sent 11 (i + 1)) = some s.re.setB.rows[i] ∧ (sent 11 (i + 1)).length = 24) ∧
    (readCursor e = s.su.cursors.cursor1 →
      readCursor (sent 12 0) = s.su.cursors.cursor1 ∧ (sent 12 0).length = 8) ∧
    (readCursor e = s.su.cursors.cursor2 →
      readCursor (sent 12 1) = s.su.cursors.cursor2 ∧ (sent 12 1).length = 8) ∧
    (byteAt (sent 12 2) 1 = s.su.cursors.marker.toNat ∧ (sent 12 2).length = 8) ∧
    (∀ i : Fin 256, numAt (sent 13 i) 0 2 = s.su.palette[i].toNat ∧ (sent 13 i).length = 2) ∧
    (∀ i : Fin 64, numAt (sent 14 i) 0 8 = s.su.glyphs[i].toNat ∧ (sent 14 i).length = 8) ∧
    (readPanel e = some s.su.panel → readPanel (sent 15 0) = some s.su.panel ∧ (sent 15 0).length = 16) ∧
    (readPower e = s.pru.table → readPower (sent 16 0) = s.pru.table ∧ (sent 16 0).length = 8)
end

