-- ==== Sys2Proof/Laws/Frames.lean ====
section
/-! SUPPORT. Frames: the algebra of `ChangesOnly`, and the frame of an update of one block of the state. The
frames of the model's operations follow in the other files of Laws. -/

namespace Sys2Proof.Machine

theorem Part.same_refl (p : Part) (s : State) : p.same s s := by
  cases p <;> simp [Part.same]

theorem Part.same_trans {p : Part} {s t u : State} (h : p.same s t) (k : p.same t u) : p.same s u := by
  cases p <;> simp_all [Part.same]

namespace ChangesOnly

variable {ps qs : List Part} {s t u : State}

theorem refl (ps : List Part) (s : State) : ChangesOnly ps s s := fun p _ => p.same_refl s

theorem trans (h : ChangesOnly ps s t) (k : ChangesOnly ps t u) : ChangesOnly ps s u :=
  fun p hp => Part.same_trans (h p hp) (k p hp)

theorem mono (h : ChangesOnly ps s t) (sub : ∀ p ∈ ps, p ∈ qs) : ChangesOnly qs s t :=
  fun p hp => h p fun q => hp (sub p q)

theorem ite {c : Prop} [Decidable c] (h : ChangesOnly ps s t) (k : ChangesOnly ps s u) :
    ChangesOnly ps s (if c then t else u) := by
  split <;> assumption

/-- A fold of operations of one frame has that frame. -/
theorem foldl {α : Type} {f : State → α → State} (h : ∀ s a, ChangesOnly ps s (f s a)) (s : State) :
    ∀ xs : List α, ChangesOnly ps s (xs.foldl f s) := by
  intro xs
  induction xs generalizing s with
  | nil => exact refl ps s
  | cons a xs ih => exact (h s a).trans (ih (f s a))

end ChangesOnly

/-! ### Updates of one block -/

theorem update_ce (s : State) (c : Ce) (h : c.table = s.ce.table) :
    ChangesOnly [.ce] s { s with ce := c } := by
  intro p hp
  cases p <;> first
    | rfl | exact ⟨rfl, rfl⟩ | exact ⟨rfl, rfl, rfl⟩ | exact fun _ => rfl | exact h
    | simp at hp

theorem update_segments (s : State) (g : Vector SegmentStatus 32)
    (h : ∀ n : Fin 32, g[n].holdCount = s.segments[n].holdCount) :
    ChangesOnly [.segments] s { s with segments := g } := by
  intro p hp
  cases p <;> first | rfl | exact ⟨rfl, rfl⟩ | exact ⟨rfl, rfl, rfl⟩ | exact h | simp at hp

theorem update_holds (s : State) (g : Vector SegmentStatus 32) :
    ChangesOnly [.segments, .holds] s { s with segments := g } := by
  intro p hp
  cases p <;> first | rfl | exact ⟨rfl, rfl⟩ | exact ⟨rfl, rfl, rfl⟩ | simp at hp

theorem update_ts (s : State) (x : Ts)
    (h : x.terms = s.ts.terms ∧ x.stages = s.ts.stages ∧ x.counterTable = s.ts.counterTable) :
    ChangesOnly [.ts] s { s with ts := x } := by
  intro p hp
  cases p <;> first
    | rfl | exact ⟨rfl, rfl⟩ | exact ⟨rfl, rfl, rfl⟩ | exact fun _ => rfl | exact h
    | simp at hp

theorem update_ce_ts (s : State) (c : Ce) (x : Ts) (h : c.table = s.ce.table)
    (k : x.terms = s.ts.terms ∧ x.stages = s.ts.stages ∧ x.counterTable = s.ts.counterTable) :
    ChangesOnly [.ce, .ts] s { s with ce := c, ts := x } := by
  intro p hp
  cases p <;> first
    | rfl | exact ⟨rfl, rfl⟩ | exact ⟨rfl, rfl, rfl⟩ | exact fun _ => rfl | exact h | exact k
    | simp at hp

theorem update_lanes (s : State) (x : Vector Lane 4) : ChangesOnly [.lanes] s { s with lanes := x } := by
  intro p hp
  cases p <;> first | rfl | exact ⟨rfl, rfl⟩ | exact ⟨rfl, rfl, rfl⟩ | exact fun _ => rfl | simp at hp

theorem update_sm (s : State) (x : Sm) : ChangesOnly [.sm] s { s with sm := x } := by
  intro p hp
  cases p <;> first | rfl | exact ⟨rfl, rfl⟩ | exact ⟨rfl, rfl, rfl⟩ | exact fun _ => rfl | simp at hp

theorem update_redecode (s : State) (x : Option Redecode) :
    ChangesOnly [.redecode] s { s with redecode := x } := by
  intro p hp
  cases p <;> first | rfl | exact ⟨rfl, rfl⟩ | exact ⟨rfl, rfl, rfl⟩ | exact fun _ => rfl | simp at hp

theorem update_redecode_sm (s : State) (x : Option Redecode) (y : Sm) :
    ChangesOnly [.redecode, .sm] s { s with redecode := x, sm := y } := by
  intro p hp
  cases p <;> first | rfl | exact ⟨rfl, rfl⟩ | exact ⟨rfl, rfl, rfl⟩ | exact fun _ => rfl | simp at hp

theorem update_gen (s : State) (x : Gen) (h : x.table = s.gen.table) :
    ChangesOnly [.genOutputs, .loopCounter] s { s with gen := x } := by
  intro p hp
  cases p <;> first
    | rfl | exact ⟨rfl, rfl⟩ | exact ⟨rfl, rfl, rfl⟩ | exact fun _ => rfl | exact h
    | simp at hp

theorem update_pfe (s : State) (x : Pfe) (h : x.table = s.pfe.table) (k : x.inputs = s.pfe.inputs) :
    ChangesOnly [.pods, .outputs] s { s with pfe := x } := by
  intro p hp
  cases p <;> first
    | rfl | exact ⟨rfl, rfl⟩ | exact ⟨rfl, rfl, rfl⟩ | exact fun _ => rfl | exact h
    | exact k | simp at hp

theorem update_dram (s : State) (m : Memory) : ChangesOnly [.dram] s { s with dram := m } := by
  intro p hp
  cases p <;> first | rfl | exact ⟨rfl, rfl⟩ | exact ⟨rfl, rfl, rfl⟩ | exact fun _ => rfl | simp at hp

theorem update_fill (s : State) (x : Option Fill) : ChangesOnly [.fill] s { s with mp.fill := x } := by
  intro p hp
  cases p <;> first | rfl | exact ⟨rfl, rfl⟩ | exact ⟨rfl, rfl, rfl⟩ | exact fun _ => rfl | simp at hp

theorem update_re (s : State) (x : Re) (h : x.setA = s.re.setA ∧ x.setB = s.re.setB)
    (k : x.active = s.re.active) : ChangesOnly [.re, .job] s { s with re := x } := by
  intro p hp
  cases p <;> first
    | rfl | exact ⟨rfl, rfl⟩ | exact ⟨rfl, rfl, rfl⟩ | exact fun _ => rfl | exact h
    | exact k | simp at hp

/-- A render under way goes on with another drawing of the same segment. -/
theorem update_draw (s : State) (x : Re) (h : x.setA = s.re.setA ∧ x.setB = s.re.setB)
    (k : x.active = s.re.active) (j : renderJob x = renderJob s.re) :
    ChangesOnly [.re] s { s with re := x } := by
  intro p hp
  cases p <;> first
    | rfl | exact ⟨rfl, rfl⟩ | exact ⟨rfl, rfl, rfl⟩ | exact fun _ => rfl | exact h
    | exact k | exact j | simp at hp

theorem update_su (s : State) (x : Su) (h : x.panel = s.su.panel) (k : x.palette = s.su.palette)
    (i : x.glyphs = s.su.glyphs) (j : x.cursors = s.su.cursors) :
    ChangesOnly [.su] s { s with su := x } := by
  intro p hp
  cases p <;> first
    | rfl | exact ⟨rfl, rfl⟩ | exact ⟨rfl, rfl, rfl⟩ | exact fun _ => rfl | exact h
    | exact k | exact i | exact j | simp at hp

theorem update_notices (s : State) (x : Vector NoticeSlot 10) :
    ChangesOnly [.notices] s { s with lp.notices := x } := by
  intro p hp
  cases p <;> first | rfl | exact ⟨rfl, rfl⟩ | exact ⟨rfl, rfl, rfl⟩ | exact fun _ => rfl | simp at hp

theorem update_slot (s : State) (x : Option Reply) : ChangesOnly [.slot] s { s with lp.slot := x } := by
  intro p hp
  cases p <;> first | rfl | exact ⟨rfl, rfl⟩ | exact ⟨rfl, rfl, rfl⟩ | exact fun _ => rfl | simp at hp

theorem update_inProgress (s : State) (x : Option InProgress) :
    ChangesOnly [.inProgress] s { s with lp.inProgress := x } := by
  intro p hp
  cases p <;> first | rfl | exact ⟨rfl, rfl⟩ | exact ⟨rfl, rfl, rfl⟩ | exact fun _ => rfl | simp at hp

theorem update_sending (s : State) (x : Option UpCell) :
    ChangesOnly [.sending] s { s with lp.sending := x } := by
  intro p hp
  cases p <;> first | rfl | exact ⟨rfl, rfl⟩ | exact ⟨rfl, rfl, rfl⟩ | exact fun _ => rfl | simp at hp

theorem update_readout (s : State) (x : Option Readout) :
    ChangesOnly [.readout] s { s with lp.readout := x } := by
  intro p hp
  cases p <;> first | rfl | exact ⟨rfl, rfl⟩ | exact ⟨rfl, rfl, rfl⟩ | exact fun _ => rfl | simp at hp

theorem update_queue (s : State) (x : List LinkCell) : ChangesOnly [.queue] s { s with lp.queue := x } := by
  intro p hp
  cases p <;> first | rfl | exact ⟨rfl, rfl⟩ | exact ⟨rfl, rfl, rfl⟩ | exact fun _ => rfl | simp at hp

theorem update_power (s : State) (x : PowerState) (t : Time) :
    ChangesOnly [.power, .idleStart] s { s with pru.power := x, pru.idleStart := t } := by
  intro p hp
  cases p <;> first | rfl | exact ⟨rfl, rfl⟩ | exact ⟨rfl, rfl, rfl⟩ | exact fun _ => rfl | simp at hp

theorem update_pending (s : State) (x : List Instr) : ChangesOnly [.pending] s { s with pending := x } := by
  intro p hp
  cases p <;> first | rfl | exact ⟨rfl, rfl⟩ | exact ⟨rfl, rfl, rfl⟩ | exact fun _ => rfl | simp at hp

/-! ### Named updates of one segment or lane, replies, notices and the idle timer -/

theorem modifySegment_frame (n : Fin 32) (f : SegmentStatus → SegmentStatus) (s : State)
    (h : ∀ g, (f g).holdCount = g.holdCount) : ChangesOnly [.segments] s (modifySegment n f s) := by
  refine update_segments s _ fun m => ?_
  by_cases e : n = m
  · subst e; simp [h]
  · have : n.val ≠ m.val := fun q => e (Fin.ext q)
    simp [this]

theorem modifyLane_frame (l : Fin 4) (f : Lane → Lane) (s : State) :
    ChangesOnly [.lanes] s (modifyLane l f s) := update_lanes s _

theorem placeHold_frame (n : Fin 32) (s : State) :
    ChangesOnly [.segments, .holds] s (placeHold n s) := update_holds s _

theorem releaseHold_frame (n : Fin 32) (s : State) :
    ChangesOnly [.segments, .holds] s (releaseHold n s) := update_holds s _

theorem putReply_frame (tag : Byte) (b : ReplyBody) (s : State) :
    ChangesOnly [.slot] s (putReply tag b s) := update_slot s _

theorem raiseNotice_frame (n : NoticeSnapshot) (s : State) :
    ChangesOnly [.notices] s (raiseNotice n s) := by
  unfold raiseNotice
  dsimp only
  split
  · exact update_notices s _
  · exact .refl _ s

theorem restartIdle_frame (s : State) : ChangesOnly [.idleStart] s (restartIdle s) := by
  unfold restartIdle
  split
  · intro p hp
    cases p <;> first | rfl | exact ⟨rfl, rfl⟩ | exact ⟨rfl, rfl, rfl⟩ | exact fun _ => rfl | simp at hp
  · exact .refl _ s

theorem enterRun_frame (s : State) : ChangesOnly [.power, .idleStart] s (enterRun s) := update_power s _ _

theorem leaveStandby_frame (s : State) : ChangesOnly [.power, .idleStart] s (leaveStandby s) := by
  unfold leaveStandby
  split
  · exact enterRun_frame s
  · exact .refl _ s

end Sys2Proof.Machine
end

