-- ==== Sys2Proof/Laws/Probes.lean ====
section
/-! SUPPORT. What the operations on probes, pods, the Signal Generator and the Trigger Sequencer can do. -/

namespace Sys2Proof.Machine

/-! ### Probes and pods -/

theorem decideChannel_keeps (fresh : Bool) (p : Pfe) (k : Fin 32) :
    (decideChannel fresh p k).table = p.table ∧ (decideChannel fresh p k).inputs = p.inputs ∧
      (decideChannel fresh p k).pods = p.pods := ⟨rfl, rfl, rfl⟩

/-- A fold of comparator decisions keeps the pod table, the inputs and the pods. -/
theorem decideChannels_keep {α : Type} (fresh : Bool) (g : α → Fin 32) (p : Pfe) (xs : List α) :
    (xs.foldl (fun q x => decideChannel fresh q (g x)) p).table = p.table ∧
      (xs.foldl (fun q x => decideChannel fresh q (g x)) p).inputs = p.inputs ∧
      (xs.foldl (fun q x => decideChannel fresh q (g x)) p).pods = p.pods := by
  induction xs generalizing p with
  | nil => exact ⟨rfl, rfl, rfl⟩
  | cons a xs ih => exact ih (decideChannel fresh p (g a))

theorem decidePod_keeps (fresh : Bool) (pod : Fin 4) (p : Pfe) :
    (decidePod fresh pod p).table = p.table ∧ (decidePod fresh pod p).inputs = p.inputs ∧
      (decidePod fresh pod p).pods = p.pods := decideChannels_keep fresh _ p _

theorem startComparators_keeps (p : Pfe) :
    (startComparators p).table = p.table ∧ (startComparators p).inputs = p.inputs ∧
      (startComparators p).pods = p.pods := decideChannels_keep true id p _

/-- A bit of a word with one bit made b. -/
theorem getLsbD_setBit (w : Word) (k i : Fin 32) (b : Bool) :
    (setBit w k b).getLsbD i = if i = k then b else w.getLsbD i := by
  have hi := i.isLt
  have e : (i = k) ↔ (i.val = k.val) := ⟨congrArg _, Fin.ext⟩
  cases b
  · by_cases h : i.val = k.val
    · simp [setBit, e, h]
    · by_cases g : i.val < k.val
      · simp [setBit, e, h, g]
      · have : i.val - k.val ≠ 0 := by omega
        simp [setBit, e, h, g, this]
  · by_cases h : i.val = k.val
    · simp [setBit, e, h]
    · by_cases g : i.val < k.val
      · simp [setBit, e, h, g]
      · have : i.val - k.val ≠ 0 := by omega
        simp [setBit, e, h, g, this]

theorem notePodLost_frame (pod : Fin 4) (s : State) : ChangesOnly [.segments] s (notePodLost pod s) := by
  unfold notePodLost
  split
  · split
    · exact modifySegment_frame _ _ _ fun _ => rfl
    · exact .refl _ _
  · exact .refl _ _

theorem changePresent_frame (pod : Fin 4) (s : State) :
    ChangesOnly [.pods, .outputs, .notices, .segments] s (changePresent pod s) := by
  unfold changePresent
  have h : ∀ (q : PodState) (b : Bool), ChangesOnly [.pods, .outputs, .notices, .segments] s
      { s with pfe := (if b then decidePod true pod { s.pfe with pods := s.pfe.pods.set pod q }
        else { s.pfe with pods := s.pfe.pods.set pod q }) } := by
    intro q b
    refine (update_pfe s _ ?_ ?_).mono (by decide)
    · cases b
      · rfl
      · exact (decidePod_keeps _ _ _).1
    · cases b
      · rfl
      · exact (decidePod_keeps _ _ _).2.1
  dsimp only
  refine .ite ?_ ?_
  · exact (h _ _).trans ((raiseNotice_frame _ _).mono (by decide))
  · exact ((h _ _).trans ((raiseNotice_frame _ _).mono (by decide))).trans
      ((notePodLost_frame _ _).mono (by decide))

/-! ### The Signal Generator keeps its table -/

@[simp] theorem setOutput_table (i : Fin 2) (o : GenOutput) (g : Gen) : (setOutput i o g).table = g.table := rfl

@[simp] theorem restartOutput_table (i : Fin 2) (g : Gen) : (restartOutput i g).table = g.table := rfl

@[simp] theorem endHalfPeriod_table (i : Fin 2) (g : Gen) : (endHalfPeriod i g).table = g.table := rfl

@[simp] theorem triggerOutput_table (g : Gen) (i : Fin 2) : (triggerOutput g i).table = g.table := by
  unfold triggerOutput
  dsimp only
  split <;> rfl

@[simp] theorem triggerGenerator_table (g : Gen) : (triggerGenerator g).table = g.table := by
  simp [triggerGenerator]

@[simp] theorem wakeOutput_table (g : Gen) (i : Fin 2) : (wakeOutput g i).table = g.table := by
  unfold wakeOutput
  split <;> rfl

@[simp] theorem wakeGenerator_table (g : Gen) : (wakeGenerator g).table = g.table := by
  simp [wakeGenerator]

@[simp] theorem sleepGenerator_table (g : Gen) : (sleepGenerator g).table = g.table := rfl

@[simp] theorem tickGenerator_table (g : Gen) : (tickGenerator g).table = g.table := rfl

/-- What is due at a tick before its sample is taken. -/
theorem settle_frame (s : State) : ChangesOnly
    [.pods, .outputs, .notices, .segments, .genOutputs, .loopCounter] s (settle s) := by
  unfold settle
  refine .trans (.foldl (fun t pod => ?_) s _) (.foldl (fun t i => ?_) _ _)
  · exact .ite ((changePresent_frame pod t).mono (by decide)) (.refl _ t)
  · exact .ite ((update_gen t _ (by simp)).mono (by decide)) (.refl _ t)

/-! ### The Trigger Sequencer keeps its tables -/

/-- Two sequencers with the same tables. -/
def Ts.sameTables (x y : Ts) : Prop :=
  x.terms = y.terms ∧ x.stages = y.stages ∧ x.counterTable = y.counterTable

theorem takeBranch_tables (ts : Ts) (n : Fin 8) (b : Bool) (r : Branch) (t : Time) :
    (takeBranch ts n b r t).1.sameTables ts := by
  unfold takeBranch
  dsimp only
  split <;> exact ⟨rfl, rfl, rfl⟩

theorem stepBranches_tables (ts : Ts) (n : Fin 8) (truth : Fin 16 → Bool) (t : Time) :
    (stepBranches ts n truth t).1.sameTables ts := by
  unfold stepBranches
  dsimp only
  split
  · exact takeBranch_tables _ _ _ _ _
  · split
    · exact takeBranch_tables _ _ _ _ _
    · exact ⟨rfl, rfl, rfl⟩

theorem evaluate_tables (ts : Ts) (x : Presented) : (evaluate ts x).1.sameTables ts := by
  unfold evaluate
  split
  · exact ⟨rfl, rfl, rfl⟩
  · exact stepBranches_tables _ _ _ _

theorem haltTs_tables (ts : Ts) : (haltTs ts).sameTables ts := by
  unfold haltTs
  split <;> exact ⟨rfl, rfl, rfl⟩

theorem receiveSymbol_tables (b : Bool) (y : Symbol) (ts : Ts) : (receiveSymbol b y ts).sameTables ts := by
  unfold receiveSymbol
  split <;> exact ⟨rfl, rfl, rfl⟩

theorem expireEarly_tables (i : Fin 2) (ts : Ts) (x : Presented) :
    ((expireEarly i ts x).getD ts).sameTables ts := by
  unfold expireEarly
  split
  · exact ⟨rfl, rfl, rfl⟩
  · split <;> exact ⟨rfl, rfl, rfl⟩

/-- The stage history never holds more than sixteen entries (R83). -/
theorem appendHistory_length (h : List HistoryEntry) (e : HistoryEntry) (b : h.length ≤ 16) :
    (appendHistory h e).length ≤ 16 := by
  unfold appendHistory Config.historyDepth
  split <;> simp <;> omega

theorem takeBranch_history (ts : Ts) (n : Fin 8) (b : Bool) (r : Branch) (t : Time)
    (h : ts.history.length ≤ 16) : (takeBranch ts n b r t).1.history.length ≤ 16 := by
  unfold takeBranch
  dsimp only
  split <;> exact appendHistory_length _ _ h

theorem evaluate_history (ts : Ts) (x : Presented) (h : ts.history.length ≤ 16) :
    (evaluate ts x).1.history.length ≤ 16 := by
  unfold evaluate
  split
  · exact h
  · unfold stepBranches
    dsimp only
    split
    · exact takeBranch_history _ _ _ _ _ h
    · split
      · exact takeBranch_history _ _ _ _ _ h
      · exact h

end Sys2Proof.Machine
end

