-- ==== Sys2Proof/Laws/Symbols.lean ====
section
/-! SUPPORT. What the operations on lanes, symbols, fields and the Symbol Merger can do. -/

namespace Sys2Proof.Machine

/-- The parts that a lane which emits symbols can change. -/
def emitParts : List Part := [.lanes, .segments, .ts, .notices]

theorem countFillingLost_frame (k : Nat) (s : State) :
    ChangesOnly [.segments] s (countFillingLost k s) := by
  unfold countFillingLost
  split
  · exact modifySegment_frame _ _ _ fun _ => rfl
  · exact .refl _ _

theorem offerSymbol_frame (l : Fin 4) (y : Symbol) (s : State) :
    ChangesOnly [.lanes, .segments, .notices] s (offerSymbol l y s) := by
  have h : ∀ f, ChangesOnly [.lanes, .segments, .notices] s (modifyLane l f s) :=
    fun f => (modifyLane_frame l f s).mono (by decide)
  unfold offerSymbol
  dsimp only
  refine .ite (h _) ?_
  have g : ChangesOnly [.lanes, .segments, .notices] s
      (if s.lanes[l].mode = .running then countFillingLost 1 (modifyLane l discardSymbol s)
        else modifyLane l discardSymbol s) :=
    .ite ((h _).trans ((countFillingLost_frame _ _).mono (by decide))) (h _)
  exact .ite (g.trans ((raiseNotice_frame _ _).mono (by decide))) g

theorem offerToTs_frame (l : Fin 4) (y : Symbol) (s : State) : ChangesOnly [.ts] s (offerToTs l y s) := by
  unfold offerToTs
  split
  · exact update_ts s _ (receiveSymbol_tables _ _ _)
  · exact .refl _ _

theorem handOn_frame (l : Fin 4) (y : Symbol) (s : State) : ChangesOnly emitParts s (handOn l y s) :=
  ((offerToTs_frame l y s).mono (by decide)).trans ((offerSymbol_frame l y _).mono (by decide))

theorem extractFields_frame (l : Fin 4) (y : Symbol) (s : State) :
    ChangesOnly emitParts s (extractFields l y s) := by
  unfold extractFields
  dsimp only
  refine .ite ((modifyLane_frame _ _ _).mono (by decide)) (.ite ?_ (.refl _ _))
  exact ((modifyLane_frame _ _ _).mono (by decide)).trans (.foldl (fun t f => handOn_frame l f t) _ _)

theorem emitSymbol_frame (l : Fin 4) (e : Emitted) (s : State) :
    ChangesOnly emitParts s (emitSymbol l e s) :=
  (((modifyLane_frame _ _ _).mono (by decide)).trans (handOn_frame _ _ _)).trans
    (extractFields_frame _ _ _)

theorem emitSymbols_frame (l : Fin 4) (es : List Emitted) (s : State) :
    ChangesOnly emitParts s (emitSymbols l es s) := .foldl (fun t e => emitSymbol_frame l e t) s es

theorem laneSample_frame (period : Nat) (x : Sample) (s : State) (l : Fin 4) :
    ChangesOnly emitParts s (laneSample period x s l) :=
  .ite (.refl _ _) (((modifyLane_frame _ _ _).mono (by decide)).trans (emitSymbols_frame _ _ _))

theorem lanesSample_frame (period : Nat) (x : Sample) (s : State) :
    ChangesOnly emitParts s (lanesSample period x s) := .foldl (laneSample_frame period x) s _

theorem finishLane_frame (period : Nat) (s : State) (l : Fin 4) :
    ChangesOnly emitParts s (finishLane period s l) :=
  .ite (.refl _ _) ((((modifyLane_frame _ _ _).mono (by decide)).trans (emitSymbols_frame _ _ _)).trans
    ((modifyLane_frame _ _ _).mono (by decide)))

theorem finishLanes_frame (period : Nat) (s : State) :
    ChangesOnly emitParts s (finishLanes period s) := .foldl (finishLane_frame period) s _

theorem startLanes_frame (mode : LaneMode) (s : State) : ChangesOnly [.lanes] s (startLanes mode s) :=
  .foldl (fun t l => modifyLane_frame l _ t) s _

/-! ### The Symbol Merger -/

/-- A render under way notes something of itself, and goes on showing its segment. -/
theorem noteRender_frame (n : Fin 32) (f : Draw → Draw) (s : State)
    (h : ∀ d, (f d).snapshot = d.snapshot) : ChangesOnly [.re] s (noteRender n f s) := by
  unfold noteRender
  split
  · rename_i d e
    refine .ite (update_draw s _ ⟨rfl, rfl⟩ rfl ?_) (.refl _ _)
    simp [renderJob, e, h]
  · exact .refl _ _

theorem noteRefused_frame (s : State) : ChangesOnly [.redecode] s (noteRefused s) := update_redecode s _

theorem removeSymbol_holds (c : Nat) (e : TrimEnd) (g : SegmentStatus) :
    (removeSymbol c e g).holdCount = g.holdCount := rfl

theorem wroteSymbol_holds (c p : Nat) (b : Bool) (g : SegmentStatus) :
    (wroteSymbol c p b g).holdCount = g.holdCount := by
  unfold wroteSymbol
  split <;> rfl

theorem trimStep_frame (n : Fin 32) (a b : Time) (s : State) :
    ChangesOnly [.segments] s (trimStep n a b s) := by
  unfold trimStep
  split
  · exact modifySegment_frame _ _ _ fun _ => rfl
  · exact .refl _ _

theorem trimAll_frame (n : Fin 32) (a b : Time) (k : Nat) (s : State) :
    ChangesOnly [.segments] s (trimAll n a b k s) := by
  induction k generalizing s with
  | zero => exact .refl _ _
  | succ k ih => exact (trimStep_frame n a b s).trans (ih _)

/-- The write of one symbol: it leaves its FIFO, and the span takes or refuses it (R122, R123, R128). -/
theorem mergeSymbol_frame {n : Fin 32} {l : Fin 4} {y : Symbol} {s t : State}
    (h : mergeSymbol n l y s = .next t) :
    ChangesOnly [.lanes, .segments, .redecode, .dram, .re] s t := by
  have g : ∀ f k, (∀ x, (k x).holdCount = x.holdCount) →
      ChangesOnly [.lanes, .segments, .redecode, .dram, .re] s (modifySegment n k (modifyLane l f s)) :=
    fun f k e => ((modifyLane_frame _ _ _).mono (by decide)).trans
      ((modifySegment_frame _ _ _ e).mono (by decide))
  unfold mergeSymbol at h
  dsimp only at h
  split at h
  · cases h
    have e := g (fun q => { q with fifo := q.fifo.drop 1 }) (refusedSymbol s.redecode.isSome) fun _ => rfl
    split
    · exact e.trans ((noteRefused_frame _).mono (by decide))
    · exact e
  · split at h
    · cases h
      exact ((g _ _ (wroteSymbol_holds _ _ _)).trans ((update_dram _ _).mono (by decide))).trans
        ((noteRender_frame _ _ _ (by intro; rfl)).mono (by decide))
    · cases h

end Sys2Proof.Machine
end

