-- ==== Sys2Proof/Laws/Capture.lean ====
section
/-! SUPPORT. What the operations of the Capture Engine can do. -/

namespace Sys2Proof.Machine

/-- The parts that handling samples and records can change. -/
def compressParts : List Part := [.ce, .ts, .segments]

/-- The parts that a sample, a cut or a command of the capture can change. -/
def captureParts : List Part :=
  [.ce, .segments, .ts, .lanes, .sm, .notices, .genOutputs, .loopCounter]

theorem emit_capture : ∀ p ∈ emitParts, p ∈ captureParts := by decide

theorem compress_capture : ∀ p ∈ compressParts, p ∈ captureParts := by decide

/-! ### Records -/

theorem feed_frame (s : State) : ChangesOnly [.ce] s (feed s) := update_ce s _ rfl

theorem enterClosing_frame (r : EndReason) (t : Time) (rs : List Record) (s : State) :
    ChangesOnly [.ce, .ts] s (enterClosing r t rs s) := by
  refine .trans (t := { s with
    ce := { s.ce with
      engine := .closing, reason := some r, endTime := some t, toPush := rs, staging := []
      openRecord := none, episode := none, heldForce := false }
    ts := haltTs s.ts }) ?_ ((feed_frame _).mono (by decide))
  exact update_ce_ts s _ _ rfl (haltTs_tables _)

theorem stall_frame (e : Episode) (s : State) : ChangesOnly [.ce, .ts] s (stall e s) :=
  enterClosing_frame _ _ _ _

theorem loseRecord_frame (t : Time) (r : Record) (s : State) :
    ChangesOnly [.ce, .ts] s (loseRecord t r s) := by
  unfold loseRecord
  dsimp only
  exact .ite (stall_frame _ _) ((update_ce s _ (by rfl)).mono (by decide))

theorem pushTrigger_frame (t : Time) (r : Record) (s : State) :
    ChangesOnly [.ce, .ts] s (pushTrigger t r s) := by
  unfold pushTrigger
  dsimp only
  exact .ite ((update_ce s _ (by rfl)).mono (by decide)) (loseRecord_frame _ _ _)

theorem pushNormal_frame (t : Time) (r : Record) (s : State) :
    ChangesOnly [.ce, .ts] s (pushNormal t r s) := by
  unfold pushNormal
  exact .ite ((update_ce s _ (by rfl)).mono (by decide)) (loseRecord_frame _ _ _)

theorem pushRecord_frame (p : Time × Record) (s : State) : ChangesOnly [.ce, .ts] s (pushRecord p s) :=
  .ite (.ite (pushTrigger_frame _ _ _) (pushNormal_frame _ _ _)) (.refl _ _)

theorem pushRecords_frame (ps : List (Time × Record)) (s : State) :
    ChangesOnly compressParts s (pushRecords ps s) :=
  .foldl (fun t p => (pushRecord_frame p t).mono (by decide)) s ps

/-! ### Samples -/

theorem noteHandled_frame (x : Sample) (s : State) : ChangesOnly compressParts s (noteHandled x s) :=
  (update_ce s _ (by rfl)).mono (by decide)

theorem noteStart_frame (t : Time) (s : State) : ChangesOnly compressParts s (noteStart t s) := by
  unfold noteStart
  split
  · exact (modifySegment_frame _ _ _ (by intro; rfl)).mono (by decide)
  · exact .refl _ _

theorem openRecordAt_frame (b : Bool) (x : Sample) (s : State) :
    ChangesOnly compressParts s (openRecordAt b x s) := by
  unfold openRecordAt
  exact .ite (((update_ce s _ (by rfl)).mono (by decide)).trans (noteHandled_frame _ _)) (.refl _ _)

theorem handleSample_frame (x : Sample) (s : State) : ChangesOnly compressParts s (handleSample x s) := by
  unfold handleSample
  split
  · exact (noteStart_frame _ _).trans (openRecordAt_frame _ _ _)
  · refine .ite ?_ ((pushRecords_frame _ _).trans (openRecordAt_frame _ _ _))
    refine (pushRecords_frame _ _).trans (.ite ?_ (.refl _ _))
    exact ((update_ce _ _ (by rfl)).mono (by decide)).trans (noteHandled_frame _ _)

theorem handleSamples_frame (xs : List Sample) (s : State) :
    ChangesOnly compressParts s (handleSamples xs s) :=
  .foldl (fun t x => .ite (handleSample_frame x t) (.refl _ t)) s xs

theorem enterArmed_frame (s : State) : ChangesOnly compressParts s (enterArmed s) :=
  (update_ce_ts s { s.ce with engine := .armed } (runTs s.ts) rfl ⟨rfl, rfl, rfl⟩).mono (by decide)

theorem checkPreFill_frame (s : State) : ChangesOnly compressParts s (checkPreFill s) :=
  .ite (enterArmed_frame s) (.refl _ s)

theorem endCut_frame (r : EndReason) (t : Time) (s : State) : ChangesOnly compressParts s (endCut r t s) :=
  (enterClosing_frame _ _ _ _).mono (by decide)

theorem triggeredSample_frame (s : State) (x : Sample) :
    ChangesOnly compressParts s (triggeredSample s x) :=
  .ite (.ite (endCut_frame _ _ _) (handleSample_frame _ _)) (.refl _ _)

theorem noteTrigger_frame (t : Time) (c : Cause) (s : State) :
    ChangesOnly compressParts s (noteTrigger t c s) := by
  unfold noteTrigger
  split
  · exact (modifySegment_frame _ _ _ (by intro; rfl)).mono (by decide)
  · exact .refl _ _

theorem cutOpenRecord_frame (t : Time) (s : State) : ChangesOnly compressParts s (cutOpenRecord t s) := by
  unfold cutOpenRecord
  split
  · exact pushRecords_frame _ _
  · exact noteStart_frame _ _

theorem triggerCut_frame (x : Sample) (c : Cause) (s : State) :
    ChangesOnly compressParts s (triggerCut x c s) := by
  unfold triggerCut
  dsimp only
  refine (cutOpenRecord_frame _ _).trans (.ite ?_ (.refl _ _))
  exact ((noteTrigger_frame _ _ _).trans (openRecordAt_frame _ _ _)).trans
    ((update_ce _ _ (by rfl)).mono (by decide))

theorem afterTriggerCut_frame (x : Sample) (s : State) :
    ChangesOnly compressParts s (afterTriggerCut x s) := by
  unfold afterTriggerCut
  refine .ite (.ite (endCut_frame _ _ _) ?_) (.refl _ _)
  exact ((update_ce s _ (by rfl)).mono (by decide)).trans (.foldl triggeredSample_frame _ _)

theorem passTrigger_frame (t : Time) (c : Cause) (s : State) :
    ChangesOnly captureParts s (passTrigger t c s) := by
  have h : ChangesOnly captureParts s { s with gen := triggerGenerator s.gen } :=
    (update_gen s _ (by simp)).mono (by decide)
  unfold passTrigger
  dsimp only
  split
  · exact h.trans ((raiseNotice_frame _ _).mono (by decide))
  · exact h

theorem fireAt_frame (x : Sample) (n : Fin 8) (s : State) : ChangesOnly captureParts s (fireAt x n s) :=
  ((passTrigger_frame _ _ _).trans ((triggerCut_frame _ _ _).mono compress_capture)).trans
    ((afterTriggerCut_frame _ _).mono compress_capture)

theorem forceAt_frame (x : Sample) (s : State) : ChangesOnly captureParts s (forceAt x s) := by
  have h := (triggerCut_frame x .forced s).mono compress_capture
  unfold forceAt
  dsimp only
  refine .ite (.trans (.trans (h.trans ?_) (passTrigger_frame _ _ _))
    ((afterTriggerCut_frame _ _).mono compress_capture)) h
  exact (update_ts _ _ (by exact ⟨rfl, rfl, rfl⟩)).mono (by decide)

theorem advanceSampler_frame (w : Word) (s : State) : ChangesOnly captureParts s (advanceSampler w s) :=
  (update_ce s _ (by rfl)).mono (by decide)

theorem passSymbols_tables (t : Time) (v : Ts) :
    (passSymbols t v).terms = v.terms ∧ (passSymbols t v).stages = v.stages ∧
      (passSymbols t v).counterTable = v.counterTable := by
  unfold passSymbols
  split <;> exact ⟨rfl, rfl, rfl⟩

theorem handleStaged_frame (m x : Sample) (s : State) : ChangesOnly captureParts s (handleStaged m x s) := by
  unfold handleStaged
  dsimp only
  refine .ite ?_ (((update_ts s _ (passSymbols_tables _ _)).mono (by decide)).trans
    (((handleSample_frame _ _).trans (checkPreFill_frame _)).mono compress_capture))
  split
  · exact ((update_ts s _ (evaluate_tables _ _)).mono (by decide)).trans (fireAt_frame _ _ _)
  · exact ((update_ts s _ (evaluate_tables _ _)).mono (by decide)).trans
      ((handleSample_frame _ _).mono compress_capture)

theorem stageSample_frame (x : Sample) (s : State) : ChangesOnly captureParts s (stageSample x s) := by
  unfold stageSample
  dsimp only
  refine .ite ?_ ((update_ce s _ (by rfl)).mono (by decide))
  split
  · exact ((update_ce s _ (by rfl)).mono (by decide)).trans (handleStaged_frame _ _ _)
  · exact .refl _ _

theorem forceAfter_frame (older : List Sample) (x : Sample) (s : State) :
    ChangesOnly captureParts s (forceAfter older x s) :=
  (((update_ce s { s.ce with staging := [] } rfl).mono (by decide)).trans
    ((handleSamples_frame older _).mono compress_capture)).trans (.ite (forceAt_frame _ _) (.refl _ _))

theorem ceSample_frame (x : Sample) (s : State) : ChangesOnly captureParts s (ceSample x s) := by
  unfold ceSample
  dsimp only
  refine .trans ((update_ce s { s.ce with taken := s.ce.taken + 1 } rfl).mono (by decide))
    (.ite (forceAfter_frame _ _ _) (.ite ?_ (stageSample_frame _ _)))
  exact (triggeredSample_frame _ _).mono compress_capture

theorem endRuns_frame (s : State) : ChangesOnly emitParts s (endRuns s) :=
  .ite (finishLanes_frame _ _) (.refl _ _)

theorem takeSample_frame (x : Sample) (s : State) : ChangesOnly captureParts s (takeSample x s) :=
  (((ceSample_frame _ _).trans ((lanesSample_frame _ _ _).mono emit_capture)).trans
    ((update_sm _ _).mono (by decide))).trans ((endRuns_frame _).mono emit_capture)

theorem forceNewest_frame (s : State) : ChangesOnly captureParts s (forceNewest s) := by
  unfold forceNewest
  split
  · exact .refl _ _
  · rename_i x older _
    exact (((update_ts s (forceTs (some x.stamp) s.ts) ⟨rfl, rfl, rfl⟩).mono (by decide)).trans
      (forceAfter_frame _ _ _)).trans ((endRuns_frame _).mono emit_capture)

theorem releaseForce_frame (s : State) : ChangesOnly captureParts s (releaseForce s) :=
  .ite (forceNewest_frame _) (.refl _ _)

/-- One sample taken, with what its tick brings before it (R11, R12, R20). -/
theorem sampleTick_frame (s : State) : ChangesOnly (.pods :: .outputs :: captureParts) s (sampleTick s) := by
  have h : ChangesOnly (.pods :: .outputs :: captureParts) s (settle s) :=
    (settle_frame s).mono (by decide)
  have sub : ∀ p ∈ captureParts, p ∈ Part.pods :: .outputs :: captureParts := by decide
  unfold sampleTick
  dsimp only
  split
  · exact (h.trans ((advanceSampler_frame _ _).mono sub)).trans ((takeSample_frame _ _).mono sub)
  · exact (h.trans ((releaseForce_frame _).mono sub)).trans ((advanceSampler_frame _ _).mono sub)

/-! ### The ring -/

theorem memoryLimit_frame (n : Fin 32) (s : State) : ChangesOnly [.ce, .ts] s (memoryLimit n s) :=
  ((update_ce s { s.ce with queue := [] } rfl).mono (by decide)).trans (enterClosing_frame _ _ _ _)

theorem afterDrain_frame (s : State) : ChangesOnly [.ce] s (afterDrain s) := by
  unfold afterDrain
  refine .ite (feed_frame s) ?_
  split
  · exact .ite (update_ce s _ (by rfl)) (.refl _ _)
  · exact .refl _ _

theorem wroteRecord_holds (p : Nat) (r : Record) (g : SegmentStatus) :
    (wroteRecord p r g).holdCount = g.holdCount := rfl

theorem addedRecord_holds (p : Nat) (g : SegmentStatus) : (addedRecord p g).holdCount = g.holdCount := rfl

theorem replacedRecord_holds (c p : Nat) (r : Record) (g : SegmentStatus) :
    (replacedRecord c p r g).holdCount = g.holdCount := rfl

/-- One drained record: written to the ring, or the end of the capture at the trigger record (R28, R29). -/
theorem drainRecord_frame {n : Fin 32} {r : Record} {rest : List Record} {s t : State}
    (h : drainRecord n r rest s = .next t) :
    ChangesOnly [.ce, .ts, .lanes, .segments, .notices, .dram, .re] s t := by
  unfold drainRecord at h
  dsimp only at h
  split at h
  · injection h with h
    subst h
    exact ((memoryLimit_frame n s).mono (by decide)).trans
      ((endRuns_frame (memoryLimit n s)).mono (by decide))
  · split at h
    · have g : ∀ (x : SegmentStatus) (m : Memory) (q : List Record),
          x.holdCount = s.segments[n].holdCount → ChangesOnly [.ce, .ts, .lanes, .segments, .notices, .dram, .re]
            s { s with segments := s.segments.set n x, dram := m, ce.queue := q } := by
        intro x m q e
        have h1 : ChangesOnly [.segments] s { s with segments := s.segments.set n x } := by
          refine update_segments s _ fun m => ?_
          by_cases q : n = m
          · subst q; simp [e]
          · have : n.val ≠ m.val := fun w => q (Fin.ext w)
            simp [this]
        refine ChangesOnly.trans (h1.mono (by decide)) ?_
        intro p hp
        cases p <;> first
          | rfl | exact ⟨rfl, rfl⟩ | exact ⟨rfl, rfl, rfl⟩ | exact fun _ => rfl | simp at hp
      have e : ∀ b : Prop, [Decidable b] → ∀ x y : SegmentStatus, x.holdCount = s.segments[n].holdCount →
          y.holdCount = s.segments[n].holdCount → (if b then x else y).holdCount = s.segments[n].holdCount := by
        intro b _ x y hx hy
        split <;> assumption
      injection h with h
      subst h
      refine .trans (.trans (g _ _ _ ?_) ((noteRender_frame _ _ _ ?_).mono ?_)) ((afterDrain_frame _).mono ?_)
      · exact e _ _ _ rfl rfl
      · intro d; rfl
      · decide
      · decide
    · cases h

/-! ### The commands of the capture -/

theorem startSegment_frame (n : Fin 32) (s : State) :
    ChangesOnly [.ce, .prescaler, .ts, .sm, .segments, .lanes] s (startSegment n s) := by
  have h : ChangesOnly [.ce, .prescaler, .ts, .sm, .segments, .lanes] s { s with
      ce := preFillCe n s.time s.ce, prescaler := 0, ts := offTs s.ts, sm := { stamps := [] } } := by
    intro p hp
    cases p <;> first | rfl | exact ⟨rfl, rfl⟩ | exact ⟨rfl, rfl, rfl⟩ | exact fun _ => rfl | simp at hp
  unfold startSegment
  dsimp only
  exact (h.trans ((modifySegment_frame _ _ _ (by intro; rfl)).mono (by decide))).trans
    (((startLanes_frame _ _).mono (by decide)).trans ((checkPreFill_frame _).mono (by decide)))

theorem beginCapture_frame (n : Fin 32) (s : State) :
    ChangesOnly [.ce, .prescaler, .ts, .sm, .segments, .lanes] s (beginCapture n s) :=
  ((update_ce s { s.ce with sequence := s.ce.table.sequenceCount, done := 0 } rfl).mono (by decide)).trans
    (startSegment_frame _ _)

theorem armOwner_frame (c : LinkCell) (s : State) :
    ChangesOnly [.ce, .prescaler, .ts, .sm, .segments, .lanes, .power, .idleStart, .slot] s
      (armOwner c s) := by
  unfold armOwner
  dsimp only
  refine .trans ((leaveStandby_frame s).mono (by decide)) ?_
  split
  · exact (putReply_frame _ _ _).mono (by decide)
  · exact ((beginCapture_frame _ _).mono (by decide)).trans ((putReply_frame _ _ _).mono (by decide))

theorem stopCut_frame (s : State) : ChangesOnly compressParts s (stopCut s) := by
  unfold stopCut
  refine .ite ?_ (.refl _ _)
  exact .trans (.ite (noteStart_frame _ _) (.refl _ _)) (endCut_frame _ _ _)

theorem stopSampling_frame (s : State) : ChangesOnly captureParts s (stopSampling s) := by
  have h : ChangesOnly captureParts s
      { s with ts := haltTs s.ts, ce := { s.ce with staging := [], stopTaken := true } } :=
    (update_ce_ts s { s.ce with staging := [], stopTaken := true } (haltTs s.ts) rfl
      (haltTs_tables _)).mono (by decide)
  unfold stopSampling
  exact ((h.trans ((handleSamples_frame _ _).mono compress_capture)).trans
    ((stopCut_frame _).mono compress_capture)).trans ((endRuns_frame _).mono emit_capture)

theorem stopCapture_frame (s : State) : ChangesOnly captureParts s (stopCapture s) := by
  unfold stopCapture
  dsimp only
  exact (releaseForce_frame s).trans (.ite (stopSampling_frame _) (.refl _ _))

theorem forceCapture_frame (s : State) : ChangesOnly captureParts s (forceCapture s) := by
  unfold forceCapture
  exact .ite ((update_ce_ts s { s.ce with heldForce := true } (forceTs none s.ts) rfl
    ⟨rfl, rfl, rfl⟩).mono (by decide)) (forceNewest_frame _)

theorem idleEngine_frame (s : State) : ChangesOnly [.ce, .sm] s (idleEngine s) :=
  ((update_ce s { idleCe with table := s.ce.table } rfl).mono (by decide)).trans
    ((update_sm _ _).mono (by decide))

theorem endSequence_frame (d : Nat) (r : SequenceEnd) (s : State) :
    ChangesOnly [.ce, .sm, .notices] s (endSequence d r s) :=
  ((idleEngine_frame s).mono (by decide)).trans ((raiseNotice_frame _ _).mono (by decide))

/-- The parts that the completion of a close can change. -/
def closeParts : List Part := [.ce, .prescaler, .ts, .sm, .segments, .lanes, .notices]

theorem proceed_frame (n : Fin 32) (s : State) : ChangesOnly closeParts s (proceed n s) := by
  unfold proceed
  dsimp only
  refine .ite ((idleEngine_frame _).mono (by decide)) (.ite ((endSequence_frame _ _ _).mono (by decide))
    (.ite ((endSequence_frame _ _ _).mono (by decide)) ?_))
  split
  · exact (endSequence_frame _ _ _).mono (by decide)
  · exact ((update_ce s _ (by rfl)).mono (by decide)).trans ((startSegment_frame _ _).mono (by decide))

theorem completeClose_frame (n : Fin 32) (r : EndReason) (s : State) :
    ChangesOnly closeParts s (completeClose n r s) := by
  unfold completeClose
  dsimp only
  exact (((modifySegment_frame _ _ _ (by intro; rfl)).mono (by decide)).trans
    ((raiseNotice_frame _ _).mono (by decide))).trans (proceed_frame _ _)

theorem discardedSymbols_holds (k : Nat) (g : SegmentStatus) :
    (discardedSymbols k g).holdCount = g.holdCount := by
  unfold discardedSymbols
  split <;> rfl

theorem resetCapture_frame (s : State) : ChangesOnly [.ce, .sm, .segments] s (resetCapture s) := by
  unfold resetCapture
  split
  · exact .refl _ _
  · refine .trans (.trans ((modifySegment_frame _ _ _ ?_).mono ?_) ((trimAll_frame _ _ _ _ _).mono ?_))
      ((idleEngine_frame _).mono ?_)
    · intro g
      rw [discardedSymbols_holds]
      rfl
    all_goals decide

end Sys2Proof.Machine
end

