-- ==== Sys2Proof/Laws/Display.lean ====
section
/-! SUPPORT. What the operations of the redecode, the Render Engine and the Scan-out Unit can do. -/

namespace Sys2Proof.Machine

/-! ### Redecode -/

/-- The parts that a redecode under way can change. -/
def redecodeParts : List Part := [.lanes, .segments, .ts, .notices, .sm, .redecode, .re]

theorem emit_redecode : ∀ p ∈ emitParts, p ∈ redecodeParts := by decide

theorem endReplay_frame (s : State) : ChangesOnly redecodeParts s (endReplay s) := by
  unfold endReplay
  split
  · exact .ite ((finishLanes_frame _ _).mono emit_redecode) (.refl _ _)
  · exact .refl _ _

/-- A render under way keeps its segment when its annotations are omitted. -/
theorem omitAnnotations_frame (n : Fin 32) (s : State) : ChangesOnly [.re] s (omitAnnotations n s) := by
  unfold omitAnnotations
  split
  · exact .refl _ _
  · rename_i d e
    refine .ite (update_draw s _ ⟨rfl, rfl⟩ rfl ?_) (.refl _ _)
    simp [renderJob, e]

theorem beginRedecode_frame (n : Fin 32) (s : State) :
    ChangesOnly redecodeParts s (beginRedecode n s) := by
  unfold beginRedecode
  dsimp only
  refine .trans ?_ (endReplay_frame _)
  exact ((((modifySegment_frame _ _ _ (by intro; rfl)).mono (by decide)).trans
    ((startLanes_frame _ _).mono (by decide))).trans ((update_redecode_sm _ _ _).mono (by decide))).trans
    ((omitAnnotations_frame _ _).mono (by decide))

theorem redecodeOwner_frame (c : LinkCell) (s : State) :
    ChangesOnly (.power :: .idleStart :: .slot :: redecodeParts) s (redecodeOwner c s) := by
  unfold redecodeOwner
  dsimp only
  refine .trans ((leaveStandby_frame s).mono (by decide)) ?_
  split
  · exact (putReply_frame _ _ _).mono (by decide)
  · exact ((beginRedecode_frame _ _).mono (by decide)).trans ((putReply_frame _ _ _).mono (by decide))

theorem giveSamples_frame (d : Nat) (v : Word) (k : Nat) (t : Time) (s : State) :
    ChangesOnly redecodeParts s (giveSamples d v k t s) := by
  induction k generalizing t s with
  | zero => exact .refl _ _
  | succ k ih =>
    exact (((lanesSample_frame _ _ _).mono emit_redecode).trans ((update_sm _ _).mono (by decide))).trans
      (ih _ _)

theorem replayRecord_frame (r : Redecode) (s : State) :
    ChangesOnly redecodeParts s (replayRecord r s) := by
  unfold replayRecord
  dsimp only
  exact ((giveSamples_frame _ _ _ _ _).trans ((update_redecode _ _).mono (by decide))).trans
    (endReplay_frame _)

theorem completeRedecode_frame (r : Redecode) (s : State) :
    ChangesOnly redecodeParts s (completeRedecode r s) := by
  unfold completeRedecode
  dsimp only
  exact (((modifySegment_frame _ _ _ (by intro; rfl)).mono (by decide)).trans
    ((update_redecode_sm _ _ _).mono (by decide))).trans ((raiseNotice_frame _ _).mono (by decide))

theorem abortRedecode_frame (s : State) : ChangesOnly [.segments, .redecode] s (abortRedecode s) := by
  unfold abortRedecode
  split
  · exact .refl _ _
  · exact (((trimAll_frame _ _ _ _ _).mono (by decide)).trans
      ((modifySegment_frame _ _ _ (by intro; rfl)).mono (by decide))).trans
      ((update_redecode _ _).mono (by decide))

/-! ### Render -/

theorem startRender_frame (s : State) :
    ChangesOnly [.re, .job, .segments, .holds] s (startRender s) :=
  ((update_re s _ (by exact ⟨rfl, rfl⟩) (by rfl)).mono (by decide)).trans
    ((placeHold_frame (snapshotOf s).view.segment _).mono (by decide))

theorem flip_frame (s : State) :
    ChangesOnly [.re, .job, .segments, .holds, .su, .notices] s (flip s) := by
  unfold flip
  split
  · dsimp only
    have h : ∀ (x : Su) (y : Re), x.panel = s.su.panel → x.palette = s.su.palette →
        x.glyphs = s.su.glyphs → x.cursors = s.su.cursors → y.setA = s.re.setA → y.setB = s.re.setB →
        y.active = s.re.active →
        ChangesOnly [.re, .job, .segments, .holds, .su, .notices] s { s with su := x, re := y } := by
      intro x y h1 h2 h3 h4 h5 h6 h7 p hp
      cases p <;> first
        | rfl | exact ⟨rfl, rfl, rfl⟩ | exact fun _ => rfl | exact h1 | exact h2 | exact h3 | exact h4
        | exact ⟨h5, h6⟩ | exact h7 | simp at hp
    rename_i d _ _
    have g := ((h { s.su with front := d.snapshot.buffer, frontView := some (frontViewOf d.snapshot) }
      (endRender d s.re) rfl rfl rfl rfl rfl rfl rfl).trans
      ((releaseHold_frame d.snapshot.view.segment _).mono (by decide))).trans
      ((raiseNotice_frame (.renderDone d.snapshot.view.segment d.outcome) _).mono (by decide))
    split
    · exact g.trans ((startRender_frame _).mono (by decide))
    · exact g
  · exact .refl _ _

theorem abortRender_frame (s : State) :
    ChangesOnly [.re, .job, .segments, .holds] s (abortRender s) := by
  unfold abortRender
  split
  · exact .refl _ _
  · exact ((update_re s _ (by exact ⟨rfl, rfl⟩) (by rfl)).mono (by decide)).trans
      ((releaseHold_frame _ _).mono (by decide))

theorem requestRender_frame (s : State) :
    ChangesOnly [.re, .job, .segments, .holds] s (requestRender s) := by
  unfold requestRender
  exact .ite (startRender_frame s)
    ((update_re s { s.re with pending := true } ⟨rfl, rfl⟩ rfl).mono (by decide))

theorem drawColumn_snapshot (g : Vector (BitVec 60) 64) (c : Nat) (d : Draw) :
    (drawColumn g c d).snapshot = d.snapshot := rfl

theorem drawColumns_snapshot (g : Vector (BitVec 60) 64) (t : Option Int) (k : Nat) (d : Draw) :
    (drawColumns g t k d).snapshot = d.snapshot := by
  induction k generalizing d with
  | zero => rfl
  | succ k ih =>
    unfold drawColumns
    dsimp only
    repeat' split
    all_goals first | rfl | exact (ih _).trans (by rfl)

theorem forwardRead_snapshot (g : Vector (BitVec 60) 64) (c p l : Nat) (t : Time) (r : Record) (d : Draw) :
    (forwardRead g c p l t r d).snapshot = d.snapshot := by
  unfold forwardRead
  dsimp only
  split <;> simp [drawColumns_snapshot]

theorem drawSymbol_snapshot (g : Vector (BitVec 60) 64) (y : Symbol) (d : Draw) :
    (drawSymbol g y d).snapshot = d.snapshot := by
  unfold drawSymbol
  split <;> rfl

theorem symbolRead_snapshot (g : Vector (BitVec 60) 64) (c p l : Nat) (y : Symbol) (d : Draw) :
    (symbolRead g c p l y d).snapshot = d.snapshot := drawSymbol_snapshot g y d

theorem completeDraw_snapshot (d : Draw) : (completeDraw d).snapshot = d.snapshot := by
  unfold completeDraw
  split <;> rfl

/-- A render under way, in Drawing or WaitFlip, goes on with another drawing of the same segment. -/
theorem drawing_frame (s : State) (d x : Draw) (h : s.re.draw = some d) (e : x.snapshot = d.snapshot) :
    ChangesOnly [.re] s (continueDraw x s) := by
  refine update_draw s _ ⟨rfl, rfl⟩ rfl ?_
  simp [renderJob, h, e]

theorem renderReads_frame {d : Draw} {p : Nat} {use : Record → Draw} {s t : State}
    (hd : s.re.draw = some d) (hu : ∀ r, (use r).snapshot = d.snapshot)
    (h : renderReads d p use s = .next t) : ChangesOnly [.re, .job] s t := by
  unfold renderReads at h
  dsimp only at h
  split at h
  · injection h with h
    subst h
    exact update_re s _ ⟨rfl, rfl⟩ rfl
  · split at h
    · injection h with h
      subst h
      exact (drawing_frame s d _ hd (hu _)).mono (by decide)
    · cases h

/-! ### Scan-out -/

theorem beginFrame_frame (s : State) : ChangesOnly [.su, .fill] s (beginFrame s) := by
  unfold beginFrame applyResize
  dsimp only
  split
  · intro p hp
    cases p <;> first
      | rfl | exact ⟨rfl, rfl⟩ | exact ⟨rfl, rfl, rfl⟩ | exact fun _ => rfl | simp at hp
  · exact (update_su s (takeUp s.time s.su) rfl rfl rfl rfl).mono (by decide)

end Sys2Proof.Machine
end

