-- ==== Sys2Proof/Laws/Bounds.lean ====
section
/-! SUPPORT. How the operations keep the bounds of the part's queues. -/

namespace Sys2Proof.Machine

/-- An operation that keeps every queue within its bound. -/
def KeepsBounds (s t : State) : Prop := QueueLaw s → QueueLaw t

namespace KeepsBounds

variable {s t u : State}

theorem refl (s : State) : KeepsBounds s s := id

theorem trans (h : KeepsBounds s t) (k : KeepsBounds t u) : KeepsBounds s u := fun q => k (h q)

theorem ite {c : Prop} [Decidable c] (h : KeepsBounds s t) (k : KeepsBounds s u) :
    KeepsBounds s (if c then t else u) := by
  split <;> assumption

theorem foldl {α : Type} {f : State → α → State} (h : ∀ s a, KeepsBounds s (f s a)) (s : State) :
    ∀ xs : List α, KeepsBounds s (xs.foldl f s) := by
  intro xs
  induction xs generalizing s with
  | nil => exact refl s
  | cons a xs ih => exact (h s a).trans (ih (f s a))

/-- An operation that leaves the queues alone keeps their bounds. -/
theorem of_frame {ps : List Part} (h : ChangesOnly ps s t) (a : Part.queue ∉ ps) (b : Part.ce ∉ ps)
    (c : Part.ts ∉ ps) (d : Part.lanes ∉ ps) (e : Part.sm ∉ ps) : KeepsBounds s t := by
  have a : t.lp.queue = s.lp.queue := h _ a
  have b : t.ce = s.ce := h _ b
  have c : t.ts = s.ts := h _ c
  have d : t.lanes = s.lanes := h _ d
  have e : t.sm = s.sm := h _ e
  intro q
  exact ⟨a ▸ q.commands, b ▸ q.records, b ▸ q.staged, c ▸ q.history, d ▸ q.symbols, e ▸ q.horizon⟩

end KeepsBounds

/-! ### One block -/

theorem bounds_ce (s : State) (c : Ce) (h : s.ce.queue.length ≤ 512 → c.queue.length ≤ 512)
    (k : s.ce.staging.length ≤ 16 → c.staging.length ≤ 16) : KeepsBounds s { s with ce := c } :=
  fun q => ⟨q.commands, h q.records, k q.staged, q.history, q.symbols, q.horizon⟩

theorem bounds_ts (s : State) (x : Ts) (h : s.ts.history.length ≤ 16 → x.history.length ≤ 16) :
    KeepsBounds s { s with ts := x } :=
  fun q => ⟨q.commands, q.records, q.staged, h q.history, q.symbols, q.horizon⟩

theorem bounds_lane (l : Fin 4) (f : Lane → Lane) (s : State)
    (h : s.lanes[l].fifo.length ≤ 32 → (f s.lanes[l]).fifo.length ≤ 32) :
    KeepsBounds s (modifyLane l f s) := by
  intro q
  refine ⟨q.commands, q.records, q.staged, q.history, fun m => ?_, q.horizon⟩
  unfold modifyLane
  by_cases e : l = m
  · subst e
    simpa using h (q.symbols l)
  · have : l.val ≠ m.val := fun w => e (Fin.ext w)
    simpa [this] using q.symbols m

theorem noteStamp_length (t : Time) (m : Sm) : (noteStamp t m).stamps.length ≤ 17 := by
  simp only [noteStamp, List.length_take]
  omega

theorem bounds_noteStamp (t : Time) (s : State) : KeepsBounds s { s with sm := noteStamp t s.sm } :=
  fun q => ⟨q.commands, q.records, q.staged, q.history, q.symbols, noteStamp_length t s.sm⟩

/-! ### Lanes -/

theorem processReleased_fifo (e : LaneEntry) (p : Nat) (x : Sample) (a : List Sample) (l : Lane) :
    (processReleased e p x a l).1.fifo = l.fifo := rfl

theorem laneTake_fifo (e : LaneEntry) (p : Nat) (x : Sample) (l : Lane) :
    (laneTake e p x l).1.fifo = l.fifo := by
  unfold laneTake
  split
  · rfl
  · split <;> rfl

theorem laneFlush_fifo (e : LaneEntry) (p : Nat) (w : List Sample) (l : Lane) :
    (laneFlush e p w l).1.fifo = l.fifo := by
  induction w generalizing l with
  | nil => rfl
  | cons y w ih => exact ih _

theorem insertSymbol_length (y : Symbol) (zs : List Symbol) :
    (insertSymbol y zs).length = zs.length + 1 := by
  induction zs with
  | nil => rfl
  | cons z zs ih =>
    unfold insertSymbol
    split <;> simp [ih]

theorem offerSymbol_bounds (l : Fin 4) (y : Symbol) (s : State) : KeepsBounds s (offerSymbol l y s) := by
  have d : ∀ q, KeepsBounds q (modifyLane l discardSymbol q) := fun q => bounds_lane l _ q id
  have c : ∀ q, KeepsBounds q (countFillingLost 1 q) := fun q =>
    .of_frame (countFillingLost_frame 1 q) (by decide) (by decide) (by decide) (by decide) (by decide)
  have r : ∀ n q, KeepsBounds q (raiseNotice n q) := fun n q =>
    .of_frame (raiseNotice_frame n q) (by decide) (by decide) (by decide) (by decide) (by decide)
  unfold offerSymbol
  dsimp only
  split
  · rename_i h
    refine bounds_lane l _ s fun _ => ?_
    simp only [acceptSymbol, insertSymbol_length]
    simp only [Config.fifoDepth] at h
    omega
  · exact .ite (.trans (.ite ((d _).trans (c _)) (d _)) (r _ _)) (.ite ((d _).trans (c _)) (d _))

theorem handOn_bounds (l : Fin 4) (y : Symbol) (s : State) : KeepsBounds s (handOn l y s) := by
  refine .trans ?_ (offerSymbol_bounds _ _ _)
  unfold offerToTs
  split
  · refine bounds_ts s _ fun h => ?_
    unfold receiveSymbol
    split <;> exact h
  · exact .refl _

theorem emitSymbol_bounds (l : Fin 4) (e : Emitted) (s : State) : KeepsBounds s (emitSymbol l e s) := by
  have x : ∀ y q, KeepsBounds q (extractFields l y q) := by
    intro y q
    unfold extractFields
    dsimp only
    exact .ite (bounds_lane l _ q id)
      (.ite (.trans (bounds_lane l _ q id) (.foldl (fun t f => handOn_bounds l f t) _ _)) (.refl _))
  exact .trans (.trans (bounds_lane l _ s id) (handOn_bounds _ _ _)) (x _ _)

theorem emitSymbols_bounds (l : Fin 4) (es : List Emitted) (s : State) :
    KeepsBounds s (emitSymbols l es s) := .foldl (fun t e => emitSymbol_bounds l e t) s es

theorem lanesSample_bounds (p : Nat) (x : Sample) (s : State) : KeepsBounds s (lanesSample p x s) := by
  refine .foldl (fun t l => ?_) s _
  unfold laneSample
  dsimp only
  exact .ite (.refl _) (.trans (bounds_lane l _ t fun h => by rw [laneTake_fifo]; exact h)
    (emitSymbols_bounds _ _ _))

theorem finishLanes_bounds (p : Nat) (s : State) : KeepsBounds s (finishLanes p s) := by
  refine .foldl (fun t l => ?_) s _
  unfold finishLane
  dsimp only
  exact .ite (.refl _) (.trans (.trans (bounds_lane l _ t fun h => by rw [laneFlush_fifo]; exact h)
    (emitSymbols_bounds _ _ _)) (bounds_lane l _ _ id))

theorem startLanes_bounds (m : LaneMode) (s : State) : KeepsBounds s (startLanes m s) := by
  refine .foldl (fun t l => bounds_lane l _ t fun h => ?_) s _
  split <;> exact h

theorem endRuns_bounds (s : State) : KeepsBounds s (endRuns s) := .ite (finishLanes_bounds _ _) (.refl _)

/-! ### Records -/

theorem feedQueue_length (q rs : List Record) (h : q.length ≤ 512) : (feedQueue q rs).1.length ≤ 512 := by
  induction rs generalizing q with
  | nil => exact h
  | cons r rs ih =>
    unfold feedQueue
    dsimp only
    generalize (r.triggerPoint || _) = b
    have k : (if b = true then Config.queueSlots else Config.normalSlots) ≤ 512 := by
      cases b <;> decide
    generalize (if b = true then Config.queueSlots else Config.normalSlots) = n at k
    by_cases e : q.length < n
    · rw [if_pos e]
      refine ih _ ?_
      simp only [List.length_append, List.length_singleton]
      omega
    · rw [if_neg e]
      exact h

theorem feed_bounds (s : State) : KeepsBounds s (feed s) :=
  bounds_ce s _ (feedQueue_length _ _) id

theorem haltTs_history (ts : Ts) : (haltTs ts).history = ts.history := by
  unfold haltTs
  split <;> rfl

theorem enterClosing_bounds (r : EndReason) (t : Time) (rs : List Record) (s : State) :
    KeepsBounds s (enterClosing r t rs s) := by
  refine .trans (fun q => ?_) (feed_bounds _)
  exact ⟨q.commands, q.records, by simp, by rw [haltTs_history]; exact q.history, q.symbols, q.horizon⟩

theorem loseRecord_bounds (t : Time) (r : Record) (s : State) : KeepsBounds s (loseRecord t r s) := by
  unfold loseRecord
  dsimp only
  exact .ite (enterClosing_bounds _ _ _ _) (bounds_ce s _ id id)

theorem pushRecord_bounds (p : Time × Record) (s : State) : KeepsBounds s (pushRecord p s) := by
  unfold pushRecord pushTrigger pushNormal
  dsimp only
  split
  · split
    · split
      · rename_i h
        refine bounds_ce s _ (fun _ => ?_) id
        simpa [Config.queueSlots] using h
      · exact loseRecord_bounds _ _ _
    · split
      · rename_i h
        refine bounds_ce s _ (fun _ => ?_) id
        simp only [Config.normalSlots] at h
        simp only [List.length_append, List.length_singleton]
        omega
      · exact loseRecord_bounds _ _ _
  · exact .refl _

theorem pushRecords_bounds (ps : List (Time × Record)) (s : State) : KeepsBounds s (pushRecords ps s) :=
  .foldl (fun t p => pushRecord_bounds p t) s ps

theorem afterDrain_bounds (s : State) : KeepsBounds s (afterDrain s) := by
  unfold afterDrain
  refine .ite (feed_bounds s) ?_
  split
  · split
    · rename_i h
      refine bounds_ce s _ (fun _ => ?_) id
      simp only [Config.normalSlots] at h
      simp only [List.length_append, List.length_singleton]
      omega
    · exact .refl _
  · exact .refl _

/-! ### Samples -/

theorem noteStart_bounds (t : Time) (s : State) : KeepsBounds s (noteStart t s) := by
  unfold noteStart
  split
  · exact .of_frame (modifySegment_frame _ _ _ (by intro; rfl)) (by decide) (by decide) (by decide)
      (by decide) (by decide)
  · exact .refl _

theorem openRecordAt_bounds (b : Bool) (x : Sample) (s : State) : KeepsBounds s (openRecordAt b x s) := by
  unfold openRecordAt
  exact .ite (fun q => ⟨q.commands, q.records, q.staged, q.history, q.symbols, q.horizon⟩) (.refl _)

theorem handleSample_bounds (x : Sample) (s : State) : KeepsBounds s (handleSample x s) := by
  have n : ∀ (o : OpenRecord) q, KeepsBounds q (noteHandled x { q with ce.openRecord := some o }) :=
    fun o q => fun h => ⟨h.commands, h.records, h.staged, h.history, h.symbols, h.horizon⟩
  unfold handleSample
  split
  · exact (noteStart_bounds _ _).trans (openRecordAt_bounds _ _ _)
  · dsimp only
    exact .ite ((pushRecords_bounds _ _).trans (.ite (n _ _) (.refl _)))
      ((pushRecords_bounds _ _).trans (openRecordAt_bounds _ _ _))

theorem handleSamples_bounds (xs : List Sample) (s : State) : KeepsBounds s (handleSamples xs s) :=
  .foldl (fun t x => .ite (handleSample_bounds x t) (.refl t)) s xs

theorem checkPreFill_bounds (s : State) : KeepsBounds s (checkPreFill s) :=
  .ite (fun q => ⟨q.commands, q.records, q.staged, q.history, q.symbols, q.horizon⟩) (.refl s)

theorem triggeredSample_bounds (s : State) (x : Sample) : KeepsBounds s (triggeredSample s x) :=
  .ite (.ite (enterClosing_bounds _ _ _ _) (handleSample_bounds _ _)) (.refl _)

theorem triggerCut_bounds (x : Sample) (c : Cause) (s : State) : KeepsBounds s (triggerCut x c s) := by
  have a : ∀ q, KeepsBounds q (cutOpenRecord x.stamp q) := by
    intro q
    unfold cutOpenRecord
    split
    · exact pushRecords_bounds _ _
    · exact noteStart_bounds _ _
  have b : ∀ q, KeepsBounds q (noteTrigger x.stamp c q) := by
    intro q
    unfold noteTrigger
    split
    · exact .of_frame (modifySegment_frame _ _ _ (by intro; rfl)) (by decide) (by decide) (by decide)
        (by decide) (by decide)
    · exact .refl _
  have e : ∀ (i : Option Nat) q, KeepsBounds q
      { q with ce := { q.ce with engine := .triggered, endIndex := i, heldForce := false } } :=
    fun i q => bounds_ce q _ id id
  unfold triggerCut
  dsimp only
  exact (a _).trans (.ite (((b _).trans (openRecordAt_bounds true x _)).trans (e _ _)) (.refl _))

theorem afterTriggerCut_bounds (x : Sample) (s : State) : KeepsBounds s (afterTriggerCut x s) := by
  have e : KeepsBounds s { s with ce.staging := [] } := bounds_ce s _ id (fun _ => by simp)
  unfold afterTriggerCut
  exact .ite (.ite (enterClosing_bounds _ _ _ _) (e.trans (.foldl triggeredSample_bounds _ _))) (.refl _)

theorem passTrigger_bounds (t : Time) (c : Cause) (s : State) : KeepsBounds s (passTrigger t c s) := by
  have e : KeepsBounds s { s with gen := triggerGenerator s.gen } :=
    fun q => ⟨q.commands, q.records, q.staged, q.history, q.symbols, q.horizon⟩
  unfold passTrigger
  dsimp only
  split
  · exact e.trans (.of_frame (raiseNotice_frame _ _) (by decide) (by decide) (by decide) (by decide)
      (by decide))
  · exact e

theorem fireAt_bounds (x : Sample) (n : Fin 8) (s : State) : KeepsBounds s (fireAt x n s) :=
  ((passTrigger_bounds _ _ _).trans (triggerCut_bounds _ _ _)).trans (afterTriggerCut_bounds _ _)

theorem forceAt_bounds (x : Sample) (s : State) : KeepsBounds s (forceAt x s) := by
  have h := triggerCut_bounds x .forced s
  have e : ∀ q : State, KeepsBounds q { q with ts := { q.ts with triggerTime := some x.stamp } } :=
    fun q => bounds_ts q _ id
  unfold forceAt
  dsimp only
  exact .ite (((h.trans (e _)).trans (passTrigger_bounds _ _ _)).trans (afterTriggerCut_bounds _ _)) h

theorem handleStaged_bounds (m x : Sample) (s : State) : KeepsBounds s (handleStaged m x s) := by
  have e : ∀ y, KeepsBounds s { s with ts := (evaluate s.ts y).1 } := fun y =>
    bounds_ts s _ (evaluate_history s.ts y)
  unfold handleStaged
  dsimp only
  refine .ite ?_ (.trans (.trans (bounds_ts s (passSymbols x.stamp s.ts) ?_) (handleSample_bounds _ _))
    (checkPreFill_bounds _))
  rotate_left
  · unfold passSymbols
    split <;> exact id
  split
  · exact (e _).trans (fireAt_bounds _ _ _)
  · exact (e _).trans (handleSample_bounds _ _)

theorem stageSample_bounds (x : Sample) (s : State) : KeepsBounds s (stageSample x s) := by
  unfold stageSample
  dsimp only
  split
  · split
    · rename_i m y rest e
      refine .trans (fun q => ?_) (handleStaged_bounds m y { s with ce.staging := y :: rest })
      refine ⟨q.commands, q.records, ?_, q.history, q.symbols, q.horizon⟩
      have h := q.staged
      have l := congrArg List.length e
      simp only [List.length_append, List.length_cons, List.length_nil] at l
      simp only [List.length_cons]
      omega
    · exact .refl _
  · rename_i h
    refine bounds_ce s _ id fun _ => ?_
    simpa [Config.stagingDepth] using h

theorem forceAfter_bounds (older : List Sample) (x : Sample) (s : State) :
    KeepsBounds s (forceAfter older x s) := by
  have b : KeepsBounds s { s with ce := { s.ce with staging := [] } } :=
    bounds_ce s _ id fun _ => by simp
  exact (b.trans (handleSamples_bounds older _)).trans (.ite (forceAt_bounds _ _) (.refl _))

theorem ceSample_bounds (x : Sample) (s : State) : KeepsBounds s (ceSample x s) := by
  have e : KeepsBounds s { s with ce := { s.ce with taken := s.ce.taken + 1 } } := bounds_ce s _ id id
  unfold ceSample
  dsimp only
  exact e.trans (.ite (forceAfter_bounds _ _ _) (.ite (triggeredSample_bounds _ _) (stageSample_bounds _ _)))

theorem takeSample_bounds (x : Sample) (s : State) : KeepsBounds s (takeSample x s) :=
  (((ceSample_bounds x s).trans (lanesSample_bounds _ _ _)).trans (bounds_noteStamp _ _)).trans
    (endRuns_bounds _)

theorem settle_bounds (s : State) : KeepsBounds s (settle s) :=
  .of_frame (settle_frame s) (by decide) (by decide) (by decide) (by decide) (by decide)

theorem forceNewest_bounds (s : State) : KeepsBounds s (forceNewest s) := by
  have b : ∀ t : Option Time, KeepsBounds s { s with ts := forceTs t s.ts } :=
    fun _ q => ⟨q.commands, q.records, q.staged, q.history, q.symbols, q.horizon⟩
  unfold forceNewest
  split
  · exact .refl _
  · exact ((b _).trans (forceAfter_bounds _ _ _)).trans (endRuns_bounds _)

theorem releaseForce_bounds (s : State) : KeepsBounds s (releaseForce s) :=
  .ite (forceNewest_bounds _) (.refl _)

/-- A sample keeps every queue within its bound. -/
theorem sampleTick_bounds (s : State) : KeepsBounds s (sampleTick s) := by
  have h := settle_bounds s
  have a : ∀ w q, KeepsBounds q (advanceSampler w q) := fun w q => bounds_ce q _ id id
  unfold sampleTick
  generalize settle s = q at h
  dsimp only
  split
  · exact (h.trans (a _ _)).trans (takeSample_bounds _ _)
  · exact (h.trans (releaseForce_bounds _)).trans (a _ _)

/-! ### The commands of the capture -/

theorem stopSampling_bounds (s : State) : KeepsBounds s (stopSampling s) := by
  have a : ∀ q, KeepsBounds q (stopCut q) := by
    intro q
    unfold stopCut
    exact .ite (.trans (.ite (noteStart_bounds _ _) (.refl _)) (enterClosing_bounds _ _ _ _)) (.refl _)
  have b : KeepsBounds s
      { s with ts := haltTs s.ts, ce := { s.ce with staging := [], stopTaken := true } } :=
    fun q => ⟨q.commands, q.records, by simp, by rw [haltTs_history]; exact q.history, q.symbols,
      q.horizon⟩
  exact ((b.trans (handleSamples_bounds _ _)).trans (a _)).trans (endRuns_bounds _)

theorem stopCapture_bounds (s : State) : KeepsBounds s (stopCapture s) :=
  (releaseForce_bounds s).trans (.ite (stopSampling_bounds _) (.refl _))

theorem forceCapture_bounds (s : State) : KeepsBounds s (forceCapture s) :=
  .ite (fun q => ⟨q.commands, q.records, q.staged, q.history, q.symbols, q.horizon⟩) (forceNewest_bounds _)

theorem startSegment_bounds (n : Fin 32) (s : State) : KeepsBounds s (startSegment n s) := by
  have a : KeepsBounds s { s with
      ce := preFillCe n s.time s.ce, prescaler := 0, ts := offTs s.ts, sm := { stamps := [] } } :=
    fun q => ⟨q.commands, by simp [preFillCe], by simp [preFillCe], by simp [offTs], q.symbols, by simp⟩
  have b : ∀ q : State, KeepsBounds q (modifySegment n (fillingSegment s.ce.table.loop) q) := fun q =>
    .of_frame (modifySegment_frame _ _ _ (by intro; rfl)) (by decide) (by decide) (by decide) (by decide)
      (by decide)
  exact ((a.trans (b _)).trans (startLanes_bounds _ _)).trans (checkPreFill_bounds _)

theorem idleEngine_bounds (s : State) : KeepsBounds s (idleEngine s) :=
  fun q => ⟨q.commands, Nat.zero_le _, Nat.zero_le _, q.history, q.symbols, Nat.zero_le _⟩

theorem completeClose_bounds (n : Fin 32) (r : EndReason) (s : State) :
    KeepsBounds s (completeClose n r s) := by
  have r' : ∀ x q, KeepsBounds q (raiseNotice x q) := fun x q =>
    .of_frame (raiseNotice_frame x q) (by decide) (by decide) (by decide) (by decide) (by decide)
  have e : ∀ d x q, KeepsBounds q (endSequence d x q) := fun d x q => (idleEngine_bounds q).trans (r' _ _)
  have m : KeepsBounds s (modifySegment n (closedSegment r s.ce.endTime) s) :=
    .of_frame (modifySegment_frame _ _ _ (by intro; rfl)) (by decide) (by decide) (by decide) (by decide)
      (by decide)
  have p : ∀ q, KeepsBounds q (proceed n q) := by
    intro q
    unfold proceed
    dsimp only
    refine .ite (idleEngine_bounds _) (.ite (e _ _ _) (.ite (e _ _ _) ?_))
    split
    · exact e _ _ _
    · refine .trans (bounds_ce q { q.ce with done := q.ce.done + 1 } id id) (startSegment_bounds _ _)
  unfold completeClose
  dsimp only
  exact (m.trans (r' _ _)).trans (p _)

theorem resetCapture_bounds (s : State) : KeepsBounds s (resetCapture s) := by
  unfold resetCapture
  split
  · exact .refl _
  · refine .trans (.trans (.of_frame (modifySegment_frame _ _ _ ?_) ?_ ?_ ?_ ?_ ?_)
      (.of_frame (trimAll_frame _ _ _ _ _) ?_ ?_ ?_ ?_ ?_)) (idleEngine_bounds _)
    · intro g
      rw [discardedSymbols_holds]
      rfl
    all_goals decide

/-- A drain keeps every queue within its bound. -/
theorem drainRecord_bounds {n : Fin 32} {r : Record} {rest : List Record} {s t : State}
    (hq : s.ce.queue = r :: rest) (h : drainRecord n r rest s = .next t) : KeepsBounds s t := by
  unfold drainRecord at h
  dsimp only at h
  split at h
  · have h := Host.Outcome.next.inj h
    subst h
    have a : KeepsBounds s (memoryLimit n s) :=
      .trans (bounds_ce s { s.ce with queue := [] } (fun _ => by simp) id) (enterClosing_bounds _ _ _ _)
    exact a.trans (endRuns_bounds _)
  · split at h
    · have h := Host.Outcome.next.inj h
      subst h
      refine .trans (.trans (fun q => ?_) (.of_frame (noteRender_frame _ _ _ (by intro; rfl)) (by decide)
        (by decide) (by decide) (by decide) (by decide))) (afterDrain_bounds _)
      have l := q.records
      rw [hq, List.length_cons] at l
      exact ⟨q.commands, Nat.le_of_succ_le l, q.staged, q.history, q.symbols, q.horizon⟩
    · cases h

/-- A symbol written keeps every queue within its bound. -/
theorem mergeSymbol_bounds {n : Fin 32} {l : Fin 4} {y : Symbol} {s t : State}
    (h : mergeSymbol n l y s = .next t) : KeepsBounds s t := by
  have a : KeepsBounds s (modifyLane l (fun q => { q with fifo := q.fifo.drop 1 }) s) :=
    bounds_lane l _ s fun e => by simp only [List.length_drop]; omega
  have b : ∀ f q, (∀ g, (f g).holdCount = g.holdCount) → KeepsBounds q (modifySegment n f q) := fun f q e =>
    .of_frame (modifySegment_frame n f q e) (by decide) (by decide) (by decide) (by decide) (by decide)
  unfold mergeSymbol at h
  dsimp only at h
  split at h
  · have h := Host.Outcome.next.inj h
    subst h
    have c := a.trans (b (refusedSymbol s.redecode.isSome) _ (by intro; rfl))
    split
    · exact c.trans (.of_frame (noteRefused_frame _) (by decide) (by decide) (by decide) (by decide)
        (by decide))
    · exact c
  · split at h
    · have h := Host.Outcome.next.inj h
      subst h
      exact ((a.trans (b _ _ (wroteSymbol_holds _ _ _))).trans (.of_frame (update_dram _ _) (by decide)
        (by decide) (by decide) (by decide) (by decide))).trans
        (.of_frame (noteRender_frame _ _ _ (by intro; rfl)) (by decide) (by decide) (by decide) (by decide)
          (by decide))
    · cases h

end Sys2Proof.Machine
end

