-- ==== Sys2Proof/Laws/Link.lean ====
section
/-! SUPPORT. What the operations of the Link Port, of the power states and of the table writes can do. -/

namespace Sys2Proof.Machine

/-! ### Dispatch -/

theorem takeCommand_frame {row : Instr} {s t : State} {c : LinkCell} (h : takeCommand row s = some (c, t)) :
    ChangesOnly dispatchParts s t := by
  unfold takeCommand at h
  split at h
  · cases h
  · split at h
    · injection h with h
      injection h with _ h
      subst h
      exact ((update_queue s _).mono (by decide)).trans ((restartIdle_frame _).mono (by decide))
    · cases h

/-- The dispatch of a command changes what its owner changes, and what every dispatch changes. -/
theorem dispatch_frame {row : Instr} {n : Option Nat} {b : Bool} {s t : State}
    {owner : LinkCell → State → State} {ps : List Part} (sub : ∀ p ∈ dispatchParts, p ∈ ps)
    (ho : ∀ c q, ChangesOnly ps q (owner c q)) (h : dispatch row n b s owner = .next t) :
    ChangesOnly ps s t := by
  unfold dispatch at h
  split at h
  · injection h with h
    subst h
    exact .refl _ _
  · rename_i c q e
    have g := (takeCommand_frame e).mono sub
    split at h
    · injection h with h
      subst h
      exact g.trans ((putReply_frame _ _ _).mono fun p hp => sub p (by simp_all [dispatchParts]))
    · injection h with h
      subst h
      exact g.trans (ho c q)

/-- A command taken for dispatch is of the row, and was the head of the queue. -/
theorem takeCommand_row {row : Instr} {s t : State} {c : LinkCell} (h : takeCommand row s = some (c, t)) :
    mayDispatch s = true ∧ commandRow c = row ∧
      ∃ rest, s.lp.queue = c :: rest ∧ t = restartIdle { s with lp.queue := rest } := by
  unfold takeCommand at h
  split at h
  · cases h
  · rename_i e
    split at h
    · rename_i g
      simp only [Option.some.injEq, Prod.mk.injEq] at h
      obtain ⟨rfl, rfl⟩ := h
      exact ⟨g.1, g.2.2, _, e, rfl⟩
    · cases h

/-- A WRITE names the table of the row that carries it out. -/
theorem writeRow_table {c : LinkCell} {row : Instr} {n : Nat} (h : commandRow c = row)
    (w : (row, n) ∈ [(Instr.writePods, 1), (.writeGenerator, 2), (.writeRegions, 3), (.writeSegmentPlan, 4),
      (.writeCursors, 12), (.writePanel, 15), (.writePowerAndNotice, 16)]) : byteAt c.payload 0 = n := by
  simp only [List.mem_cons, Prod.mk.injEq, List.not_mem_nil, or_false] at w
  rcases w with ⟨rfl, rfl⟩ | ⟨rfl, rfl⟩ | ⟨rfl, rfl⟩ | ⟨rfl, rfl⟩ | ⟨rfl, rfl⟩ | ⟨rfl, rfl⟩ | ⟨rfl, rfl⟩
  all_goals
    unfold commandRow at h
    split at h <;> try cases h
    · unfold writeRow at h
      split at h
      · cases h
      · split at h <;> first | assumption | cases h
    all_goals first
      | (unfold statusRow at h; split at h <;> first | cases h | (split at h <;> cases h))
      | (unfold powerRow at h; split at h <;> cases h)

/-- What holds of a state and of whatever follows from it through a dispatch and its owner, holds of the
state before the dispatch and the state after it. -/
theorem dispatch_keeps {P : State → State → Prop} (refl : ∀ s, P s s)
    (trans : ∀ {s t u}, P s t → P t u → P s u) (frame : ∀ s t, ChangesOnly dispatchParts s t → P s t)
    {row : Instr} {n : Option Nat} {b : Bool} {s t : State} {owner : LinkCell → State → State}
    (ho : ∀ c q, commandRow c = row → P q (owner c q)) (h : dispatch row n b s owner = .next t) : P s t := by
  unfold dispatch at h
  split at h
  · have h := Host.Outcome.next.inj h
    subst h
    exact refl _
  · rename_i c q e
    have g := frame _ _ (takeCommand_frame e)
    split at h
    · have h := Host.Outcome.next.inj h
      subst h
      exact trans g (frame _ _ ((putReply_frame _ _ _).mono (by decide)))
    · have h := Host.Outcome.next.inj h
      subst h
      exact trans g (ho c q (takeCommand_row e).2.1)

/-- A dispatch never faults and is never refused. -/
theorem dispatch_completes (row : Instr) (n : Option Nat) (b : Bool) (s : State)
    (owner : LinkCell → State → State) : ∃ t, dispatch row n b s owner = .next t := by
  unfold dispatch
  split
  · exact ⟨_, rfl⟩
  · split <;> exact ⟨_, rfl⟩

/-! ### The Link Port -/

theorem arrive_frame (c : LinkCell) (s : State) :
    ChangesOnly [.queue, .dropped, .notices, .idleStart] s (arrive c s) := by
  have h := restartIdle_frame s
  unfold arrive
  dsimp only
  split
  · exact (h.mono (by decide)).trans ((update_queue _ _).mono (by decide))
  · refine .trans (.trans (h.mono (by decide)) ?_) ((raiseNotice_frame _ _).mono (by decide))
    intro p hp
    cases p <;> first | rfl | exact ⟨rfl, rfl⟩ | exact ⟨rfl, rfl, rfl⟩ | exact fun _ => rfl | simp at hp

theorem startCell_frame (c : UpCell) (s : State) : ChangesOnly [.sending] s (startCell c s) :=
  update_sending s _

theorem cellSent_frame (s : State) : ChangesOnly [.sending] s (cellSent s) := update_sending s _

theorem takeReport_frame (r : StatusReport) (s : State) : ChangesOnly [.pods, .outputs] s (takeReport r s) := by
  unfold takeReport
  split
  · exact update_pfe s _ rfl rfl
  · exact .refl _ _

theorem takeReply_frame (b : ReplyBody) (s : State) : ChangesOnly [.pods, .outputs] s (takeReply b s) := by
  unfold takeReply
  split
  · exact takeReport_frame _ _
  · exact .refl _ _

theorem sendNoticeOf_frame (i : Fin 10) (s : State) :
    ChangesOnly [.notices, .noticesSent, .sending] s (sendNoticeOf i s) := by
  intro p hp
  cases p <;> first | rfl | exact ⟨rfl, rfl⟩ | exact ⟨rfl, rfl, rfl⟩ | exact fun _ => rfl | simp at hp

/-- The parts that a readout's beginning or end can change. -/
def readoutParts : List Part := [.readout, .segments, .holds, .notices, .sending]

theorem endReadout_frame (r : Readout) (s : State) : ChangesOnly readoutParts s (endReadout r s) :=
  (((update_readout s none).mono (by decide)).trans ((releaseHold_frame r.segment _).mono (by decide))).trans
    ((raiseNotice_frame (.readoutDone r.segment r.kind r.sent (r.sent == r.length)) _).mono (by decide))

theorem streamCellLeft_frame (n : Nat) (r : Readout) (s : State) :
    ChangesOnly readoutParts s (streamCellLeft n r s) := by
  unfold streamCellLeft
  exact .ite (endReadout_frame _ _) ((update_readout s _).mono (by decide))

theorem cancelReadout_frame (r : Readout) (s : State) :
    ChangesOnly readoutParts s (cancelReadout r s) := by
  unfold cancelReadout
  exact .ite ((update_readout s _).mono (by decide)) (endReadout_frame _ _)

theorem beginReadout_frame (tag : Byte) (n : Fin 32) (k : ItemKind) (a b : Nat) (s : State) :
    ChangesOnly readoutParts s (beginReadout tag n k a b s) := by
  unfold beginReadout
  dsimp only
  have h : ∀ r : Readout, ChangesOnly readoutParts s (placeHold n { s with lp.readout := some r }) :=
    fun r => ((update_readout s (some r)).mono (by decide)).trans ((placeHold_frame n _).mono (by decide))
  exact .ite ((h _).trans (endReadout_frame _ _)) (h _)

/-- The parts that a READOUT can change, beyond those of every dispatch. -/
def readoutCommandParts : List Part := [.power, .idleStart, .slot] ++ readoutParts

theorem readoutOwner_frame (c : LinkCell) (s : State) :
    ChangesOnly readoutCommandParts s (readoutOwner c s) := by
  have l : ChangesOnly readoutCommandParts s (leaveStandby s) := (leaveStandby_frame s).mono (by decide)
  unfold readoutOwner
  dsimp only
  split
  · split
    · exact l.trans ((putReply_frame _ _ _).mono (by decide))
    · exact (l.trans ((putReply_frame _ _ _).mono (by decide))).trans
        ((beginReadout_frame _ _ _ _ _ _).mono (by decide))
  · exact l.trans ((putReply_frame _ _ _).mono (by decide))

/-! ### Power -/

/-- The parts that the power states' operations can change. -/
def powerParts : List Part := [.power, .idleStart, .slot, .inProgress, .genOutputs, .wakeLogic, .wake]

theorem enterStandby_frame (s : State) : ChangesOnly [.power] s (enterStandby s) := by
  intro p hp
  cases p <;> first | rfl | exact ⟨rfl, rfl⟩ | exact ⟨rfl, rfl, rfl⟩ | exact fun _ => rfl | simp at hp

theorem enterSleep_frame (s : State) :
    ChangesOnly [.power, .genOutputs, .wakeLogic] s (enterSleep s) := by
  intro p hp
  cases p <;> first | rfl | exact ⟨rfl, rfl⟩ | exact ⟨rfl, rfl, rfl⟩ | exact fun _ => rfl | simp at hp

theorem startWake_frame (c : WakeCause) (p : PowerState) (s : State) :
    ChangesOnly [.wake] s (startWake c p s) := by
  intro p hp
  cases p <;> first | rfl | exact ⟨rfl, rfl⟩ | exact ⟨rfl, rfl, rfl⟩ | exact fun _ => rfl | simp at hp

theorem checkedMove_frame (move : State → State) (c : LinkCell) (s : State)
    (h : ∀ q, ChangesOnly powerParts q (move q)) : ChangesOnly powerParts s (checkedMove move c s) :=
  .ite ((putReply_frame _ _ _).mono (by decide)) ((h s).trans ((putReply_frame _ _ _).mono (by decide)))

theorem powerWake_frame (p : PowerState) (c : LinkCell) (s : State) :
    ChangesOnly powerParts s (powerWake p c s) :=
  ((update_inProgress s _).mono (by decide)).trans ((startWake_frame _ _ _).mono (by decide))

theorem powerRunOwner_frame (c : LinkCell) (s : State) :
    ChangesOnly powerParts s (powerRunOwner c s) := by
  unfold powerRunOwner
  refine .ite ((putReply_frame _ _ _).mono (by decide)) ?_
  split
  · exact (putReply_frame _ _ _).mono (by decide)
  · exact ((enterRun_frame _).mono (by decide)).trans ((putReply_frame _ _ _).mono (by decide))
  · exact powerWake_frame _ _ _

theorem powerStandbyOwner_frame (c : LinkCell) (s : State) :
    ChangesOnly powerParts s (powerStandbyOwner c s) := by
  unfold powerStandbyOwner
  split
  · exact checkedMove_frame _ _ _ fun q => (enterStandby_frame q).mono (by decide)
  · exact (putReply_frame _ _ _).mono (by decide)
  · exact powerWake_frame _ _ _

theorem powerSleepOwner_frame (c : LinkCell) (s : State) :
    ChangesOnly powerParts s (powerSleepOwner c s) := by
  unfold powerSleepOwner
  split
  · exact (putReply_frame _ _ _).mono (by decide)
  · exact checkedMove_frame _ _ _ fun q => (enterSleep_frame q).mono (by decide)

theorem replyToWake_frame (s : State) : ChangesOnly [.slot, .inProgress] s (replyToWake s) := by
  unfold replyToWake
  split
  · exact ((update_inProgress s none).mono (by decide)).trans ((putReply_frame _ _ _).mono (by decide))
  · exact .refl _ _

/-- The parts that the completion of a wake can change. -/
def wakeParts : List Part :=
  [.slot, .inProgress, .notices, .power, .idleStart, .su, .fill, .genOutputs, .loopCounter, .pods, .outputs,
    .wakeLogic, .wake]

theorem awaken_frame (w : WakeProgress) (s : State) : ChangesOnly wakeParts s (awaken w s) := by
  have h : ChangesOnly wakeParts s { s with
      pru := { s.pru with mask := 0, recorded := 0, changed := 0, wake := none }
      gen := wakeGenerator s.gen, pfe := wakePods s.time s.pfe } := by
    intro p hp
    cases p <;> first
      | rfl | exact ⟨rfl, rfl⟩ | exact ⟨rfl, rfl, rfl⟩ | exact fun _ => rfl
      | exact wakeGenerator_table s.gen | simp [wakeParts] at hp
  have e : ∀ q, ChangesOnly wakeParts q (enterAwake w.target q) := by
    intro q
    unfold enterAwake
    split
    · exact (enterStandby_frame q).mono (by decide)
    · exact (enterRun_frame q).mono (by decide)
  exact (((h.trans ((beginFrame_frame _).mono (by decide))).trans (e _)).trans
    ((raiseNotice_frame (.wake w.cause) _).mono (by decide))).trans ((replyToWake_frame _).mono (by decide))

/-! ### Resets -/

theorem dropReadout_frame (s : State) : ChangesOnly [.readout, .segments, .holds] s (dropReadout s) := by
  unfold dropReadout
  split
  · exact ((update_readout s none).mono (by decide)).trans ((releaseHold_frame _ _).mono (by decide))
  · exact .refl _ _

theorem endOperations_frame (s : State) :
    ChangesOnly [.ce, .sm, .segments, .holds, .redecode, .re, .job, .readout] s (endOperations s) :=
  ((((resetCapture_frame s).mono (by decide)).trans ((abortRedecode_frame _).mono (by decide))).trans
    ((abortRender_frame _).mono (by decide))).trans ((dropReadout_frame _).mono (by decide))

/-- The parts that a link reset can change. -/
def linkResetParts : List Part :=
  [.ce, .segments, .holds, .redecode, .re, .job, .readout, .ts, .lanes, .sm, .queue, .slot, .inProgress,
    .sending, .notices, .resetDue, .cause, .idleStart]

theorem linkReset_frame (s : State) : ChangesOnly linkResetParts s (linkReset s) := by
  refine .trans (.trans ((endOperations_frame s).mono (by decide)) ?_)
    ((restartIdle_frame _).mono (by decide))
  intro p hp
  cases p <;> first
    | rfl | exact ⟨rfl, rfl⟩ | exact ⟨rfl, rfl, rfl⟩ | exact fun _ => rfl | simp [linkResetParts] at hp

end Sys2Proof.Machine
end

