-- ==== Sys2Proof/Laws/State.lean ====
section
/-! SUPPORT. The fields of the state after each named update: one lemma per field per update, true by
definition, so that no later proof unfolds a record update. -/

namespace Sys2Proof.Machine

variable (s : State)

/-! ### `modifySegment` -/

@[simp] theorem modifySegment_pending (n : Fin 32) (f : SegmentStatus → SegmentStatus) :
    (modifySegment n f s).pending = s.pending := rfl
@[simp] theorem modifySegment_time (n : Fin 32) (f : SegmentStatus → SegmentStatus) :
    (modifySegment n f s).time = s.time := rfl
@[simp] theorem modifySegment_prescaler (n : Fin 32) (f : SegmentStatus → SegmentStatus) :
    (modifySegment n f s).prescaler = s.prescaler := rfl
@[simp] theorem modifySegment_pfe (n : Fin 32) (f : SegmentStatus → SegmentStatus) :
    (modifySegment n f s).pfe = s.pfe := rfl
@[simp] theorem modifySegment_gen (n : Fin 32) (f : SegmentStatus → SegmentStatus) :
    (modifySegment n f s).gen = s.gen := rfl
@[simp] theorem modifySegment_ce (n : Fin 32) (f : SegmentStatus → SegmentStatus) :
    (modifySegment n f s).ce = s.ce := rfl
@[simp] theorem modifySegment_plan (n : Fin 32) (f : SegmentStatus → SegmentStatus) :
    (modifySegment n f s).plan = s.plan := rfl
@[simp] theorem modifySegment_segments (n : Fin 32) (f : SegmentStatus → SegmentStatus) :
    (modifySegment n f s).segments = s.segments.set n (f s.segments[n]) := rfl
@[simp] theorem modifySegment_ts (n : Fin 32) (f : SegmentStatus → SegmentStatus) :
    (modifySegment n f s).ts = s.ts := rfl
@[simp] theorem modifySegment_laneTable (n : Fin 32) (f : SegmentStatus → SegmentStatus) :
    (modifySegment n f s).laneTable = s.laneTable := rfl
@[simp] theorem modifySegment_lanes (n : Fin 32) (f : SegmentStatus → SegmentStatus) :
    (modifySegment n f s).lanes = s.lanes := rfl
@[simp] theorem modifySegment_fieldMap (n : Fin 32) (f : SegmentStatus → SegmentStatus) :
    (modifySegment n f s).fieldMap = s.fieldMap := rfl
@[simp] theorem modifySegment_sm (n : Fin 32) (f : SegmentStatus → SegmentStatus) :
    (modifySegment n f s).sm = s.sm := rfl
@[simp] theorem modifySegment_redecode (n : Fin 32) (f : SegmentStatus → SegmentStatus) :
    (modifySegment n f s).redecode = s.redecode := rfl
@[simp] theorem modifySegment_mp (n : Fin 32) (f : SegmentStatus → SegmentStatus) :
    (modifySegment n f s).mp = s.mp := rfl
@[simp] theorem modifySegment_dram (n : Fin 32) (f : SegmentStatus → SegmentStatus) :
    (modifySegment n f s).dram = s.dram := rfl
@[simp] theorem modifySegment_re (n : Fin 32) (f : SegmentStatus → SegmentStatus) :
    (modifySegment n f s).re = s.re := rfl
@[simp] theorem modifySegment_su (n : Fin 32) (f : SegmentStatus → SegmentStatus) :
    (modifySegment n f s).su = s.su := rfl
@[simp] theorem modifySegment_lp (n : Fin 32) (f : SegmentStatus → SegmentStatus) :
    (modifySegment n f s).lp = s.lp := rfl
@[simp] theorem modifySegment_pru (n : Fin 32) (f : SegmentStatus → SegmentStatus) :
    (modifySegment n f s).pru = s.pru := rfl
@[simp] theorem modifySegment_noticesSent (n : Fin 32) (f : SegmentStatus → SegmentStatus) :
    (modifySegment n f s).noticesSent = s.noticesSent := rfl

/-! ### `placeHold` -/

@[simp] theorem placeHold_pending (n : Fin 32) : (placeHold n s).pending = s.pending := rfl
@[simp] theorem placeHold_time (n : Fin 32) : (placeHold n s).time = s.time := rfl
@[simp] theorem placeHold_prescaler (n : Fin 32) : (placeHold n s).prescaler = s.prescaler := rfl
@[simp] theorem placeHold_pfe (n : Fin 32) : (placeHold n s).pfe = s.pfe := rfl
@[simp] theorem placeHold_gen (n : Fin 32) : (placeHold n s).gen = s.gen := rfl
@[simp] theorem placeHold_ce (n : Fin 32) : (placeHold n s).ce = s.ce := rfl
@[simp] theorem placeHold_plan (n : Fin 32) : (placeHold n s).plan = s.plan := rfl
@[simp] theorem placeHold_segments (n : Fin 32) :
    (placeHold n s).segments = s.segments.set n { s.segments[n] with holdCount := s.segments[n].holdCount + 1 } := rfl
@[simp] theorem placeHold_ts (n : Fin 32) : (placeHold n s).ts = s.ts := rfl
@[simp] theorem placeHold_laneTable (n : Fin 32) : (placeHold n s).laneTable = s.laneTable := rfl
@[simp] theorem placeHold_lanes (n : Fin 32) : (placeHold n s).lanes = s.lanes := rfl
@[simp] theorem placeHold_fieldMap (n : Fin 32) : (placeHold n s).fieldMap = s.fieldMap := rfl
@[simp] theorem placeHold_sm (n : Fin 32) : (placeHold n s).sm = s.sm := rfl
@[simp] theorem placeHold_redecode (n : Fin 32) : (placeHold n s).redecode = s.redecode := rfl
@[simp] theorem placeHold_mp (n : Fin 32) : (placeHold n s).mp = s.mp := rfl
@[simp] theorem placeHold_dram (n : Fin 32) : (placeHold n s).dram = s.dram := rfl
@[simp] theorem placeHold_re (n : Fin 32) : (placeHold n s).re = s.re := rfl
@[simp] theorem placeHold_su (n : Fin 32) : (placeHold n s).su = s.su := rfl
@[simp] theorem placeHold_lp (n : Fin 32) : (placeHold n s).lp = s.lp := rfl
@[simp] theorem placeHold_pru (n : Fin 32) : (placeHold n s).pru = s.pru := rfl
@[simp] theorem placeHold_noticesSent (n : Fin 32) : (placeHold n s).noticesSent = s.noticesSent := rfl

/-! ### `releaseHold` -/

@[simp] theorem releaseHold_pending (n : Fin 32) : (releaseHold n s).pending = s.pending := rfl
@[simp] theorem releaseHold_time (n : Fin 32) : (releaseHold n s).time = s.time := rfl
@[simp] theorem releaseHold_prescaler (n : Fin 32) : (releaseHold n s).prescaler = s.prescaler := rfl
@[simp] theorem releaseHold_pfe (n : Fin 32) : (releaseHold n s).pfe = s.pfe := rfl
@[simp] theorem releaseHold_gen (n : Fin 32) : (releaseHold n s).gen = s.gen := rfl
@[simp] theorem releaseHold_ce (n : Fin 32) : (releaseHold n s).ce = s.ce := rfl
@[simp] theorem releaseHold_plan (n : Fin 32) : (releaseHold n s).plan = s.plan := rfl
@[simp] theorem releaseHold_segments (n : Fin 32) :
    (releaseHold n s).segments = s.segments.set n { s.segments[n] with holdCount := s.segments[n].holdCount - 1 } := rfl
@[simp] theorem releaseHold_ts (n : Fin 32) : (releaseHold n s).ts = s.ts := rfl
@[simp] theorem releaseHold_laneTable (n : Fin 32) : (releaseHold n s).laneTable = s.laneTable := rfl
@[simp] theorem releaseHold_lanes (n : Fin 32) : (releaseHold n s).lanes = s.lanes := rfl
@[simp] theorem releaseHold_fieldMap (n : Fin 32) : (releaseHold n s).fieldMap = s.fieldMap := rfl
@[simp] theorem releaseHold_sm (n : Fin 32) : (releaseHold n s).sm = s.sm := rfl
@[simp] theorem releaseHold_redecode (n : Fin 32) : (releaseHold n s).redecode = s.redecode := rfl
@[simp] theorem releaseHold_mp (n : Fin 32) : (releaseHold n s).mp = s.mp := rfl
@[simp] theorem releaseHold_dram (n : Fin 32) : (releaseHold n s).dram = s.dram := rfl
@[simp] theorem releaseHold_re (n : Fin 32) : (releaseHold n s).re = s.re := rfl
@[simp] theorem releaseHold_su (n : Fin 32) : (releaseHold n s).su = s.su := rfl
@[simp] theorem releaseHold_lp (n : Fin 32) : (releaseHold n s).lp = s.lp := rfl
@[simp] theorem releaseHold_pru (n : Fin 32) : (releaseHold n s).pru = s.pru := rfl
@[simp] theorem releaseHold_noticesSent (n : Fin 32) : (releaseHold n s).noticesSent = s.noticesSent := rfl

/-! ### `modifyLane` -/

@[simp] theorem modifyLane_pending (l : Fin 4) (f : Lane → Lane) :
    (modifyLane l f s).pending = s.pending := rfl
@[simp] theorem modifyLane_time (l : Fin 4) (f : Lane → Lane) : (modifyLane l f s).time = s.time := rfl
@[simp] theorem modifyLane_prescaler (l : Fin 4) (f : Lane → Lane) :
    (modifyLane l f s).prescaler = s.prescaler := rfl
@[simp] theorem modifyLane_pfe (l : Fin 4) (f : Lane → Lane) : (modifyLane l f s).pfe = s.pfe := rfl
@[simp] theorem modifyLane_gen (l : Fin 4) (f : Lane → Lane) : (modifyLane l f s).gen = s.gen := rfl
@[simp] theorem modifyLane_ce (l : Fin 4) (f : Lane → Lane) : (modifyLane l f s).ce = s.ce := rfl
@[simp] theorem modifyLane_plan (l : Fin 4) (f : Lane → Lane) : (modifyLane l f s).plan = s.plan := rfl
@[simp] theorem modifyLane_segments (l : Fin 4) (f : Lane → Lane) :
    (modifyLane l f s).segments = s.segments := rfl
@[simp] theorem modifyLane_ts (l : Fin 4) (f : Lane → Lane) : (modifyLane l f s).ts = s.ts := rfl
@[simp] theorem modifyLane_laneTable (l : Fin 4) (f : Lane → Lane) :
    (modifyLane l f s).laneTable = s.laneTable := rfl
@[simp] theorem modifyLane_lanes (l : Fin 4) (f : Lane → Lane) :
    (modifyLane l f s).lanes = s.lanes.set l (f s.lanes[l]) := rfl
@[simp] theorem modifyLane_fieldMap (l : Fin 4) (f : Lane → Lane) :
    (modifyLane l f s).fieldMap = s.fieldMap := rfl
@[simp] theorem modifyLane_sm (l : Fin 4) (f : Lane → Lane) : (modifyLane l f s).sm = s.sm := rfl
@[simp] theorem modifyLane_redecode (l : Fin 4) (f : Lane → Lane) :
    (modifyLane l f s).redecode = s.redecode := rfl
@[simp] theorem modifyLane_mp (l : Fin 4) (f : Lane → Lane) : (modifyLane l f s).mp = s.mp := rfl
@[simp] theorem modifyLane_dram (l : Fin 4) (f : Lane → Lane) : (modifyLane l f s).dram = s.dram := rfl
@[simp] theorem modifyLane_re (l : Fin 4) (f : Lane → Lane) : (modifyLane l f s).re = s.re := rfl
@[simp] theorem modifyLane_su (l : Fin 4) (f : Lane → Lane) : (modifyLane l f s).su = s.su := rfl
@[simp] theorem modifyLane_lp (l : Fin 4) (f : Lane → Lane) : (modifyLane l f s).lp = s.lp := rfl
@[simp] theorem modifyLane_pru (l : Fin 4) (f : Lane → Lane) : (modifyLane l f s).pru = s.pru := rfl
@[simp] theorem modifyLane_noticesSent (l : Fin 4) (f : Lane → Lane) :
    (modifyLane l f s).noticesSent = s.noticesSent := rfl

/-! ### `putReply` -/

@[simp] theorem putReply_pending (tag : Byte) (b : ReplyBody) :
    (putReply tag b s).pending = s.pending := rfl
@[simp] theorem putReply_time (tag : Byte) (b : ReplyBody) : (putReply tag b s).time = s.time := rfl
@[simp] theorem putReply_prescaler (tag : Byte) (b : ReplyBody) :
    (putReply tag b s).prescaler = s.prescaler := rfl
@[simp] theorem putReply_pfe (tag : Byte) (b : ReplyBody) : (putReply tag b s).pfe = s.pfe := rfl
@[simp] theorem putReply_gen (tag : Byte) (b : ReplyBody) : (putReply tag b s).gen = s.gen := rfl
@[simp] theorem putReply_ce (tag : Byte) (b : ReplyBody) : (putReply tag b s).ce = s.ce := rfl
@[simp] theorem putReply_plan (tag : Byte) (b : ReplyBody) : (putReply tag b s).plan = s.plan := rfl
@[simp] theorem putReply_segments (tag : Byte) (b : ReplyBody) :
    (putReply tag b s).segments = s.segments := rfl
@[simp] theorem putReply_ts (tag : Byte) (b : ReplyBody) : (putReply tag b s).ts = s.ts := rfl
@[simp] theorem putReply_laneTable (tag : Byte) (b : ReplyBody) :
    (putReply tag b s).laneTable = s.laneTable := rfl
@[simp] theorem putReply_lanes (tag : Byte) (b : ReplyBody) : (putReply tag b s).lanes = s.lanes := rfl
@[simp] theorem putReply_fieldMap (tag : Byte) (b : ReplyBody) :
    (putReply tag b s).fieldMap = s.fieldMap := rfl
@[simp] theorem putReply_sm (tag : Byte) (b : ReplyBody) : (putReply tag b s).sm = s.sm := rfl
@[simp] theorem putReply_redecode (tag : Byte) (b : ReplyBody) :
    (putReply tag b s).redecode = s.redecode := rfl
@[simp] theorem putReply_mp (tag : Byte) (b : ReplyBody) : (putReply tag b s).mp = s.mp := rfl
@[simp] theorem putReply_dram (tag : Byte) (b : ReplyBody) : (putReply tag b s).dram = s.dram := rfl
@[simp] theorem putReply_re (tag : Byte) (b : ReplyBody) : (putReply tag b s).re = s.re := rfl
@[simp] theorem putReply_su (tag : Byte) (b : ReplyBody) : (putReply tag b s).su = s.su := rfl
@[simp] theorem putReply_lp (tag : Byte) (b : ReplyBody) :
    (putReply tag b s).lp = { s.lp with slot := some { tag := tag, body := b } } := rfl
@[simp] theorem putReply_pru (tag : Byte) (b : ReplyBody) : (putReply tag b s).pru = s.pru := rfl
@[simp] theorem putReply_noticesSent (tag : Byte) (b : ReplyBody) :
    (putReply tag b s).noticesSent = s.noticesSent := rfl

/-! ### `startCell` -/

@[simp] theorem startCell_pending (c : UpCell) : (startCell c s).pending = s.pending := rfl
@[simp] theorem startCell_time (c : UpCell) : (startCell c s).time = s.time := rfl
@[simp] theorem startCell_prescaler (c : UpCell) : (startCell c s).prescaler = s.prescaler := rfl
@[simp] theorem startCell_pfe (c : UpCell) : (startCell c s).pfe = s.pfe := rfl
@[simp] theorem startCell_gen (c : UpCell) : (startCell c s).gen = s.gen := rfl
@[simp] theorem startCell_ce (c : UpCell) : (startCell c s).ce = s.ce := rfl
@[simp] theorem startCell_plan (c : UpCell) : (startCell c s).plan = s.plan := rfl
@[simp] theorem startCell_segments (c : UpCell) : (startCell c s).segments = s.segments := rfl
@[simp] theorem startCell_ts (c : UpCell) : (startCell c s).ts = s.ts := rfl
@[simp] theorem startCell_laneTable (c : UpCell) : (startCell c s).laneTable = s.laneTable := rfl
@[simp] theorem startCell_lanes (c : UpCell) : (startCell c s).lanes = s.lanes := rfl
@[simp] theorem startCell_fieldMap (c : UpCell) : (startCell c s).fieldMap = s.fieldMap := rfl
@[simp] theorem startCell_sm (c : UpCell) : (startCell c s).sm = s.sm := rfl
@[simp] theorem startCell_redecode (c : UpCell) : (startCell c s).redecode = s.redecode := rfl
@[simp] theorem startCell_mp (c : UpCell) : (startCell c s).mp = s.mp := rfl
@[simp] theorem startCell_dram (c : UpCell) : (startCell c s).dram = s.dram := rfl
@[simp] theorem startCell_re (c : UpCell) : (startCell c s).re = s.re := rfl
@[simp] theorem startCell_su (c : UpCell) : (startCell c s).su = s.su := rfl
@[simp] theorem startCell_lp (c : UpCell) : (startCell c s).lp = { s.lp with sending := some c } := rfl
@[simp] theorem startCell_pru (c : UpCell) : (startCell c s).pru = s.pru := rfl
@[simp] theorem startCell_noticesSent (c : UpCell) : (startCell c s).noticesSent = s.noticesSent := rfl

/-! ### `cellSent` -/

@[simp] theorem cellSent_pending : (cellSent s).pending = s.pending := rfl
@[simp] theorem cellSent_time : (cellSent s).time = s.time := rfl
@[simp] theorem cellSent_prescaler : (cellSent s).prescaler = s.prescaler := rfl
@[simp] theorem cellSent_pfe : (cellSent s).pfe = s.pfe := rfl
@[simp] theorem cellSent_gen : (cellSent s).gen = s.gen := rfl
@[simp] theorem cellSent_ce : (cellSent s).ce = s.ce := rfl
@[simp] theorem cellSent_plan : (cellSent s).plan = s.plan := rfl
@[simp] theorem cellSent_segments : (cellSent s).segments = s.segments := rfl
@[simp] theorem cellSent_ts : (cellSent s).ts = s.ts := rfl
@[simp] theorem cellSent_laneTable : (cellSent s).laneTable = s.laneTable := rfl
@[simp] theorem cellSent_lanes : (cellSent s).lanes = s.lanes := rfl
@[simp] theorem cellSent_fieldMap : (cellSent s).fieldMap = s.fieldMap := rfl
@[simp] theorem cellSent_sm : (cellSent s).sm = s.sm := rfl
@[simp] theorem cellSent_redecode : (cellSent s).redecode = s.redecode := rfl
@[simp] theorem cellSent_mp : (cellSent s).mp = s.mp := rfl
@[simp] theorem cellSent_dram : (cellSent s).dram = s.dram := rfl
@[simp] theorem cellSent_re : (cellSent s).re = s.re := rfl
@[simp] theorem cellSent_su : (cellSent s).su = s.su := rfl
@[simp] theorem cellSent_lp : (cellSent s).lp = { s.lp with sending := none } := rfl
@[simp] theorem cellSent_pru : (cellSent s).pru = s.pru := rfl
@[simp] theorem cellSent_noticesSent : (cellSent s).noticesSent = s.noticesSent := rfl

/-! ### `enterRun` -/

@[simp] theorem enterRun_pending : (enterRun s).pending = s.pending := rfl
@[simp] theorem enterRun_time : (enterRun s).time = s.time := rfl
@[simp] theorem enterRun_prescaler : (enterRun s).prescaler = s.prescaler := rfl
@[simp] theorem enterRun_pfe : (enterRun s).pfe = s.pfe := rfl
@[simp] theorem enterRun_gen : (enterRun s).gen = s.gen := rfl
@[simp] theorem enterRun_ce : (enterRun s).ce = s.ce := rfl
@[simp] theorem enterRun_plan : (enterRun s).plan = s.plan := rfl
@[simp] theorem enterRun_segments : (enterRun s).segments = s.segments := rfl
@[simp] theorem enterRun_ts : (enterRun s).ts = s.ts := rfl
@[simp] theorem enterRun_laneTable : (enterRun s).laneTable = s.laneTable := rfl
@[simp] theorem enterRun_lanes : (enterRun s).lanes = s.lanes := rfl
@[simp] theorem enterRun_fieldMap : (enterRun s).fieldMap = s.fieldMap := rfl
@[simp] theorem enterRun_sm : (enterRun s).sm = s.sm := rfl
@[simp] theorem enterRun_redecode : (enterRun s).redecode = s.redecode := rfl
@[simp] theorem enterRun_mp : (enterRun s).mp = s.mp := rfl
@[simp] theorem enterRun_dram : (enterRun s).dram = s.dram := rfl
@[simp] theorem enterRun_re : (enterRun s).re = s.re := rfl
@[simp] theorem enterRun_su : (enterRun s).su = s.su := rfl
@[simp] theorem enterRun_lp : (enterRun s).lp = s.lp := rfl
@[simp] theorem enterRun_pru : (enterRun s).pru = { s.pru with power := .run, idleStart := s.time } := rfl
@[simp] theorem enterRun_noticesSent : (enterRun s).noticesSent = s.noticesSent := rfl

/-! ### `enterStandby` -/

@[simp] theorem enterStandby_pending : (enterStandby s).pending = s.pending := rfl
@[simp] theorem enterStandby_time : (enterStandby s).time = s.time := rfl
@[simp] theorem enterStandby_prescaler : (enterStandby s).prescaler = s.prescaler := rfl
@[simp] theorem enterStandby_pfe : (enterStandby s).pfe = s.pfe := rfl
@[simp] theorem enterStandby_gen : (enterStandby s).gen = s.gen := rfl
@[simp] theorem enterStandby_ce : (enterStandby s).ce = s.ce := rfl
@[simp] theorem enterStandby_plan : (enterStandby s).plan = s.plan := rfl
@[simp] theorem enterStandby_segments : (enterStandby s).segments = s.segments := rfl
@[simp] theorem enterStandby_ts : (enterStandby s).ts = s.ts := rfl
@[simp] theorem enterStandby_laneTable : (enterStandby s).laneTable = s.laneTable := rfl
@[simp] theorem enterStandby_lanes : (enterStandby s).lanes = s.lanes := rfl
@[simp] theorem enterStandby_fieldMap : (enterStandby s).fieldMap = s.fieldMap := rfl
@[simp] theorem enterStandby_sm : (enterStandby s).sm = s.sm := rfl
@[simp] theorem enterStandby_redecode : (enterStandby s).redecode = s.redecode := rfl
@[simp] theorem enterStandby_mp : (enterStandby s).mp = s.mp := rfl
@[simp] theorem enterStandby_dram : (enterStandby s).dram = s.dram := rfl
@[simp] theorem enterStandby_re : (enterStandby s).re = s.re := rfl
@[simp] theorem enterStandby_su : (enterStandby s).su = s.su := rfl
@[simp] theorem enterStandby_lp : (enterStandby s).lp = s.lp := rfl
@[simp] theorem enterStandby_pru : (enterStandby s).pru = { s.pru with power := .standby } := rfl
@[simp] theorem enterStandby_noticesSent : (enterStandby s).noticesSent = s.noticesSent := rfl

/-! ### `startWake` -/

@[simp] theorem startWake_pending (c : WakeCause) (p : PowerState) :
    (startWake c p s).pending = s.pending := rfl
@[simp] theorem startWake_time (c : WakeCause) (p : PowerState) : (startWake c p s).time = s.time := rfl
@[simp] theorem startWake_prescaler (c : WakeCause) (p : PowerState) :
    (startWake c p s).prescaler = s.prescaler := rfl
@[simp] theorem startWake_pfe (c : WakeCause) (p : PowerState) : (startWake c p s).pfe = s.pfe := rfl
@[simp] theorem startWake_gen (c : WakeCause) (p : PowerState) : (startWake c p s).gen = s.gen := rfl
@[simp] theorem startWake_ce (c : WakeCause) (p : PowerState) : (startWake c p s).ce = s.ce := rfl
@[simp] theorem startWake_plan (c : WakeCause) (p : PowerState) : (startWake c p s).plan = s.plan := rfl
@[simp] theorem startWake_segments (c : WakeCause) (p : PowerState) :
    (startWake c p s).segments = s.segments := rfl
@[simp] theorem startWake_ts (c : WakeCause) (p : PowerState) : (startWake c p s).ts = s.ts := rfl
@[simp] theorem startWake_laneTable (c : WakeCause) (p : PowerState) :
    (startWake c p s).laneTable = s.laneTable := rfl
@[simp] theorem startWake_lanes (c : WakeCause) (p : PowerState) : (startWake c p s).lanes = s.lanes := rfl
@[simp] theorem startWake_fieldMap (c : WakeCause) (p : PowerState) :
    (startWake c p s).fieldMap = s.fieldMap := rfl
@[simp] theorem startWake_sm (c : WakeCause) (p : PowerState) : (startWake c p s).sm = s.sm := rfl
@[simp] theorem startWake_redecode (c : WakeCause) (p : PowerState) :
    (startWake c p s).redecode = s.redecode := rfl
@[simp] theorem startWake_mp (c : WakeCause) (p : PowerState) : (startWake c p s).mp = s.mp := rfl
@[simp] theorem startWake_dram (c : WakeCause) (p : PowerState) : (startWake c p s).dram = s.dram := rfl
@[simp] theorem startWake_re (c : WakeCause) (p : PowerState) : (startWake c p s).re = s.re := rfl
@[simp] theorem startWake_su (c : WakeCause) (p : PowerState) : (startWake c p s).su = s.su := rfl
@[simp] theorem startWake_lp (c : WakeCause) (p : PowerState) : (startWake c p s).lp = s.lp := rfl
@[simp] theorem startWake_pru (c : WakeCause) (p : PowerState) :
    (startWake c p s).pru = { s.pru with wake := some { cause := c, target := p } } := rfl
@[simp] theorem startWake_noticesSent (c : WakeCause) (p : PowerState) :
    (startWake c p s).noticesSent = s.noticesSent := rfl

/-! ### `enterArmed` -/

@[simp] theorem enterArmed_pending : (enterArmed s).pending = s.pending := rfl
@[simp] theorem enterArmed_time : (enterArmed s).time = s.time := rfl
@[simp] theorem enterArmed_prescaler : (enterArmed s).prescaler = s.prescaler := rfl
@[simp] theorem enterArmed_pfe : (enterArmed s).pfe = s.pfe := rfl
@[simp] theorem enterArmed_gen : (enterArmed s).gen = s.gen := rfl
@[simp] theorem enterArmed_ce : (enterArmed s).ce = { s.ce with engine := .armed } := rfl
@[simp] theorem enterArmed_plan : (enterArmed s).plan = s.plan := rfl
@[simp] theorem enterArmed_segments : (enterArmed s).segments = s.segments := rfl
@[simp] theorem enterArmed_ts : (enterArmed s).ts = runTs s.ts := rfl
@[simp] theorem enterArmed_laneTable : (enterArmed s).laneTable = s.laneTable := rfl
@[simp] theorem enterArmed_lanes : (enterArmed s).lanes = s.lanes := rfl
@[simp] theorem enterArmed_fieldMap : (enterArmed s).fieldMap = s.fieldMap := rfl
@[simp] theorem enterArmed_sm : (enterArmed s).sm = s.sm := rfl
@[simp] theorem enterArmed_redecode : (enterArmed s).redecode = s.redecode := rfl
@[simp] theorem enterArmed_mp : (enterArmed s).mp = s.mp := rfl
@[simp] theorem enterArmed_dram : (enterArmed s).dram = s.dram := rfl
@[simp] theorem enterArmed_re : (enterArmed s).re = s.re := rfl
@[simp] theorem enterArmed_su : (enterArmed s).su = s.su := rfl
@[simp] theorem enterArmed_lp : (enterArmed s).lp = s.lp := rfl
@[simp] theorem enterArmed_pru : (enterArmed s).pru = s.pru := rfl
@[simp] theorem enterArmed_noticesSent : (enterArmed s).noticesSent = s.noticesSent := rfl

/-! ### `noteHandled` -/

@[simp] theorem noteHandled_pending (x : Sample) : (noteHandled x s).pending = s.pending := rfl
@[simp] theorem noteHandled_time (x : Sample) : (noteHandled x s).time = s.time := rfl
@[simp] theorem noteHandled_prescaler (x : Sample) : (noteHandled x s).prescaler = s.prescaler := rfl
@[simp] theorem noteHandled_pfe (x : Sample) : (noteHandled x s).pfe = s.pfe := rfl
@[simp] theorem noteHandled_gen (x : Sample) : (noteHandled x s).gen = s.gen := rfl
@[simp] theorem noteHandled_ce (x : Sample) :
    (noteHandled x s).ce = { s.ce with handled := s.ce.handled + 1, previous := some x.levels } := rfl
@[simp] theorem noteHandled_plan (x : Sample) : (noteHandled x s).plan = s.plan := rfl
@[simp] theorem noteHandled_segments (x : Sample) : (noteHandled x s).segments = s.segments := rfl
@[simp] theorem noteHandled_ts (x : Sample) : (noteHandled x s).ts = s.ts := rfl
@[simp] theorem noteHandled_laneTable (x : Sample) : (noteHandled x s).laneTable = s.laneTable := rfl
@[simp] theorem noteHandled_lanes (x : Sample) : (noteHandled x s).lanes = s.lanes := rfl
@[simp] theorem noteHandled_fieldMap (x : Sample) : (noteHandled x s).fieldMap = s.fieldMap := rfl
@[simp] theorem noteHandled_sm (x : Sample) : (noteHandled x s).sm = s.sm := rfl
@[simp] theorem noteHandled_redecode (x : Sample) : (noteHandled x s).redecode = s.redecode := rfl
@[simp] theorem noteHandled_mp (x : Sample) : (noteHandled x s).mp = s.mp := rfl
@[simp] theorem noteHandled_dram (x : Sample) : (noteHandled x s).dram = s.dram := rfl
@[simp] theorem noteHandled_re (x : Sample) : (noteHandled x s).re = s.re := rfl
@[simp] theorem noteHandled_su (x : Sample) : (noteHandled x s).su = s.su := rfl
@[simp] theorem noteHandled_lp (x : Sample) : (noteHandled x s).lp = s.lp := rfl
@[simp] theorem noteHandled_pru (x : Sample) : (noteHandled x s).pru = s.pru := rfl
@[simp] theorem noteHandled_noticesSent (x : Sample) : (noteHandled x s).noticesSent = s.noticesSent := rfl

/-! ### `idleEngine` -/

@[simp] theorem idleEngine_pending : (idleEngine s).pending = s.pending := rfl
@[simp] theorem idleEngine_time : (idleEngine s).time = s.time := rfl
@[simp] theorem idleEngine_prescaler : (idleEngine s).prescaler = s.prescaler := rfl
@[simp] theorem idleEngine_pfe : (idleEngine s).pfe = s.pfe := rfl
@[simp] theorem idleEngine_gen : (idleEngine s).gen = s.gen := rfl
@[simp] theorem idleEngine_ce : (idleEngine s).ce = { idleCe with table := s.ce.table } := rfl
@[simp] theorem idleEngine_plan : (idleEngine s).plan = s.plan := rfl
@[simp] theorem idleEngine_segments : (idleEngine s).segments = s.segments := rfl
@[simp] theorem idleEngine_ts : (idleEngine s).ts = s.ts := rfl
@[simp] theorem idleEngine_laneTable : (idleEngine s).laneTable = s.laneTable := rfl
@[simp] theorem idleEngine_lanes : (idleEngine s).lanes = s.lanes := rfl
@[simp] theorem idleEngine_fieldMap : (idleEngine s).fieldMap = s.fieldMap := rfl
@[simp] theorem idleEngine_sm : (idleEngine s).sm = { stamps := [] } := rfl
@[simp] theorem idleEngine_redecode : (idleEngine s).redecode = s.redecode := rfl
@[simp] theorem idleEngine_mp : (idleEngine s).mp = s.mp := rfl
@[simp] theorem idleEngine_dram : (idleEngine s).dram = s.dram := rfl
@[simp] theorem idleEngine_re : (idleEngine s).re = s.re := rfl
@[simp] theorem idleEngine_su : (idleEngine s).su = s.su := rfl
@[simp] theorem idleEngine_lp : (idleEngine s).lp = s.lp := rfl
@[simp] theorem idleEngine_pru : (idleEngine s).pru = s.pru := rfl
@[simp] theorem idleEngine_noticesSent : (idleEngine s).noticesSent = s.noticesSent := rfl

/-! ### `continueDraw` -/

@[simp] theorem continueDraw_pending (d : Draw) : (continueDraw d s).pending = s.pending := rfl
@[simp] theorem continueDraw_time (d : Draw) : (continueDraw d s).time = s.time := rfl
@[simp] theorem continueDraw_prescaler (d : Draw) : (continueDraw d s).prescaler = s.prescaler := rfl
@[simp] theorem continueDraw_pfe (d : Draw) : (continueDraw d s).pfe = s.pfe := rfl
@[simp] theorem continueDraw_gen (d : Draw) : (continueDraw d s).gen = s.gen := rfl
@[simp] theorem continueDraw_ce (d : Draw) : (continueDraw d s).ce = s.ce := rfl
@[simp] theorem continueDraw_plan (d : Draw) : (continueDraw d s).plan = s.plan := rfl
@[simp] theorem continueDraw_segments (d : Draw) : (continueDraw d s).segments = s.segments := rfl
@[simp] theorem continueDraw_ts (d : Draw) : (continueDraw d s).ts = s.ts := rfl
@[simp] theorem continueDraw_laneTable (d : Draw) : (continueDraw d s).laneTable = s.laneTable := rfl
@[simp] theorem continueDraw_lanes (d : Draw) : (continueDraw d s).lanes = s.lanes := rfl
@[simp] theorem continueDraw_fieldMap (d : Draw) : (continueDraw d s).fieldMap = s.fieldMap := rfl
@[simp] theorem continueDraw_sm (d : Draw) : (continueDraw d s).sm = s.sm := rfl
@[simp] theorem continueDraw_redecode (d : Draw) : (continueDraw d s).redecode = s.redecode := rfl
@[simp] theorem continueDraw_mp (d : Draw) : (continueDraw d s).mp = s.mp := rfl
@[simp] theorem continueDraw_dram (d : Draw) : (continueDraw d s).dram = s.dram := rfl
@[simp] theorem continueDraw_re (d : Draw) : (continueDraw d s).re = { s.re with draw := some d } := rfl
@[simp] theorem continueDraw_su (d : Draw) : (continueDraw d s).su = s.su := rfl
@[simp] theorem continueDraw_lp (d : Draw) : (continueDraw d s).lp = s.lp := rfl
@[simp] theorem continueDraw_pru (d : Draw) : (continueDraw d s).pru = s.pru := rfl
@[simp] theorem continueDraw_noticesSent (d : Draw) : (continueDraw d s).noticesSent = s.noticesSent := rfl

/-! ### `overrun` -/

@[simp] theorem overrun_pending (d : Draw) : (overrun d s).pending = s.pending := rfl
@[simp] theorem overrun_time (d : Draw) : (overrun d s).time = s.time := rfl
@[simp] theorem overrun_prescaler (d : Draw) : (overrun d s).prescaler = s.prescaler := rfl
@[simp] theorem overrun_pfe (d : Draw) : (overrun d s).pfe = s.pfe := rfl
@[simp] theorem overrun_gen (d : Draw) : (overrun d s).gen = s.gen := rfl
@[simp] theorem overrun_ce (d : Draw) : (overrun d s).ce = s.ce := rfl
@[simp] theorem overrun_plan (d : Draw) : (overrun d s).plan = s.plan := rfl
@[simp] theorem overrun_segments (d : Draw) : (overrun d s).segments = s.segments := rfl
@[simp] theorem overrun_ts (d : Draw) : (overrun d s).ts = s.ts := rfl
@[simp] theorem overrun_laneTable (d : Draw) : (overrun d s).laneTable = s.laneTable := rfl
@[simp] theorem overrun_lanes (d : Draw) : (overrun d s).lanes = s.lanes := rfl
@[simp] theorem overrun_fieldMap (d : Draw) : (overrun d s).fieldMap = s.fieldMap := rfl
@[simp] theorem overrun_sm (d : Draw) : (overrun d s).sm = s.sm := rfl
@[simp] theorem overrun_redecode (d : Draw) : (overrun d s).redecode = s.redecode := rfl
@[simp] theorem overrun_mp (d : Draw) : (overrun d s).mp = s.mp := rfl
@[simp] theorem overrun_dram (d : Draw) : (overrun d s).dram = s.dram := rfl
@[simp] theorem overrun_re (d : Draw) :
    (overrun d s).re = { s.re with job := .waitFlip, draw := some (overrunDraw d) } := rfl
@[simp] theorem overrun_su (d : Draw) : (overrun d s).su = s.su := rfl
@[simp] theorem overrun_lp (d : Draw) : (overrun d s).lp = s.lp := rfl
@[simp] theorem overrun_pru (d : Draw) : (overrun d s).pru = s.pru := rfl
@[simp] theorem overrun_noticesSent (d : Draw) : (overrun d s).noticesSent = s.noticesSent := rfl

/-! ### `setPanel` -/

@[simp] theorem setPanel_pending (p : Panel) : (setPanel p s).pending = s.pending := rfl
@[simp] theorem setPanel_time (p : Panel) : (setPanel p s).time = s.time := rfl
@[simp] theorem setPanel_prescaler (p : Panel) : (setPanel p s).prescaler = s.prescaler := rfl
@[simp] theorem setPanel_pfe (p : Panel) : (setPanel p s).pfe = s.pfe := rfl
@[simp] theorem setPanel_gen (p : Panel) : (setPanel p s).gen = s.gen := rfl
@[simp] theorem setPanel_ce (p : Panel) : (setPanel p s).ce = s.ce := rfl
@[simp] theorem setPanel_plan (p : Panel) : (setPanel p s).plan = s.plan := rfl
@[simp] theorem setPanel_segments (p : Panel) : (setPanel p s).segments = s.segments := rfl
@[simp] theorem setPanel_ts (p : Panel) : (setPanel p s).ts = s.ts := rfl
@[simp] theorem setPanel_laneTable (p : Panel) : (setPanel p s).laneTable = s.laneTable := rfl
@[simp] theorem setPanel_lanes (p : Panel) : (setPanel p s).lanes = s.lanes := rfl
@[simp] theorem setPanel_fieldMap (p : Panel) : (setPanel p s).fieldMap = s.fieldMap := rfl
@[simp] theorem setPanel_sm (p : Panel) : (setPanel p s).sm = s.sm := rfl
@[simp] theorem setPanel_redecode (p : Panel) : (setPanel p s).redecode = s.redecode := rfl
@[simp] theorem setPanel_mp (p : Panel) : (setPanel p s).mp = s.mp := rfl
@[simp] theorem setPanel_dram (p : Panel) : (setPanel p s).dram = s.dram := rfl
@[simp] theorem setPanel_re (p : Panel) : (setPanel p s).re = s.re := rfl
@[simp] theorem setPanel_su (p : Panel) :
    (setPanel p s).su = { s.su with panel := p, resizing := s.su.resizing || resizes p s } := rfl
@[simp] theorem setPanel_lp (p : Panel) : (setPanel p s).lp = s.lp := rfl
@[simp] theorem setPanel_pru (p : Panel) : (setPanel p s).pru = s.pru := rfl
@[simp] theorem setPanel_noticesSent (p : Panel) : (setPanel p s).noticesSent = s.noticesSent := rfl

end Sys2Proof.Machine
end

