-- ==== Sys2Proof/Laws/Dispatch.lean ====
section
/-! SUPPORT. The dispatch of a command that is ready: what its row does once the head has left the queue, by
the form of the command. -/

namespace Sys2Proof.Machine

/-- The state in which the owner of a dispatched command acts: the head has left the queue, and in Run the
idle timer has restarted. -/
def popped (rest : List LinkCell) (s : State) : State := restartIdle { s with lp.queue := rest }

variable (rest : List LinkCell) (s : State)

theorem restartIdle_eq : restartIdle s =
    { s with pru.idleStart := if s.pru.power = .run then s.time else s.pru.idleStart } := by
  unfold restartIdle
  split <;> simp_all

/-- A raise as one update of the notice slots. -/
theorem raiseNotice_eq (n : NoticeSnapshot) : raiseNotice n s =
    { s with lp.notices := (raiseNotice n s).lp.notices } := by
  by_cases h : noticeEnabled s (noticeKind n) = true <;> simp [raiseNotice, h]

/-- The notice slots after a raise depend on the slots and on table 16 alone. -/
theorem raiseNotice_notices (n : NoticeSnapshot) (t : State) (hn : t.lp.notices = s.lp.notices)
    (hp : t.pru.table = s.pru.table) : (raiseNotice n t).lp.notices = (raiseNotice n s).lp.notices := by
  have he : noticeEnabled t (noticeKind n) = noticeEnabled s (noticeKind n) := by
    simp only [noticeEnabled, hp]
  by_cases h : noticeEnabled s (noticeKind n) = true <;> simp [raiseNotice, he, h, hn]

theorem popped_eq : popped rest s = { s with
    lp.queue := rest, pru.idleStart := if s.pru.power = .run then s.time else s.pru.idleStart } := by
  simp [popped, restartIdle_eq]

@[simp] theorem popped_pending : (popped rest s).pending = s.pending := by simp [popped_eq]
@[simp] theorem popped_time : (popped rest s).time = s.time := by simp [popped_eq]
@[simp] theorem popped_prescaler : (popped rest s).prescaler = s.prescaler := by simp [popped_eq]
@[simp] theorem popped_pfe : (popped rest s).pfe = s.pfe := by simp [popped_eq]
@[simp] theorem popped_gen : (popped rest s).gen = s.gen := by simp [popped_eq]
@[simp] theorem popped_ce : (popped rest s).ce = s.ce := by simp [popped_eq]
@[simp] theorem popped_plan : (popped rest s).plan = s.plan := by simp [popped_eq]
@[simp] theorem popped_segments : (popped rest s).segments = s.segments := by simp [popped_eq]
@[simp] theorem popped_ts : (popped rest s).ts = s.ts := by simp [popped_eq]
@[simp] theorem popped_laneTable : (popped rest s).laneTable = s.laneTable := by simp [popped_eq]
@[simp] theorem popped_lanes : (popped rest s).lanes = s.lanes := by simp [popped_eq]
@[simp] theorem popped_fieldMap : (popped rest s).fieldMap = s.fieldMap := by simp [popped_eq]
@[simp] theorem popped_sm : (popped rest s).sm = s.sm := by simp [popped_eq]
@[simp] theorem popped_redecode : (popped rest s).redecode = s.redecode := by simp [popped_eq]
@[simp] theorem popped_mp : (popped rest s).mp = s.mp := by simp [popped_eq]
@[simp] theorem popped_dram : (popped rest s).dram = s.dram := by simp [popped_eq]
@[simp] theorem popped_re : (popped rest s).re = s.re := by simp [popped_eq]
@[simp] theorem popped_su : (popped rest s).su = s.su := by simp [popped_eq]
@[simp] theorem popped_noticesSent : (popped rest s).noticesSent = s.noticesSent := by simp [popped_eq]
@[simp] theorem popped_lp : (popped rest s).lp = { s.lp with queue := rest } := by simp [popped_eq]
@[simp] theorem popped_pru : (popped rest s).pru =
    { s.pru with idleStart := if s.pru.power = .run then s.time else s.pru.idleStart } := by
  simp [popped_eq]

theorem popped_frame : ChangesOnly [.queue, .idleStart] s (popped rest s) := by
  intro p hp
  cases p <;> simp_all [Part.same, renderJob]

variable {c : LinkCell} {rest : List LinkCell} {s : State}

theorem mayDispatch_of_ready (h : Ready c rest s) : mayDispatch s = true := by
  simp [mayDispatch, h.slot, h.free, h.awake, h.noReset]

/-- A command of another row than FORCE and WRITE of table 2 never waits for the next tick. -/
theorem waitsForTick_other (hf : commandRow c ≠ .force) (hw : commandRow c ≠ .writeGenerator) :
    waitsForTick c s = false := by
  unfold waitsForTick changesOutputs
  split <;> simp_all

/-- A command that waits for the next tick is not dispatched. -/
theorem takeCommand_waits (hq : s.lp.queue = c :: rest) (h : waitsForTick c s = true) (row : Instr) :
    takeCommand row s = none := by
  simp [takeCommand, hq, h]

/-- A ready command is taken by its own row. -/
theorem takeCommand_ready (h : Ready c rest s) {row : Instr} (hr : commandRow c = row) :
    takeCommand row s = some (c, popped rest s) := by
  unfold takeCommand
  rw [h.head]
  exact if_pos ⟨mayDispatch_of_ready h, h.untied, hr⟩

theorem formRefusal_none (h : Ready c rest s) {n : Option Nat} {b : Bool} {t : State}
    (hn : n.any (fun k => k != c.payload.length) = false) (hb : t.pru.power = .sleep → b = true) :
    formRefusal c n b t = none := by
  have hw := h.whole
  simp only [wholeCell, Bool.and_eq_true, decide_eq_true_eq, beq_iff_eq] at hw
  unfold formRefusal
  rw [if_neg (by simp [Config.maxPayload]; omega), if_neg (by simp [hn]), if_neg]
  rintro ⟨hs, hf⟩
  simp [hb hs] at hf

theorem formRefusal_length {n : Option Nat} {b : Bool} {t : State}
    (hn : n.any (fun k => k != c.payload.length) = true) : formRefusal c n b t = some .badLength := by
  unfold formRefusal
  split <;> rfl

theorem formRefusal_asleep (h : Ready c rest s) {n : Option Nat} {t : State}
    (hn : n.any (fun k => k != c.payload.length) = false) (hs : t.pru.power = .sleep) :
    formRefusal c n false t = some .asleep := by
  have hw := h.whole
  simp only [wholeCell, Bool.and_eq_true, decide_eq_true_eq, beq_iff_eq] at hw
  unfold formRefusal
  rw [if_neg (by simp [Config.maxPayload]; omega), if_neg (by simp [hn]), if_pos ⟨hs, rfl⟩]

/-- The dispatch of a ready command whose form is refused. -/
theorem dispatch_refused (h : Ready c rest s) {row : Instr} (hr : commandRow c = row) {n : Option Nat}
    {b : Bool} {owner : LinkCell → State → State} {code : RefusalCode}
    (hf : formRefusal c n b (popped rest s) = some code) :
    dispatch row n b s owner = .next (putReply c.tag (.refused code 0) (popped rest s)) := by
  unfold dispatch
  rw [takeCommand_ready h hr]
  simp only [hf]

/-- The dispatch of a ready command of the right form: its owner acts. -/
theorem dispatch_owner (h : Ready c rest s) {row : Instr} (hr : commandRow c = row) {n : Option Nat}
    {b : Bool} {owner : LinkCell → State → State} (hn : n.any (fun k => k != c.payload.length) = false)
    (hb : s.pru.power = .sleep → b = true) :
    dispatch row n b s owner = .next (owner c (popped rest s)) := by
  unfold dispatch
  rw [takeCommand_ready h hr]
  simp only [formRefusal_none h hn (t := popped rest s) (by simpa using hb)]

/-- A refusal placed for the head, with nothing else changed. -/
theorem refuses_of_exec {i : Instr} {code : RefusalCode} {index : Byte}
    (he : exec i s = .next (putReply c.tag (.refused code index) (popped rest s))) :
    refuses i c rest code index s := by
  refine ⟨_, he, ⟨by simp, by simp⟩, ?_⟩
  exact ((popped_frame rest s).mono (by decide)).trans ((putReply_frame _ _ _).mono (by decide))

/-- A refusal placed for the head after a return to Run, with nothing else changed. -/
theorem refusesInRun_of_exec {i : Instr} {code : RefusalCode} (hp : s.pru.power ≠ .sleep)
    (he : exec i s = .next (putReply c.tag (.refused code 0) (leaveStandby (popped rest s)))) :
    refusesInRun i c rest code s := by
  refine ⟨_, he, ?_, ?_, ?_⟩
  · unfold leaveStandby
    split <;> simp [answered, enterRun]
  · unfold leaveStandby
    split
    · simp [enterRun]
    · rename_i hs
      simp only [popped_pru] at hs
      simp only [putReply_pru, popped_pru]
      cases he : s.pru.power <;> simp_all
  · exact ((popped_frame rest s).mono (by decide)).trans
      (((leaveStandby_frame _).mono (by decide)).trans ((putReply_frame _ _ _).mono (by decide)))

/-! ### The row of a command -/

theorem commandRow_write (h : c.code = 1) : commandRow c = writeRow c.payload := by simp [commandRow, h]
theorem commandRow_read (h : c.code = 2) : commandRow c = .read := by simp [commandRow, h]
theorem commandRow_arm (h : c.code = 3) : commandRow c = .arm := by simp [commandRow, h]
theorem commandRow_stop (h : c.code = 4) : commandRow c = .stop := by simp [commandRow, h]
theorem commandRow_force (h : c.code = 5) : commandRow c = .force := by simp [commandRow, h]
theorem commandRow_redecode (h : c.code = 6) : commandRow c = .redecode := by simp [commandRow, h]
theorem commandRow_render (h : c.code = 7) : commandRow c = .render := by simp [commandRow, h]
theorem commandRow_swap (h : c.code = 8) : commandRow c = .swap := by simp [commandRow, h]
theorem commandRow_readout (h : c.code = 9) : commandRow c = .readout := by simp [commandRow, h]
theorem commandRow_cancel (h : c.code = 10) : commandRow c = .cancel := by simp [commandRow, h]
theorem commandRow_status (h : c.code = 11) : commandRow c = statusRow c.payload := by simp [commandRow, h]
theorem commandRow_power (h : c.code = 12) : commandRow c = powerRow c.payload := by simp [commandRow, h]
theorem commandRow_reset (h : c.code = 13) : commandRow c = .reset := by simp [commandRow, h]

end Sys2Proof.Machine
end

