-- ==== Sys2Proof/Laws/Engine.lean ====
section
/-! SUPPORT. What the operations of a capture keep of the engine: its current segment, the state of every
segment, and that an engine that is not Idle does not become so. -/

namespace Sys2Proof.Machine

/-- A capture goes on, or closes, in its segment: the current segment and the segments' states stay, and an
engine that is not Idle stays so. -/
structure KeepsEngine (s t : State) : Prop where
  segment : t.ce.segment = s.ce.segment
  states : ∀ n : Fin 32, t.segments[n].state = s.segments[n].state
  busy : s.ce.engine ≠ .idle → t.ce.engine ≠ .idle

namespace KeepsEngine

variable {s t u : State}

theorem refl (s : State) : KeepsEngine s s := ⟨rfl, fun _ => rfl, id⟩

theorem trans (h : KeepsEngine s t) (k : KeepsEngine t u) : KeepsEngine s u :=
  ⟨k.segment.trans h.segment, fun n => (k.states n).trans (h.states n), fun e => k.busy (h.busy e)⟩

theorem ite {c : Prop} [Decidable c] (h : KeepsEngine s t) (k : KeepsEngine s u) :
    KeepsEngine s (if c then t else u) := by
  split <;> assumption

theorem foldl {α : Type} {f : State → α → State} (h : ∀ s a, KeepsEngine s (f s a)) (s : State) :
    ∀ xs : List α, KeepsEngine s (xs.foldl f s) := by
  intro xs
  induction xs generalizing s with
  | nil => exact refl s
  | cons a xs ih => exact (h s a).trans (ih (f s a))

/-- An operation that leaves the engine and the status records alone keeps the engine. -/
theorem of_frame {ps : List Part} (h : ChangesOnly ps s t) (a : Part.ce ∉ ps) (b : Part.segments ∉ ps) :
    KeepsEngine s t := by
  have e : t.ce = s.ce := h _ a
  have g : t.segments = s.segments := h _ b
  exact ⟨by rw [e], fun n => by rw [g], by rw [e]; exact id⟩

end KeepsEngine

/-! ### One block -/

theorem engine_ce (s : State) (c : Ce) (h : c.segment = s.ce.segment)
    (k : s.ce.engine ≠ .idle → c.engine ≠ .idle) : KeepsEngine s { s with ce := c } :=
  ⟨h, fun _ => rfl, k⟩

theorem modifySegment_state (n : Fin 32) (f : SegmentStatus → SegmentStatus) (s : State) (m : Fin 32)
    (h : ∀ g, (f g).state = g.state) : (modifySegment n f s).segments[m].state = s.segments[m].state := by
  unfold modifySegment
  by_cases e : n = m
  · subst e; simp [h]
  · have : n.val ≠ m.val := fun q => e (Fin.ext q)
    simp [this]

theorem modifySegment_engine (n : Fin 32) (f : SegmentStatus → SegmentStatus) (s : State)
    (h : ∀ g, (f g).state = g.state) : KeepsEngine s (modifySegment n f s) :=
  ⟨rfl, fun m => modifySegment_state n f s m h, id⟩

/-! ### Pods, lanes and symbols -/

theorem changePresent_engine (pod : Fin 4) (s : State) : KeepsEngine s (changePresent pod s) := by
  unfold changePresent
  dsimp only
  have g : ∀ (p : Pfe) (n : NoticeSnapshot), KeepsEngine s (raiseNotice n { s with pfe := p }) :=
    fun p n => .trans (t := { s with pfe := p }) ⟨rfl, fun _ => rfl, id⟩
      (.of_frame (raiseNotice_frame n _) (by decide) (by decide))
  have l : ∀ q, KeepsEngine q (notePodLost pod q) := by
    intro q
    unfold notePodLost
    split
    · exact .ite (modifySegment_engine _ _ _ (by intro; rfl)) (.refl _)
    · exact .refl _
  exact .ite (g _ _) ((g _ _).trans (l _))

theorem settle_engine (s : State) : KeepsEngine s (settle s) := by
  unfold settle
  refine .trans (.foldl (fun t pod => .ite (changePresent_engine pod t) (.refl t)) s _) (.foldl ?_ _ _)
  exact fun t i => .ite ⟨rfl, fun _ => rfl, id⟩ (.refl t)

theorem offerSymbol_engine (l : Fin 4) (y : Symbol) (s : State) : KeepsEngine s (offerSymbol l y s) := by
  have h : ∀ f, KeepsEngine s (modifyLane l f s) := fun f => ⟨rfl, fun _ => rfl, id⟩
  have c : ∀ q, KeepsEngine q (countFillingLost 1 q) := by
    intro q
    unfold countFillingLost
    split
    · exact modifySegment_engine _ _ _ (by intro; rfl)
    · exact .refl _
  have r : ∀ n q, KeepsEngine q (raiseNotice n q) := fun n q =>
    .of_frame (raiseNotice_frame n q) (by decide) (by decide)
  unfold offerSymbol
  dsimp only
  have g : KeepsEngine s (if s.lanes[l].mode = .running then countFillingLost 1 (modifyLane l discardSymbol s)
      else modifyLane l discardSymbol s) := .ite ((h _).trans (c _)) (h _)
  exact .ite (h _) (.ite (g.trans (r _ _)) g)

theorem handOn_engine (l : Fin 4) (y : Symbol) (s : State) : KeepsEngine s (handOn l y s) :=
  .trans (.of_frame (offerToTs_frame l y s) (by decide) (by decide)) (offerSymbol_engine _ _ _)

theorem extractFields_engine (l : Fin 4) (y : Symbol) (s : State) :
    KeepsEngine s (extractFields l y s) := by
  have h : ∀ f, KeepsEngine s (modifyLane l f s) := fun f => ⟨rfl, fun _ => rfl, id⟩
  unfold extractFields
  dsimp only
  exact .ite (h _) (.ite ((h _).trans (.foldl (fun t f => handOn_engine l f t) _ _)) (.refl _))

theorem emitSymbol_engine (l : Fin 4) (e : Emitted) (s : State) : KeepsEngine s (emitSymbol l e s) := by
  have h : ∀ f, KeepsEngine s (modifyLane l f s) := fun f => ⟨rfl, fun _ => rfl, id⟩
  exact ((h _).trans (handOn_engine _ _ _)).trans (extractFields_engine _ _ _)

theorem emitSymbols_engine (l : Fin 4) (es : List Emitted) (s : State) :
    KeepsEngine s (emitSymbols l es s) := .foldl (fun t e => emitSymbol_engine l e t) s es

theorem lanesSample_engine (p : Nat) (x : Sample) (s : State) : KeepsEngine s (lanesSample p x s) := by
  refine .foldl (fun t l => ?_) s _
  unfold laneSample
  have h : ∀ f, KeepsEngine t (modifyLane l f t) := fun f => ⟨rfl, fun _ => rfl, id⟩
  exact .ite (.refl _) ((h _).trans (emitSymbols_engine _ _ _))

theorem finishLanes_engine (p : Nat) (s : State) : KeepsEngine s (finishLanes p s) := by
  refine .foldl (fun t l => ?_) s _
  unfold finishLane
  have h : ∀ q f, KeepsEngine q (modifyLane l f q) := fun q f => ⟨rfl, fun _ => rfl, id⟩
  exact .ite (.refl _) (((h _ _).trans (emitSymbols_engine _ _ _)).trans (h _ _))

theorem endRuns_engine (s : State) : KeepsEngine s (endRuns s) := .ite (finishLanes_engine _ _) (.refl _)

theorem trimAll_engine (n : Fin 32) (a b : Time) (k : Nat) (s : State) :
    KeepsEngine s (trimAll n a b k s) := by
  induction k generalizing s with
  | zero => exact .refl _
  | succ k ih =>
    refine .trans ?_ (ih _)
    unfold trimStep
    split
    · exact modifySegment_engine _ _ _ (by intro; rfl)
    · exact .refl _

/-! ### Records, samples and cuts -/

theorem feed_engine (s : State) : KeepsEngine s (feed s) := engine_ce s _ rfl id

theorem enterClosing_engine (r : EndReason) (t : Time) (rs : List Record) (s : State) :
    KeepsEngine s (enterClosing r t rs s) :=
  ⟨rfl, fun _ => rfl, fun _ => by simp [enterClosing, feed]⟩

theorem loseRecord_engine (t : Time) (r : Record) (s : State) : KeepsEngine s (loseRecord t r s) := by
  unfold loseRecord
  dsimp only
  exact .ite (enterClosing_engine _ _ _ _) (engine_ce s _ rfl id)

theorem pushRecord_engine (p : Time × Record) (s : State) : KeepsEngine s (pushRecord p s) := by
  unfold pushRecord pushTrigger pushNormal
  dsimp only
  exact .ite (.ite (.ite (engine_ce s _ rfl id) (loseRecord_engine _ _ _))
    (.ite (engine_ce s _ rfl id) (loseRecord_engine _ _ _))) (.refl _)

theorem pushRecords_engine (ps : List (Time × Record)) (s : State) : KeepsEngine s (pushRecords ps s) :=
  .foldl (fun t p => pushRecord_engine p t) s ps

theorem noteHandled_engine (x : Sample) (s : State) : KeepsEngine s (noteHandled x s) :=
  engine_ce s _ rfl id

theorem noteStart_engine (t : Time) (s : State) : KeepsEngine s (noteStart t s) := by
  unfold noteStart
  split
  · exact modifySegment_engine _ _ _ (by intro; rfl)
  · exact .refl _

theorem openRecordAt_engine (b : Bool) (x : Sample) (s : State) : KeepsEngine s (openRecordAt b x s) := by
  unfold openRecordAt
  exact .ite (.trans (engine_ce s { s.ce with openRecord := some (openAt s b x) } rfl id)
    (noteHandled_engine _ _)) (.refl _)

theorem handleSample_engine (x : Sample) (s : State) : KeepsEngine s (handleSample x s) := by
  unfold handleSample
  split
  · exact (noteStart_engine _ _).trans (openRecordAt_engine _ _ _)
  · rename_i o _
    refine .ite ?_ ((pushRecords_engine _ _).trans (openRecordAt_engine _ _ _))
    refine (pushRecords_engine _ _).trans (.ite ?_ (.refl _))
    exact .trans (engine_ce _ _ (by rfl) (by exact id)) (noteHandled_engine _ _)

theorem handleSamples_engine (xs : List Sample) (s : State) : KeepsEngine s (handleSamples xs s) :=
  .foldl (fun t x => .ite (handleSample_engine x t) (.refl t)) s xs

theorem checkPreFill_engine (s : State) : KeepsEngine s (checkPreFill s) :=
  .ite ⟨rfl, fun _ => rfl, fun _ => by simp [enterArmed]⟩ (.refl s)

theorem endCut_engine (r : EndReason) (t : Time) (s : State) : KeepsEngine s (endCut r t s) :=
  enterClosing_engine _ _ _ _

theorem triggeredSample_engine (s : State) (x : Sample) : KeepsEngine s (triggeredSample s x) :=
  .ite (.ite (endCut_engine _ _ _) (handleSample_engine _ _)) (.refl _)

theorem triggerCut_engine (x : Sample) (c : Cause) (s : State) : KeepsEngine s (triggerCut x c s) := by
  have a : ∀ q, KeepsEngine q (cutOpenRecord x.stamp q) := by
    intro q
    unfold cutOpenRecord
    split
    · exact pushRecords_engine _ _
    · exact noteStart_engine _ _
  have b : ∀ q, KeepsEngine q (noteTrigger x.stamp c q) := by
    intro q
    unfold noteTrigger
    split
    · exact modifySegment_engine _ _ _ (by intro; rfl)
    · exact .refl _
  unfold triggerCut
  dsimp only
  refine (a _).trans (.ite ?_ (.refl _))
  have g := (b (cutOpenRecord x.stamp s)).trans (openRecordAt_engine true x _)
  exact ⟨g.segment, g.states, fun _ => by simp⟩

theorem afterTriggerCut_engine (x : Sample) (s : State) : KeepsEngine s (afterTriggerCut x s) := by
  unfold afterTriggerCut
  exact .ite (.ite (endCut_engine _ _ _)
    (.trans (engine_ce s { s.ce with staging := [] } rfl id) (.foldl triggeredSample_engine _ _))) (.refl _)

theorem passTrigger_engine (t : Time) (c : Cause) (s : State) : KeepsEngine s (passTrigger t c s) := by
  unfold passTrigger
  dsimp only
  split
  · exact .trans (t := { s with gen := triggerGenerator s.gen }) ⟨rfl, fun _ => rfl, id⟩
      (.of_frame (raiseNotice_frame _ _) (by decide) (by decide))
  · exact ⟨rfl, fun _ => rfl, id⟩

theorem fireAt_engine (x : Sample) (n : Fin 8) (s : State) : KeepsEngine s (fireAt x n s) :=
  ((passTrigger_engine _ _ _).trans (triggerCut_engine _ _ _)).trans (afterTriggerCut_engine _ _)

theorem forceAt_engine (x : Sample) (s : State) : KeepsEngine s (forceAt x s) := by
  have h := triggerCut_engine x .forced s
  have g : KeepsEngine s { triggerCut x .forced s with
      ts := { (triggerCut x .forced s).ts with triggerTime := some x.stamp } } :=
    ⟨h.segment, h.states, h.busy⟩
  unfold forceAt
  dsimp only
  exact .ite ((g.trans (passTrigger_engine _ _ _)).trans (afterTriggerCut_engine _ _)) h

theorem forceAfter_engine (older : List Sample) (x : Sample) (s : State) :
    KeepsEngine s (forceAfter older x s) :=
  ((engine_ce s { s.ce with staging := [] } rfl id).trans (handleSamples_engine older _)).trans
    (.ite (forceAt_engine _ _) (.refl _))

theorem ceSample_engine (x : Sample) (s : State) : KeepsEngine s (ceSample x s) := by
  have a : ∀ m y q, KeepsEngine q (handleStaged m y q) := by
    intro m y q
    have t : ∀ v : Ts, KeepsEngine q { q with ts := v } := fun v => ⟨rfl, fun _ => rfl, id⟩
    unfold handleStaged
    dsimp only
    refine .ite ?_ (((t _).trans (handleSample_engine _ _)).trans (checkPreFill_engine _))
    split
    · exact (t _).trans (fireAt_engine _ _ _)
    · exact (t _).trans (handleSample_engine _ _)
  have b : ∀ q, KeepsEngine q (stageSample x q) := by
    intro q
    unfold stageSample
    dsimp only
    refine .ite ?_ (engine_ce q _ rfl id)
    split
    · rename_i m y rest _
      exact .trans (engine_ce q { q.ce with staging := y :: rest } rfl id) (a _ _ _)
    · exact .refl _
  unfold ceSample
  dsimp only
  exact .trans (engine_ce s { s.ce with taken := s.ce.taken + 1 } rfl id)
    (.ite (forceAfter_engine _ _ _) (.ite (triggeredSample_engine _ _) (b _)))

theorem takeSample_engine (x : Sample) (s : State) : KeepsEngine s (takeSample x s) := by
  have g := (ceSample_engine x s).trans (lanesSample_engine s.ce.table.divisor x (ceSample x s))
  have h : ∀ q, KeepsEngine s q → KeepsEngine s { q with sm := noteStamp x.stamp q.sm } :=
    fun q g => ⟨g.segment, g.states, g.busy⟩
  exact (h _ g).trans (endRuns_engine _)

theorem forceNewest_engine (s : State) : KeepsEngine s (forceNewest s) := by
  unfold forceNewest
  split
  · exact .refl _
  · rename_i x older _
    refine .trans (.trans (t := { s with ts := forceTs (some x.stamp) s.ts })
      ⟨rfl, fun _ => rfl, id⟩ (forceAfter_engine _ _ _)) (endRuns_engine _)

theorem releaseForce_engine (s : State) : KeepsEngine s (releaseForce s) :=
  .ite (forceNewest_engine _) (.refl _)

/-- A sample keeps the engine's segment and the segments' states. -/
theorem sampleTick_engine (s : State) : KeepsEngine s (sampleTick s) := by
  have h := settle_engine s
  have a : ∀ w q, KeepsEngine q (advanceSampler w q) := fun w q => engine_ce q _ rfl id
  unfold sampleTick
  generalize settle s = q at h
  dsimp only
  split
  · exact (h.trans (a _ _)).trans (takeSample_engine _ _)
  · exact (h.trans (releaseForce_engine _)).trans (a _ _)

/-- A drain keeps the engine's segment and the segments' states. -/
theorem drainRecord_engine {n : Fin 32} {r : Record} {rest : List Record} {s t : State}
    (h : drainRecord n r rest s = .next t) : KeepsEngine s t := by
  unfold drainRecord at h
  dsimp only at h
  split at h
  · have h := Host.Outcome.next.inj h
    subst h
    have a : KeepsEngine s (memoryLimit n s) :=
      .trans (engine_ce s { s.ce with queue := [] } rfl id) (enterClosing_engine _ _ _ _)
    exact a.trans (endRuns_engine _)
  · split at h
    · have h := Host.Outcome.next.inj h
      subst h
      have a : ∀ q, KeepsEngine q (afterDrain q) := by
        intro q
        unfold afterDrain
        refine .ite (feed_engine q) ?_
        split
        · exact .ite (engine_ce q _ rfl id) (.refl _)
        · exact .refl _
      refine .trans (.trans ?_ (.of_frame (noteRender_frame _ _ _ (by intro; rfl)) (by decide) (by decide)))
        (a _)
      refine ⟨rfl, fun m => ?_, id⟩
      by_cases e : n = m
      · subst e
        simp only [Fin.getElem_fin, Vector.getElem_set_self]
        unfold wroteRecord
        dsimp only
        split <;> rfl
      · have : n.val ≠ m.val := fun q => e (Fin.ext q)
        simp [this]
    · cases h

/-! ### STOP and FORCE -/

theorem stopSampling_engine (s : State) : KeepsEngine s (stopSampling s) := by
  have a : ∀ q, KeepsEngine q (stopCut q) := by
    intro q
    unfold stopCut
    exact .ite (.trans (.ite (noteStart_engine _ _) (.refl _)) (endCut_engine _ _ _)) (.refl _)
  have b : KeepsEngine s
      { s with ts := haltTs s.ts, ce := { s.ce with staging := [], stopTaken := true } } :=
    ⟨rfl, fun _ => rfl, id⟩
  exact ((b.trans (handleSamples_engine _ _)).trans (a _)).trans (endRuns_engine _)

theorem stopCapture_engine (s : State) : KeepsEngine s (stopCapture s) :=
  (releaseForce_engine s).trans (.ite (stopSampling_engine _) (.refl _))

theorem forceCapture_engine (s : State) : KeepsEngine s (forceCapture s) :=
  .ite ⟨rfl, fun _ => rfl, id⟩ (forceNewest_engine _)

end Sys2Proof.Machine
end

