-- ==== Sys2Proof/Laws/LaneChecks.lean ====
section
/-! SUPPORT. The start of the lanes, and the lane checks of ARM and REDECODE, lane by lane. -/

namespace Sys2Proof.Machine

theorem fin4_cases (l : Fin 4) : l = 0 ∨ l = 1 ∨ l = 2 ∨ l = 3 := by omega

/-! ### The start of the lanes -/

theorem startLanes_eq (m : LaneMode) (s : State) :
    startLanes m s = { s with lanes := (startLanes m s).lanes } := by
  simp [startLanes, List.finRange, startLaneRun, modifyLane]

/-- A lane after the start of the lanes: On, a fresh run that keeps its FIFO; Off, its counters cleared. -/
theorem startLanes_lane (m : LaneMode) (s : State) (l : Fin 4) :
    (startLanes m s).lanes[l] = if s.laneTable[l].enable then
        { idleLane with mode := m, fifo := s.lanes[l].fifo }
      else { s.lanes[l] with counters := idleLane.counters } := by
  have e : (startLanes m s).lanes = (((s.lanes.set 0 (startLaneRun m s 0).lanes[0]).set 1
      (startLaneRun m s 1).lanes[1]).set 2 (startLaneRun m s 2).lanes[2]).set 3
      (startLaneRun m s 3).lanes[3] := by
    simp [startLanes, List.finRange, startLaneRun, modifyLane]
  rw [e]
  rcases fin4_cases l with rfl | rfl | rfl | rfl <;>
    (simp [startLaneRun, modifyLane]; split <;> rfl)

/-! ### The return to Run -/

theorem leaveStandby_eq {t : State} (h : t.pru.power ≠ .sleep) :
    leaveStandby t = { t with pru := (leaveStandby t).pru } ∧ (leaveStandby t).pru.power = .run := by
  unfold leaveStandby
  split
  · exact ⟨rfl, rfl⟩
  · refine ⟨rfl, ?_⟩
    cases hp : t.pru.power <;> simp_all

/-! ### The lane checks -/

variable {s : State} {l : Fin 4}

theorem laneRefusal_unavailable :
    laneUnavailable s l → laneRefusal s.ce.table s.laneTable[l] = some .channelUnavailable := by
  rintro ⟨h1, h2, h3, k, hk, hk'⟩
  unfold laneRefusal
  rw [if_neg (by simpa using h1), if_pos]
  exact ⟨h2, h3, by simp; exact ⟨k, hk, hk'⟩⟩

theorem laneRefusal_fast (hn : ¬laneUnavailable s l) :
    laneTooFast s l → laneRefusal s.ce.table s.laneTable[l] = some .rateTooHigh := by
  rintro ⟨h1, p, hp, hb⟩
  unfold laneRefusal
  rw [if_neg (by simpa using h1), if_neg]
  · rw [hp]
    simp [hb]
  · rintro ⟨h2, h3, h4⟩
    simp at h4
    obtain ⟨k, hk, hk'⟩ := h4
    exact hn ⟨h1, h2, h3, k, hk, hk'⟩

theorem laneRefusal_none (hn : ¬laneUnavailable s l) (hf : ¬laneTooFast s l) :
    laneRefusal s.ce.table s.laneTable[l] = none := by
  unfold laneRefusal
  split
  · rfl
  rename_i he
  simp at he
  rw [if_neg]
  · split
    · rename_i p hp
      rw [if_neg]
      intro hb
      exact hf ⟨he, p, hp, hb⟩
    · rfl
  · rintro ⟨h2, h3, h4⟩
    simp at h4
    obtain ⟨k, hk, hk'⟩ := h4
    exact hn ⟨he, h2, h3, k, hk, hk'⟩

theorem toList_four {α : Type} (v : Vector α 4) : v.toList = [v[0], v[1], v[2], v[3]] := by
  apply List.ext_getElem
  · simp
  · intro i h1 h2
    simp at h1 h2
    have : i = 0 ∨ i = 1 ∨ i = 2 ∨ i = 3 := by omega
    rcases this with rfl | rfl | rfl | rfl <;> simp

/-- The first lane that a check refuses gives the refusal. -/
theorem findSome_lane {f : LaneEntry → Option RefusalCode} {code : RefusalCode}
    (h : f s.laneTable[l] = some code) (hj : ∀ j : Fin 4, j < l → f s.laneTable[j] = none) :
    s.laneTable.toList.findSome? f = some code := by
  rw [toList_four]
  rcases fin4_cases l with rfl | rfl | rfl | rfl
  · simp at h
    simp [List.findSome?, h]
  · have h0 := hj 0 (by decide)
    simp at h0 h
    simp [List.findSome?, h0, h]
  · have h0 := hj 0 (by decide)
    have h1 := hj 1 (by decide)
    simp at h0 h1 h
    simp [List.findSome?, h0, h1, h]
  · have h0 := hj 0 (by decide)
    have h1 := hj 1 (by decide)
    have h2 := hj 2 (by decide)
    simp at h0 h1 h2 h
    simp [List.findSome?, h0, h1, h2, h]

theorem findSome_lane_none {f : LaneEntry → Option RefusalCode}
    (hj : ∀ j : Fin 4, f s.laneTable[j] = none) : s.laneTable.toList.findSome? f = none := by
  rw [toList_four]
  have h0 := hj 0
  have h1 := hj 1
  have h2 := hj 2
  have h3 := hj 3
  simp at h0 h1 h2 h3
  simp [List.findSome?, h0, h1, h2, h3]

theorem anyLaneOn_iff : anyLaneOn s = true ↔ ∃ l : Fin 4, s.laneTable[l].enable = true := by
  unfold anyLaneOn
  rw [toList_four]
  constructor
  · intro h
    simp at h
    rcases h with h | h | h | h
    · exact ⟨0, h⟩
    · exact ⟨1, h⟩
    · exact ⟨2, h⟩
    · exact ⟨3, h⟩
  · rintro ⟨l, h⟩
    rcases fin4_cases l with rfl | rfl | rfl | rfl <;> simp at h <;> simp [h]

end Sys2Proof.Machine
end

