-- ==== Sys2Proof/Laws/Memory.lean ====
section
/-! SUPPORT. The laws of the DRAM: a read after a write, and the canonical form that every memory operation
keeps. -/

namespace Sys2Proof.Machine

@[simp] theorem memRead_nil (a : Nat) : memRead [] a = 0 := rfl

/-- A byte reads as what was written last at its address, and every other byte as before. -/
theorem memRead_memWrite (m : Memory) (a : Nat) (b : Byte) (x : Nat) (lo : Nat) (h : memWfFrom lo m = true) :
    memRead (memWrite m a b) x = if x = a then b else memRead m x := by
  induction m generalizing lo with
  | nil =>
    unfold memWrite
    by_cases e : x = a
    · split <;> simp_all [memRead]
    · split <;> simp [memRead, Ne.symm e]
  | cons c m ih =>
    obtain ⟨k, v⟩ := c
    simp only [memWfFrom, Bool.and_eq_true, decide_eq_true_eq] at h
    have low : ∀ (n : Memory) (l : Nat), memWfFrom l n = true → ∀ y, y < l → memRead n y = 0 := by
      intro n
      induction n with
      | nil => intros; rfl
      | cons d n ihn =>
        intro l hl y hy
        obtain ⟨q, w⟩ := d
        simp only [memWfFrom, Bool.and_eq_true, decide_eq_true_eq] at hl
        have : q ≠ y := by omega
        simp only [memRead, this, if_false]
        exact ihn _ hl.2 y (by omega)
    have below := low m (k + 1) h.2
    unfold memWrite
    split
    · split
      · by_cases e : x = a
        · subst e
          have : k ≠ x := by omega
          rw [if_pos rfl, memRead, if_neg this, below x (by omega)]
          exact Eq.symm (by assumption)
        · simp [e]
      · by_cases e : x = a
        · simp [memRead, e]
        · simp [memRead, e, Ne.symm e]
    · split
      · split
        · by_cases e : x = a
          · simp_all
          · have : k ≠ x := by omega
            simp [memRead, e, this]
        · by_cases e : x = a
          · simp [memRead, e]
          · have : k ≠ x := by omega
            simp [memRead, e, this, Ne.symm e]
      · by_cases e : k = x
        · subst e
          have : k ≠ a := by omega
          simp [memRead, this]
        · simp only [memRead, e, if_false]
          exact ih _ h.2

/-- A write keeps the canonical form above any bound at or below its address. -/
theorem memWfFrom_memWrite (m : Memory) (a : Nat) (b : Byte) (lo : Nat) (h : memWfFrom lo m = true)
    (ha : lo ≤ a) : memWfFrom lo (memWrite m a b) = true := by
  have up : ∀ (n : Memory) (l l' : Nat), l' ≤ l → memWfFrom l n = true → memWfFrom l' n = true := by
    intro n
    cases n with
    | nil => intros; rfl
    | cons d n =>
      intro l l' hl hn
      obtain ⟨q, w⟩ := d
      simp only [memWfFrom, Bool.and_eq_true, decide_eq_true_eq] at hn ⊢
      exact ⟨⟨by omega, hn.1.2⟩, hn.2⟩
  induction m generalizing lo with
  | nil =>
    unfold memWrite
    split <;> simp_all [memWfFrom]
  | cons c m ih =>
    obtain ⟨k, v⟩ := c
    unfold memWrite
    simp only [memWfFrom, Bool.and_eq_true, decide_eq_true_eq] at h
    split
    · split
      · simp only [memWfFrom, Bool.and_eq_true, decide_eq_true_eq]
        exact h
      · simp only [memWfFrom, Bool.and_eq_true, decide_eq_true_eq]
        exact ⟨⟨ha, by assumption⟩, ⟨by omega, h.1.2⟩, h.2⟩
    · split
      · split
        · exact up _ _ _ (by omega) h.2
        · simp only [memWfFrom, Bool.and_eq_true, decide_eq_true_eq]
          subst_vars
          exact ⟨⟨ha, by assumption⟩, h.2⟩
      · simp only [memWfFrom, Bool.and_eq_true, decide_eq_true_eq]
        exact ⟨h.1, ih _ h.2 (by omega)⟩

/-- A stored byte keeps the canonical form. -/
theorem memWf_memWrite (m : Memory) (a : Nat) (b : Byte) (h : memWf m = true) :
    memWf (memWrite m a b) = true := memWfFrom_memWrite m a b 0 h (Nat.zero_le a)

/-- Stored bytes keep the canonical form. -/
theorem memWf_memWriteBytes (bs : List Byte) (m : Memory) (a : Nat) (h : memWf m = true) :
    memWf (memWriteBytes m a bs) = true := by
  induction bs generalizing m a with
  | nil => exact h
  | cons b bs ih => exact ih _ _ (memWf_memWrite m a b h)

/-- Cleared bytes keep the canonical form. -/
theorem memWf_memClear (m : Memory) (a n : Nat) (h : memWf m = true) : memWf (memClear m a n) = true := by
  have g : ∀ (m : Memory) (lo lo' : Nat), lo' ≤ lo → memWfFrom lo m = true →
      memWfFrom lo' (memClear m a n) = true := by
    intro m
    induction m with
    | nil => intros; rfl
    | cons c m ih =>
      intro lo lo' hl hm
      obtain ⟨k, v⟩ := c
      simp only [memWfFrom, Bool.and_eq_true, decide_eq_true_eq] at hm
      unfold memClear at ih ⊢
      rw [List.filter_cons]
      split
      · simp only [memWfFrom, Bool.and_eq_true, decide_eq_true_eq]
        exact ⟨⟨by omega, hm.1.2⟩, ih _ _ (Nat.le_refl _) hm.2⟩
      · exact ih _ _ (by omega) hm.2
  exact g m 0 0 (Nat.le_refl 0) h

/-- The bytes stored from an address on read back, and every other byte reads as before. -/
theorem memRead_memWriteBytes (bs : List Byte) (m : Memory) (a x : Nat) (h : memWf m = true) :
    memRead (memWriteBytes m a bs) x =
      if a ≤ x ∧ x < a + bs.length then bs.getD (x - a) 0 else memRead m x := by
  induction bs generalizing m a with
  | nil =>
    rw [if_neg (by simp)]
    rfl
  | cons b bs ih =>
    rw [memWriteBytes, ih _ _ (memWf_memWrite m a b h), memRead_memWrite m a b x 0 h]
    by_cases e : x = a
    · subst e
      simp
    · by_cases q : a ≤ x ∧ x < a + (b :: bs).length
      · have q1 : a + 1 ≤ x ∧ x < a + 1 + bs.length := by
          simp only [List.length_cons] at q
          omega
        have : x - a = (x - (a + 1)) + 1 := by omega
        rw [if_pos q, if_pos q1, this, List.getD_cons_succ]
      · have q1 : ¬(a + 1 ≤ x ∧ x < a + 1 + bs.length) := by
          simp only [List.length_cons] at q
          omega
        rw [if_neg q, if_neg q1, if_neg e]

/-- Cleared bytes read as 0, and every other byte reads as before. -/
theorem memRead_memClear (m : Memory) (a n x : Nat) :
    memRead (memClear m a n) x = if a ≤ x ∧ x < a + n then 0 else memRead m x := by
  induction m with
  | nil => split <;> rfl
  | cons c m ih =>
    obtain ⟨k, v⟩ := c
    unfold memClear at ih ⊢
    rw [List.filter_cons]
    by_cases q : k < a ∨ a + n ≤ k
    · have : (decide (k < a) || decide (a + n ≤ k)) = true := by simpa using q
      simp only [this, if_true, memRead]
      by_cases e : k = x
      · have : ¬(a ≤ x ∧ x < a + n) := by omega
        simp [e, this]
      · simp only [e, if_false]
        exact ih
    · have : (decide (k < a) || decide (a + n ≤ k)) = false := by simpa using q
      simp only [this, memRead]
      by_cases e : k = x
      · have r : a ≤ x ∧ x < a + n := by omega
        simp only [r, and_self, if_true] at ih ⊢
        simpa using ih
      · simpa [e] using ih

/-- The bytes read back from where they were stored. -/
theorem memReadBytes_memWriteBytes (bs : List Byte) (m : Memory) (a : Nat) (h : memWf m = true) :
    memReadBytes (memWriteBytes m a bs) a bs.length = bs := by
  have g : ∀ (k : Nat) (m : Memory) (a : Nat), memReadBytes m a k = (List.range k).map fun i => memRead m (a + i) := by
    intro k
    induction k with
    | zero => intros; rfl
    | succ k ih =>
      intro m a
      rw [memReadBytes, ih, List.range_succ_eq_map]
      simp [Function.comp_def, Nat.add_comm, Nat.add_left_comm]
  rw [g]
  apply List.ext_getElem
  · simp
  · intro i h1 h2
    simp only [List.length_map, List.length_range] at h1
    simp [memRead_memWriteBytes bs m a (a + i) h, h1]

/-! ### Byte order -/

@[simp] theorem leBytes_length (k n : Nat) : (leBytes k n).length = k := by
  induction k generalizing n with
  | zero => rfl
  | succ k ih => simp [leBytes, ih]

theorem leNat_leBytes (k n : Nat) (h : n < 256 ^ k) : leNat (leBytes k n) = n := by
  induction k generalizing n with
  | zero => simp [leBytes, leNat]; omega
  | succ k ih =>
    have : n / 256 < 256 ^ k := by
      rw [Nat.pow_succ] at h
      omega
    simp only [leBytes, leNat, ih _ this, BitVec.toNat_ofNat]
    omega

end Sys2Proof.Machine
end

