-- ==== Sys2Proof/Laws/Tables.lean ====
section
/-! SUPPORT. What the WRITE of each table can do. -/

namespace Sys2Proof.Machine

/-- What a store does, entry by entry, it does over all entries stored. -/
theorem storeEntries_keeps {P : State → State → Prop} (refl : ∀ s, P s s)
    (trans : ∀ {s t u}, P s t → P t u → P s u) {store : EntryStore}
    (h : ∀ k bs s t, store k bs s = .inr t → P s t) (size n k : Nat) (bs : List Byte) (s : State) :
    P s (storeEntries store size n k bs s).1 := by
  induction n generalizing k bs s with
  | zero => exact refl s
  | succ n ih =>
    unfold storeEntries
    split
    · exact refl s
    · rename_i t e
      exact trans (h _ _ _ _ e) (ih _ _ _)

/-- A WRITE changes what storing an entry changes, the reply slot, and what its completion changes. -/
theorem writeTable_frame {store : EntryStore} {done : LinkCell → State → State} {ps : List Part}
    (slot : .slot ∈ ps) (hs : ∀ k bs s t, store k bs s = .inr t → ChangesOnly ps s t)
    (hd : ∀ c s, ChangesOnly ps s (done c s)) (c : LinkCell) (s : State) :
    ChangesOnly ps s (writeTable store done c s) := by
  have r : ∀ tag x q, ChangesOnly ps q (refuseAt tag x q) :=
    fun tag x q => (putReply_frame _ _ _).mono fun p hp => by simp_all
  have g : ∀ size n k bs, ChangesOnly ps s (storeEntries store size n k bs s).1 := fun size n k bs =>
    storeEntries_keeps (P := ChangesOnly ps) (fun q => .refl ps q) (fun a b => a.trans b) hs size n k bs s
  unfold writeTable
  split
  · exact r _ _ _
  · dsimp only
    split
    · rename_i e
      have := g (entrySize (byteAt c.payload 0)) ((c.payload.length - 2) / entrySize (byteAt c.payload 0))
        (byteAt c.payload 1) (c.payload.drop 2)
      rw [e] at this
      exact this.trans (r _ _ _)
    · rename_i e
      have := g (entrySize (byteAt c.payload 0)) ((c.payload.length - 2) / entrySize (byteAt c.payload 0))
        (byteAt c.payload 1) (c.payload.drop 2)
      rw [e] at this
      exact this.trans (hd _ _)

/-- What the storing of an entry, a reply and what follows a WRITE keep, a WRITE keeps. -/
theorem writeTable_keeps {P : State → State → Prop} (refl : ∀ s, P s s)
    (trans : ∀ {s t u}, P s t → P t u → P s u) {store : EntryStore} {done : LinkCell → State → State}
    (hr : ∀ tag b s, P s (putReply tag b s)) (hs : ∀ k bs s t, store k bs s = .inr t → P s t)
    (hd : ∀ c s, P s (done c s)) (c : LinkCell) (s : State) : P s (writeTable store done c s) := by
  unfold writeTable
  split
  · exact hr _ _ _
  · dsimp only
    have g := storeEntries_keeps (P := P) refl trans hs (entrySize (byteAt c.payload 0))
      ((c.payload.length - 2) / entrySize (byteAt c.payload 0)) (byteAt c.payload 1) (c.payload.drop 2) s
    split
    all_goals
      rename_i e
      rw [e] at g
      first | exact trans g (hr _ _ _) | exact trans g (hd _ _)

/-- A WRITE of a table that is not writable changes nothing but the reply slot. -/
theorem writeTable_locked {store : EntryStore} {done : LinkCell → State → State} (c : LinkCell) (s : State)
    (h : writable s (byteAt c.payload 0) = false) : ChangesOnly [.slot] s (writeTable store done c s) := by
  have g : ∃ r, wholeRefusal c s = some r := by
    unfold wholeRefusal
    dsimp only
    repeat' split
    all_goals first | exact ⟨_, rfl⟩ | simp_all
  obtain ⟨r, g⟩ := g
  unfold writeTable
  rw [g]
  exact putReply_frame _ _ _

theorem writeDone_frame (c : LinkCell) (s : State) : ChangesOnly [.slot] s (writeDone c s) :=
  putReply_frame _ _ _

theorem fillReply_frame (w : State → Bool) (c : LinkCell) (s : State) :
    ChangesOnly [.slot, .inProgress] s (fillReply w c s) := by
  unfold fillReply
  exact .ite ((update_inProgress s _).mono (by decide)) ((writeDone_frame _ _).mono (by decide))

/-- A read entry that is stored was read, and the state is the one its value gives. -/
theorem storeRead_inr {α : Type} {e : Option α} {f : α → State} {t : State}
    (h : storeRead e f = .inr t) : ∃ v, e = some v ∧ t = f v := by
  unfold storeRead at h
  split at h
  · injection h with h
    exact ⟨_, rfl, h.symm⟩
  · cases h

/-! ### The stores of the tables -/

/-- The parts that a WRITE of a table without a row of its own can change, beyond those of its dispatch. -/
def plainTables : List Part :=
  [.acqTable, .ce, .tsTables, .ts, .laneTable, .fieldMap, .viewSets, .re, .palette, .glyphs, .su]

theorem storePlain_frame (n k : Nat) (bs : List Byte) (s t : State) (h : storePlain n k bs s = .inr t) :
    ChangesOnly plainTables s t := by
  unfold storePlain at h
  split at h
  all_goals first
    | obtain ⟨v, _, rfl⟩ := storeRead_inr h
      intro p hp
      cases p <;> first
        | rfl | exact ⟨rfl, rfl⟩ | exact ⟨rfl, rfl, rfl⟩ | exact fun _ => rfl | simp [plainTables] at hp
    | injection h with h
      subst h
      intro p hp
      cases p <;> first
        | rfl | exact ⟨rfl, rfl⟩ | exact ⟨rfl, rfl, rfl⟩ | exact fun _ => rfl | simp [plainTables] at hp

theorem storePod_frame (k : Nat) (bs : List Byte) (s t : State) (h : storePod k bs s = .inr t) :
    ChangesOnly [.podTable, .outputs] s t := by
  unfold storePod at h
  injection h with h
  subst h
  have e := decidePod_keeps false (Fin.ofNat 4 k)
    { s.pfe with table := s.pfe.table.set (Fin.ofNat 4 k) (readPod bs) }
  intro p hp
  cases p <;> first
    | rfl | exact ⟨rfl, rfl⟩ | exact ⟨rfl, rfl, rfl⟩ | exact fun _ => rfl | exact e.2.1 | exact e.2.2
    | simp at hp

theorem storeGen_frame (k : Nat) (bs : List Byte) (s t : State) (h : storeGen k bs s = .inr t) :
    ChangesOnly [.genTable, .genOutputs, .loopCounter] s t := by
  unfold storeGen at h
  obtain ⟨v, _, rfl⟩ := storeRead_inr h
  intro p hp
  cases p <;> first
    | rfl | exact ⟨rfl, rfl⟩ | exact ⟨rfl, rfl, rfl⟩ | exact fun _ => rfl | simp at hp

theorem storeRegions_frame (k : Nat) (bs : List Byte) (s t : State) (h : storeRegions k bs s = .inr t) :
    ChangesOnly [.regions, .fill] s t := by
  unfold storeRegions at h
  split at h
  · cases h
  · injection h with h
    subst h
    unfold moveRegions
    dsimp only
    split
    all_goals
      intro p hp
      cases p <;> first
        | rfl | exact ⟨rfl, rfl⟩ | exact ⟨rfl, rfl, rfl⟩ | exact fun _ => rfl | simp at hp

theorem writePlan_frame (n : Fin 32) (e : PlanEntry) (s : State) :
    ChangesOnly [.plan, .segments] s (writePlan n e s) := by
  refine .trans (t := { s with plan := s.plan.set n e }) ?_
    ((modifySegment_frame n _ _ (by intro; rfl)).mono (by decide))
  intro p hp
  cases p <;> first
    | rfl | exact ⟨rfl, rfl⟩ | exact ⟨rfl, rfl, rfl⟩ | exact fun _ => rfl | simp at hp

/-- A plan entry that is stored was read, passed the checks of R50, and was written. -/
theorem storePlan_inr {k : Nat} {bs : List Byte} {s t : State} (h : storePlan k bs s = .inr t) :
    ∃ p, readPlan bs = some p ∧ planRefusal (Fin.ofNat 32 k) p s = none ∧
      t = writePlan (Fin.ofNat 32 k) p s := by
  unfold storePlan at h
  dsimp only at h
  split at h
  · cases h
  · split at h
    · cases h
    · rename_i p e
      split at h
      · cases h
      · rename_i r
        injection h with h
        exact ⟨p, e, r, h.symm⟩

theorem storePlan_frame (k : Nat) (bs : List Byte) (s t : State) (h : storePlan k bs s = .inr t) :
    ChangesOnly [.plan, .segments] s t := by
  obtain ⟨p, _, _, rfl⟩ := storePlan_inr h
  exact writePlan_frame _ _ _

theorem storeCursor_frame (k : Nat) (bs : List Byte) (s t : State) (h : storeCursor k bs s = .inr t) :
    ChangesOnly [.cursors, .su, .re] s t := by
  unfold storeCursor at h
  injection h with h
  subst h
  intro p hp
  cases p <;> first
    | rfl | exact ⟨rfl, rfl⟩ | exact ⟨rfl, rfl, rfl⟩ | exact fun _ => rfl | simp at hp

/-- A panel entry that is stored was read, passed the checks of R153, and was set. -/
theorem storePanel_inr {k : Nat} {bs : List Byte} {s t : State} (h : storePanel k bs s = .inr t) :
    ∃ p, readPanel bs = some p ∧ panelRefusal p s = none ∧ t = setPanel p s := by
  unfold storePanel at h
  split at h
  · cases h
  · rename_i p e
    split at h
    · cases h
    · rename_i r
      injection h with h
      exact ⟨p, e, r, h.symm⟩

theorem storePanel_frame (k : Nat) (bs : List Byte) (s t : State) (h : storePanel k bs s = .inr t) :
    ChangesOnly [.panel, .su] s t := by
  obtain ⟨p, _, _, rfl⟩ := storePanel_inr h
  intro p hp
  cases p <;> first
    | rfl | exact ⟨rfl, rfl⟩ | exact ⟨rfl, rfl, rfl⟩ | exact fun _ => rfl | simp at hp

theorem storePower_frame (k : Nat) (bs : List Byte) (s t : State) (h : storePower k bs s = .inr t) :
    ChangesOnly [.powerTable, .idleStart] s t := by
  unfold storePower at h
  injection h with h
  subst h
  refine .trans (t := { s with pru.table := readPower bs }) ?_ ((restartIdle_frame _).mono (by decide))
  intro p hp
  cases p <;> first
    | rfl | exact ⟨rfl, rfl⟩ | exact ⟨rfl, rfl, rfl⟩ | exact fun _ => rfl | simp at hp

end Sys2Proof.Machine
end

