-- ==== Sys2Proof/Laws/Rows.lean ====
section
/-! SUPPORT. What each row of the opcode table can change: one list of parts per row, and the proof that its
meaning changes nothing else. -/

namespace Sys2Proof.Machine

/-- The parts that a power-on or pin reset leaves as they are: the steps still offered, the probe inputs,
and the model's count of notices. -/
def coldKept : List Part := [.pending, .inputs, .noticesSent]

/-- The parts that a power-on or pin reset can change. -/
def coldParts : List Part :=
  [.time, .prescaler, .podTable, .pods, .outputs, .genTable, .genOutputs, .loopCounter, .acqTable, .ce,
    .plan, .segments, .holds, .tsTables, .ts, .laneTable, .lanes, .fieldMap, .sm, .redecode, .size, .regions,
    .fill, .dram, .viewSets, .active, .job, .re, .panel, .palette, .glyphs, .cursors, .su, .queue, .slot,
    .inProgress, .sending, .dropped, .readout, .notices, .resetDue, .powerTable, .power, .cause, .idleStart,
    .wakeLogic, .wake]

/-- The parts that a lane's work ahead of a sample can change, with what the sample's tick brings. -/
def laneParts : List Part := [.pods, .outputs, .notices, .segments, .genOutputs, .loopCounter, .lanes, .ts]

/-- The parts of the state that a row of the opcode table can change. -/
def rowParts : Instr → List Part
  | .powerOnReset _ => coldParts
  | .pinReset _ => coldParts
  | .linkReset => linkResetParts
  | .podPresentChange _ => [.pods, .outputs, .notices, .segments]
  | .halfPeriodEnd _ => [.genOutputs, .loopCounter]
  | .sample => .pods :: .outputs :: captureParts
  | .counterExpiry _ => [.ts]
  | .gapDeadline _ => laneParts
  | .stretchTimeout _ => laneParts
  | .writeQueueDrain => [.ce, .ts, .lanes, .segments, .notices, .dram, .re]
  | .symbolWrite => [.lanes, .segments, .redecode, .dram, .re]
  | .symbolTrim => [.segments]
  | .closeComplete => closeParts
  | .redecodeRecordRead => redecodeParts
  | .redecodeDone => redecodeParts
  | .renderPixelWrite => [.dram, .re]
  | .renderRecordRead => [.re, .job]
  | .renderSymbolRead => [.re, .job]
  | .drawingComplete => [.re, .job]
  | .frameBoundary => [.re, .job, .segments, .holds, .su, .notices, .fill]
  | .scanOutRowRead => [.su]
  | .frameBufferFillBlock => [.dram, .fill]
  | .fillComplete => [.fill, .su, .slot, .inProgress]
  | .readoutRead => [.readout]
  | .commandCellArrival _ => [.queue, .dropped, .notices, .idleStart]
  | .sendReply => [.sending, .pods, .outputs]
  | .replySent => [.sending, .slot, .resetDue]
  | .sendNotice => [.notices, .noticesSent, .sending]
  | .sendStreamCell => [.sending, .readout]
  | .streamCellSent => readoutParts
  | .sendFill => [.sending]
  | .badCommand => dispatchParts
  | .write => dispatchParts ++ plainTables
  | .writePods => dispatchParts ++ [.podTable, .outputs]
  | .writeGenerator => dispatchParts ++ [.genTable, .genOutputs, .loopCounter]
  | .writeRegions => dispatchParts ++ [.regions, .fill, .inProgress]
  | .writeSegmentPlan => dispatchParts ++ [.plan, .segments]
  | .writeCursors => dispatchParts ++ [.cursors, .su, .re]
  | .writePanel => dispatchParts ++ [.panel, .su, .inProgress]
  | .writePowerAndNotice => dispatchParts ++ [.powerTable]
  | .read => dispatchParts
  | .arm => dispatchParts ++ [.ce, .prescaler, .ts, .sm, .segments, .lanes, .power]
  | .stop => dispatchParts ++ captureParts
  | .force => dispatchParts ++ captureParts
  | .redecode => dispatchParts ++ .power :: redecodeParts
  | .render => dispatchParts ++ [.power, .re, .job, .segments, .holds]
  | .swap => dispatchParts ++ [.active, .re]
  | .readout => dispatchParts ++ readoutCommandParts
  | .cancel => dispatchParts ++ readoutParts
  | .statusDevice => dispatchParts
  | .statusSegment => dispatchParts
  | .statusLane => dispatchParts
  | .statusSequencer => dispatchParts
  | .statusRender => dispatchParts
  | .powerRun => dispatchParts ++ powerParts
  | .powerStandby => dispatchParts ++ powerParts
  | .powerSleep => dispatchParts ++ powerParts
  | .reset => dispatchParts
  | .idleTimeout => [.power]
  | .wakeActivity => [.wake]
  | .wakeComplete => wakeParts
  | .noticeCellSent => [.sending]
  | .fillCellSent => [.sending]
  | .presenceSenseChange _ _ => [.pods]
  | .comparatorOutputChange _ _ => [.inputs, .outputs, .wakeLogic]

variable {s t : State}

theorem coldReset_frame (c : ResetCause) (d : DramSize) (s : State) :
    ChangesOnly coldParts s (coldReset c d s) := by
  intro p hp
  cases p
  case pending => rfl
  case inputs => exact (startComparators_keeps _).2.1
  case noticesSent => rfl
  all_goals exact absurd (by decide) hp

theorem row_sample (h : execSample s = .next t) : ChangesOnly (.pods :: .outputs :: captureParts) s t := by
  injection h with h
  subst h
  exact .ite (sampleTick_frame s) (.refl _ s)

theorem row_counterExpiry {i : Fin 2} (h : execCounterExpiry i s = .next t) : ChangesOnly [.ts] s t := by
  unfold execCounterExpiry at h
  split at h
  · split at h
    · injection h with h
      subst h
      exact update_ts s _ (expireEarly_tables _ _ _)
    · injection h with h
      subst h
      exact .refl _ _
  · injection h with h
    subst h
    exact .refl _ _

theorem row_gapDeadline {l : Fin 4} (h : execGapDeadline l s = .next t) :
    ChangesOnly laneParts s t := by
  unfold execGapDeadline at h
  dsimp only at h
  have e : ChangesOnly laneParts s (settle s) := (settle_frame s).mono (by decide)
  generalize settle s = q at h e
  split at h
  · injection h with h
    subst h
    exact .refl _ _
  · split at h
    · injection h with h
      subst h
      exact .refl _ _
    · injection h with h
      subst h
      exact (e.trans ((modifyLane_frame _ _ _).mono (by decide))).trans
        ((emitSymbols_frame _ _ _).mono (by decide))

theorem row_stretchTimeout {l : Fin 4} (h : execStretchTimeout l s = .next t) :
    ChangesOnly laneParts s t := by
  unfold execStretchTimeout at h
  dsimp only at h
  have e : ChangesOnly laneParts s (settle s) := (settle_frame s).mono (by decide)
  generalize settle s = q at h e
  repeat' split at h
  all_goals
    injection h with h
    subst h
    first
      | exact .refl _ _
      | exact e.trans ((modifyLane_frame _ _ _).mono (by decide))

theorem row_writeQueueDrain (h : execWriteQueueDrain s = .next t) :
    ChangesOnly (rowParts .writeQueueDrain) s t := by
  unfold execWriteQueueDrain at h
  repeat' split at h
  all_goals first
    | exact drainRecord_frame h
    | injection h with h
      subst h
      exact .refl _ _

theorem row_symbolWrite (h : execSymbolWrite s = .next t) : ChangesOnly (rowParts .symbolWrite) s t := by
  unfold execSymbolWrite at h
  repeat' split at h
  all_goals first
    | exact mergeSymbol_frame h
    | injection h with h
      subst h
      exact .refl _ _

theorem row_symbolTrim (h : execSymbolTrim s = .next t) : ChangesOnly [.segments] s t := by
  unfold execSymbolTrim at h
  repeat' split at h
  all_goals
    injection h with h
    subst h
    first | exact trimStep_frame _ _ _ _ | exact .refl _ _

theorem row_closeComplete (h : execCloseComplete s = .next t) : ChangesOnly closeParts s t := by
  unfold execCloseComplete at h
  repeat' split at h
  all_goals
    injection h with h
    subst h
    first | exact completeClose_frame _ _ _ | exact .refl _ _

theorem row_redecodeRecordRead (h : execRedecodeRecordRead s = .next t) :
    ChangesOnly redecodeParts s t := by
  unfold execRedecodeRecordRead at h
  repeat' split at h
  all_goals first
    | cases h
      done
    | injection h with h
      subst h
      first | exact replayRecord_frame _ _ | exact .refl _ _

theorem row_redecodeDone (h : execRedecodeDone s = .next t) : ChangesOnly redecodeParts s t := by
  unfold execRedecodeDone at h
  repeat' split at h
  all_goals
    injection h with h
    subst h
    first | exact completeRedecode_frame _ _ | exact .refl _ _

theorem row_renderPixelWrite (h : execRenderPixelWrite s = .next t) : ChangesOnly [.dram, .re] s t := by
  unfold execRenderPixelWrite at h
  dsimp only at h
  split at h
  · split at h
    · rename_i d e
      split at h
      · split at h
        · injection h with h
          subst h
          rename_i w rest _ _
          have g : ∀ m, ChangesOnly [.dram, .re] s { s with dram := m, re := wrotePixels d rest s.re } := by
            intro m
            refine .trans ((update_dram s m).mono (by decide)) ((update_draw { s with dram := m }
              (wrotePixels d rest s.re) ⟨rfl, rfl⟩ rfl ?_).mono (by decide))
            simp [renderJob, wrotePixels, e]
          exact g _
        · cases h
      · injection h with h
        subst h
        exact .refl _ _
    · injection h with h
      subst h
      exact .refl _ _
  · injection h with h
    subst h
    exact .refl _ _

theorem row_renderRecordRead (h : execRenderRecordRead s = .next t) : ChangesOnly [.re, .job] s t := by
  unfold execRenderRecordRead at h
  dsimp only at h
  split at h
  · split at h
    · rename_i d e
      split at h
      · exact renderReads_frame e (by intro r; rfl) h
      · exact renderReads_frame e (fun r => forwardRead_snapshot _ _ _ _ _ _ _) h
      · injection h with h
        subst h
        exact .refl _ _
    · injection h with h
      subst h
      exact .refl _ _
  · injection h with h
    subst h
    exact .refl _ _

theorem row_renderSymbolRead (h : execRenderSymbolRead s = .next t) : ChangesOnly [.re, .job] s t := by
  unfold execRenderSymbolRead at h
  dsimp only at h
  split at h
  · split at h
    · rename_i d e
      split at h
      · split at h
        · injection h with h
          subst h
          exact update_re s _ ⟨rfl, rfl⟩ rfl
        · split at h
          · injection h with h
            subst h
            exact (drawing_frame s d _ e (symbolRead_snapshot _ _ _ _ _ _)).mono (by decide)
          · cases h
      · injection h with h
        subst h
        exact .refl _ _
    · injection h with h
      subst h
      exact .refl _ _
  · injection h with h
    subst h
    exact .refl _ _

theorem row_drawingComplete (h : execDrawingComplete s = .next t) : ChangesOnly [.re, .job] s t := by
  unfold execDrawingComplete at h
  repeat' split at h
  all_goals
    injection h with h
    subst h
    exact update_re s _ ⟨rfl, rfl⟩ rfl

theorem row_frameBoundary (h : execFrameBoundary s = .next t) :
    ChangesOnly (rowParts .frameBoundary) s t := by
  injection h with h
  subst h
  exact .ite (((flip_frame s).mono (by decide)).trans ((beginFrame_frame _).mono (by decide))) (.refl _ s)

theorem row_scanOutRowRead (h : execScanOutRowRead s = .next t) : ChangesOnly [.su] s t := by
  unfold execScanOutRowRead at h
  dsimp only at h
  repeat' split at h
  all_goals first
    | cases h
      done
    | injection h with h
      subst h
      exact update_su s _ (by rfl) (by rfl) (by rfl) (by rfl)

theorem row_frameBufferFillBlock (h : execFrameBufferFillBlock s = .next t) :
    ChangesOnly [.dram, .fill] s t := by
  unfold execFrameBufferFillBlock at h
  dsimp only at h
  repeat' split at h
  all_goals first
    | cases h
      done
    | injection h with h
      subst h
      first
        | exact .refl _ _
        | intro p hp
          cases p <;> first
            | rfl | exact ⟨rfl, rfl⟩ | exact ⟨rfl, rfl, rfl⟩ | exact fun _ => rfl | simp at hp

theorem row_fillComplete (h : execFillComplete s = .next t) :
    ChangesOnly [.fill, .su, .slot, .inProgress] s t := by
  unfold execFillComplete at h
  split at h
  · injection h with h
    subst h
    have g : ∀ q : State, ChangesOnly [.fill, .su, .slot, .inProgress] q (replyToFill q) := by
      intro q
      unfold replyToFill
      split
      · exact ((update_inProgress q none).mono (by decide)).trans ((putReply_frame _ _ _).mono (by decide))
      · exact .refl _ _
    refine .trans ?_ (g _)
    intro p hp
    cases p <;> first
      | rfl | exact ⟨rfl, rfl⟩ | exact ⟨rfl, rfl, rfl⟩ | exact fun _ => rfl | simp at hp
  · injection h with h
    subst h
    exact .refl _ _

theorem row_readoutRead (h : execReadoutRead s = .next t) : ChangesOnly [.readout] s t := by
  unfold execReadoutRead at h
  dsimp only at h
  repeat' split at h
  all_goals first
    | cases h
      done
    | injection h with h
      subst h
      exact update_readout s _

theorem row_commandCellArrival {c : LinkCell} (h : execCommandCellArrival c s = .next t) :
    ChangesOnly [.queue, .dropped, .notices, .idleStart] s t := by
  unfold execCommandCellArrival at h
  repeat' split at h
  all_goals first
    | cases h
      done
    | injection h with h
      subst h
      first | exact arrive_frame _ _ | exact .refl _ _

theorem row_sendReply (h : execSendReply s = .next t) : ChangesOnly [.sending, .pods, .outputs] s t := by
  unfold execSendReply at h
  dsimp only at h
  repeat' split at h
  all_goals
    injection h with h
    subst h
    first
      | exact ((takeReply_frame _ _).mono (by decide)).trans ((startCell_frame _ _).mono (by decide))
      | exact .refl _ _

theorem row_replySent (h : execReplySent s = .next t) : ChangesOnly [.sending, .slot, .resetDue] s t := by
  unfold execReplySent at h
  split at h
  all_goals
    injection h with h
    subst h
    first
      | exact .refl _ _
      | intro p hp
        cases p <;> first
          | rfl | exact ⟨rfl, rfl⟩ | exact ⟨rfl, rfl, rfl⟩ | exact fun _ => rfl | simp at hp

theorem row_sendNotice (h : execSendNotice s = .next t) :
    ChangesOnly [.notices, .noticesSent, .sending] s t := by
  unfold execSendNotice at h
  repeat' split at h
  all_goals
    injection h with h
    subst h
    first | exact sendNoticeOf_frame _ _ | exact .refl _ _

theorem row_sendStreamCell (h : execSendStreamCell s = .next t) :
    ChangesOnly [.sending, .readout] s t := by
  unfold execSendStreamCell at h
  dsimp only at h
  repeat' split at h
  all_goals
    injection h with h
    subst h
    first
      | exact .refl _ _
      | exact ((update_readout s _).mono (by decide)).trans ((startCell_frame _ _).mono (by decide))

theorem row_streamCellSent (h : execStreamCellSent s = .next t) : ChangesOnly readoutParts s t := by
  have g : ChangesOnly readoutParts s (cellSent s) := (cellSent_frame s).mono (by decide)
  unfold execStreamCellSent at h
  repeat' split at h
  all_goals
    injection h with h
    subst h
    first
      | exact g.trans (streamCellLeft_frame _ _ _)
      | exact g
      | exact .refl _ _

theorem row_badCommand (h : execBadCommand s = .next t) : ChangesOnly dispatchParts s t := by
  unfold execBadCommand at h
  split at h
  · rename_i e
    injection h with h
    subst h
    exact (takeCommand_frame e).trans ((putReply_frame _ _ _).mono (by decide))
  · injection h with h
    subst h
    exact .refl _ _

theorem readOwner_frame (c : LinkCell) (s : State) : ChangesOnly dispatchParts s (readOwner c s) := by
  unfold readOwner
  dsimp only
  exact .ite ((putReply_frame _ _ _).mono (by decide)) (.ite ((putReply_frame _ _ _).mono (by decide))
    ((putReply_frame _ _ _).mono (by decide)))

theorem statusReply_frame (c : LinkCell) (r : Option StatusReport) (s : State) :
    ChangesOnly dispatchParts s (statusReply c r s) := by
  unfold statusReply
  split <;> exact (putReply_frame _ _ _).mono (by decide)

theorem row_cancel (h : execCancel s = .next t) : ChangesOnly (rowParts .cancel) s t := by
  refine dispatch_frame (by decide) (fun c q => ?_) h
  refine .trans ?_ ((putReply_frame _ _ _).mono (by decide))
  split
  · exact (cancelReadout_frame _ _).mono (by decide)
  · exact .refl _ _

theorem row_podPresentChange {pod : Fin 4} (h : execPodPresentChange pod s = .next t) :
    ChangesOnly [.pods, .outputs, .notices, .segments] s t := by
  unfold execPodPresentChange at h
  split at h
  all_goals
    injection h with h
    subst h
    first | exact changePresent_frame _ _ | exact .refl _ _

theorem row_halfPeriodEnd {i : Fin 2} (h : execHalfPeriodEnd i s = .next t) :
    ChangesOnly [.genOutputs, .loopCounter] s t := by
  unfold execHalfPeriodEnd at h
  split at h
  all_goals
    injection h with h
    subst h
    exact update_gen s _ (by simp)

theorem row_presenceSenseChange {pod : Fin 4} {b : Bool} (h : execPresenceSenseChange pod b s = .next t) :
    ChangesOnly [.pods] s t := by
  unfold execPresenceSenseChange at h
  dsimp only at h
  split at h
  all_goals
    injection h with h
    subst h
    first
      | exact .refl _ _
      | intro p hp
        cases p <;> first
          | rfl | exact ⟨rfl, rfl⟩ | exact ⟨rfl, rfl, rfl⟩ | exact fun _ => rfl | simp at hp

theorem row_comparatorOutputChange {k : Fin 32} {v : Int} (h : execComparatorOutputChange k v s = .next t) :
    ChangesOnly [.inputs, .outputs, .wakeLogic] s t := by
  unfold execComparatorOutputChange at h
  dsimp only at h
  injection h with h
  subst h
  unfold watchChannels
  split
  all_goals
    intro p hp
    cases p <;> first
      | rfl | exact ⟨rfl, rfl⟩ | exact ⟨rfl, rfl, rfl⟩ | exact fun _ => rfl | simp at hp

theorem row_wakeActivity (h : execWakeActivity s = .next t) : ChangesOnly [.wake] s t := by
  unfold execWakeActivity at h
  split at h
  all_goals
    injection h with h
    subst h
    first | exact startWake_frame _ _ _ | exact .refl _ _

theorem row_wakeComplete (h : execWakeComplete s = .next t) : ChangesOnly wakeParts s t := by
  unfold execWakeComplete at h
  split at h
  all_goals
    injection h with h
    subst h
    first | exact awaken_frame _ _ | exact .refl _ _

theorem row_powerOnReset {d : DramSize} (h : execPowerOnReset d s = .next t) :
    ChangesOnly coldParts s t := by
  injection h with h
  subst h
  exact coldReset_frame _ _ _

theorem row_pinReset {d : DramSize} (h : execPinReset d s = .next t) :
    ChangesOnly coldParts s t := by
  injection h with h
  subst h
  exact coldReset_frame _ _ _

theorem row_linkReset (h : execLinkReset s = .next t) :
    ChangesOnly (rowParts .linkReset) s t := by
  injection h with h
  subst h
  exact .ite (linkReset_frame s) (.refl _ s)

theorem row_sendFill (h : execSendFill s = .next t) :
    ChangesOnly (rowParts .sendFill) s t := by
  injection h with h
  subst h
  exact .ite (startCell_frame _ s) (.refl _ s)

theorem row_write (h : execWrite s = .next t) :
    ChangesOnly (rowParts .write) s t := by
  exact dispatch_frame (by decide) (fun c q => writeTable_frame (by decide)
    (fun k bs a b e => (storePlain_frame _ k bs a b e).mono (by decide))
    (fun _ _ => (writeDone_frame _ _).mono (by decide)) c q) h

theorem row_writePods (h : execWritePods s = .next t) :
    ChangesOnly (rowParts .writePods) s t := by
  exact dispatch_frame (by decide) (writeTable_frame (by decide)
    (fun k bs a b e => (storePod_frame k bs a b e).mono (by decide))
    fun _ _ => (writeDone_frame _ _).mono (by decide)) h

theorem row_writeGenerator (h : execWriteGenerator s = .next t) :
    ChangesOnly (rowParts .writeGenerator) s t := by
  exact dispatch_frame (by decide) (writeTable_frame (by decide)
    (fun k bs a b e => (storeGen_frame k bs a b e).mono (by decide))
    fun _ _ => (writeDone_frame _ _).mono (by decide)) h

theorem row_writeRegions (h : execWriteRegions s = .next t) :
    ChangesOnly (rowParts .writeRegions) s t := by
  exact dispatch_frame (by decide) (writeTable_frame (by decide)
    (fun k bs a b e => (storeRegions_frame k bs a b e).mono (by decide))
    fun _ _ => (fillReply_frame _ _ _).mono (by decide)) h

theorem row_writeSegmentPlan (h : execWriteSegmentPlan s = .next t) :
    ChangesOnly (rowParts .writeSegmentPlan) s t := by
  exact dispatch_frame (by decide) (writeTable_frame (by decide)
    (fun k bs a b e => (storePlan_frame k bs a b e).mono (by decide))
    fun _ _ => (writeDone_frame _ _).mono (by decide)) h

theorem row_writeCursors (h : execWriteCursors s = .next t) :
    ChangesOnly (rowParts .writeCursors) s t := by
  exact dispatch_frame (by decide) (writeTable_frame (by decide)
    (fun k bs a b e => (storeCursor_frame k bs a b e).mono (by decide))
    fun _ _ => (writeDone_frame _ _).mono (by decide)) h

theorem row_writePanel (h : execWritePanel s = .next t) :
    ChangesOnly (rowParts .writePanel) s t := by
  exact dispatch_frame (by decide) (writeTable_frame (by decide)
    (fun k bs a b e => (storePanel_frame k bs a b e).mono (by decide))
    fun _ _ => (fillReply_frame _ _ _).mono (by decide)) h

theorem row_writePowerAndNotice (h : execWritePowerAndNotice s = .next t) :
    ChangesOnly (rowParts .writePowerAndNotice) s t := by
  exact dispatch_frame (by decide) (writeTable_frame (by decide)
    (fun k bs a b e => (storePower_frame k bs a b e).mono (by decide))
    fun _ _ => (writeDone_frame _ _).mono (by decide)) h

theorem row_read (h : execRead s = .next t) :
    ChangesOnly (rowParts .read) s t := by
  exact dispatch_frame (by decide) readOwner_frame h

theorem row_arm (h : execArm s = .next t) :
    ChangesOnly (rowParts .arm) s t := by
  exact dispatch_frame (by decide) (fun c q => (armOwner_frame c q).mono (by decide)) h

theorem row_stop (h : execStop s = .next t) :
    ChangesOnly (rowParts .stop) s t := by
  exact dispatch_frame (by decide) (fun c q => .trans
    (.ite ((stopCapture_frame q).mono (by decide)) (.refl _ q)) ((putReply_frame _ _ _).mono (by decide))) h

theorem row_force (h : execForce s = .next t) :
    ChangesOnly (rowParts .force) s t := by
  exact dispatch_frame (by decide) (fun c q => .trans
    (.ite ((forceCapture_frame q).mono (by decide)) (.refl _ q)) ((putReply_frame _ _ _).mono (by decide))) h

theorem row_redecode (h : execRedecode s = .next t) :
    ChangesOnly (rowParts .redecode) s t := by
  exact dispatch_frame (by decide) (fun c q => (redecodeOwner_frame c q).mono (by decide)) h

theorem row_render (h : execRender s = .next t) :
    ChangesOnly (rowParts .render) s t := by
  exact dispatch_frame (by decide) (fun c q => (((leaveStandby_frame q).mono (by decide)).trans
    ((requestRender_frame _).mono (by decide))).trans ((putReply_frame _ _ _).mono (by decide))) h

theorem row_swap (h : execSwap s = .next t) :
    ChangesOnly (rowParts .swap) s t := by
  refine dispatch_frame (by decide) (fun c q => .trans (t := { q with re.active := otherSet q.re.active }) ?_
    ((putReply_frame _ _ _).mono (by decide))) h
  intro p hp
  cases p <;> first
    | rfl | exact ⟨rfl, rfl⟩ | exact ⟨rfl, rfl, rfl⟩ | exact fun _ => rfl
    | simp [rowParts, dispatchParts] at hp

theorem row_readout (h : execReadout s = .next t) :
    ChangesOnly (rowParts .readout) s t := by
  exact dispatch_frame (by decide) (fun c q => (readoutOwner_frame c q).mono (by decide)) h

theorem row_statusDevice (h : execStatusDevice s = .next t) :
    ChangesOnly (rowParts .statusDevice) s t := by
  exact dispatch_frame (by decide) (fun c q => statusReply_frame _ _ _) h

theorem row_statusSegment (h : execStatusSegment s = .next t) :
    ChangesOnly (rowParts .statusSegment) s t := by
  exact dispatch_frame (by decide) (fun c q => statusReply_frame _ _ _) h

theorem row_statusLane (h : execStatusLane s = .next t) :
    ChangesOnly (rowParts .statusLane) s t := by
  exact dispatch_frame (by decide) (fun c q => statusReply_frame _ _ _) h

theorem row_statusSequencer (h : execStatusSequencer s = .next t) :
    ChangesOnly (rowParts .statusSequencer) s t := by
  exact dispatch_frame (by decide) (fun c q => statusReply_frame _ _ _) h

theorem row_statusRender (h : execStatusRender s = .next t) :
    ChangesOnly (rowParts .statusRender) s t := by
  exact dispatch_frame (by decide) (fun c q => statusReply_frame _ _ _) h

theorem row_powerRun (h : execPowerRun s = .next t) :
    ChangesOnly (rowParts .powerRun) s t := by
  exact dispatch_frame (by decide) (fun c q => (powerRunOwner_frame c q).mono (by decide)) h

theorem row_powerStandby (h : execPowerStandby s = .next t) :
    ChangesOnly (rowParts .powerStandby) s t := by
  exact dispatch_frame (by decide) (fun c q => (powerStandbyOwner_frame c q).mono (by decide)) h

theorem row_powerSleep (h : execPowerSleep s = .next t) :
    ChangesOnly (rowParts .powerSleep) s t := by
  exact dispatch_frame (by decide) (fun c q => (powerSleepOwner_frame c q).mono (by decide)) h

theorem row_reset (h : execReset s = .next t) :
    ChangesOnly (rowParts .reset) s t := by
  exact dispatch_frame (by decide) (fun c q => (putReply_frame _ _ _).mono (by decide)) h

theorem row_idleTimeout (h : execIdleTimeout s = .next t) :
    ChangesOnly (rowParts .idleTimeout) s t := by
  injection h with h
  subst h
  exact .ite (enterStandby_frame s) (.refl _ s)

theorem row_noticeCellSent (h : execNoticeCellSent s = .next t) :
    ChangesOnly (rowParts .noticeCellSent) s t := by
  injection h with h
  subst h
  exact .ite (cellSent_frame s) (.refl _ s)

theorem row_fillCellSent (h : execFillCellSent s = .next t) :
    ChangesOnly (rowParts .fillCellSent) s t := by
  injection h with h
  subst h
  exact .ite (cellSent_frame s) (.refl _ s)

/-- No row of the opcode table changes anything beyond its parts. -/
theorem exec_frame {i : Instr} (h : exec i s = .next t) : ChangesOnly (rowParts i) s t := by
  cases i
  case powerOnReset d => exact row_powerOnReset (d := d) h
  case pinReset d => exact row_pinReset (d := d) h
  case linkReset => exact row_linkReset h
  case podPresentChange pod => exact row_podPresentChange (pod := pod) h
  case halfPeriodEnd i => exact row_halfPeriodEnd (i := i) h
  case sample => exact row_sample h
  case counterExpiry i => exact row_counterExpiry (i := i) h
  case gapDeadline l => exact row_gapDeadline (l := l) h
  case stretchTimeout l => exact row_stretchTimeout (l := l) h
  case writeQueueDrain => exact row_writeQueueDrain h
  case symbolWrite => exact row_symbolWrite h
  case symbolTrim => exact row_symbolTrim h
  case closeComplete => exact row_closeComplete h
  case redecodeRecordRead => exact row_redecodeRecordRead h
  case redecodeDone => exact row_redecodeDone h
  case renderPixelWrite => exact row_renderPixelWrite h
  case renderRecordRead => exact row_renderRecordRead h
  case renderSymbolRead => exact row_renderSymbolRead h
  case drawingComplete => exact row_drawingComplete h
  case frameBoundary => exact row_frameBoundary h
  case scanOutRowRead => exact row_scanOutRowRead h
  case frameBufferFillBlock => exact row_frameBufferFillBlock h
  case fillComplete => exact row_fillComplete h
  case readoutRead => exact row_readoutRead h
  case commandCellArrival c => exact row_commandCellArrival (c := c) h
  case sendReply => exact row_sendReply h
  case replySent => exact row_replySent h
  case sendNotice => exact row_sendNotice h
  case sendStreamCell => exact row_sendStreamCell h
  case streamCellSent => exact row_streamCellSent h
  case sendFill => exact row_sendFill h
  case badCommand => exact row_badCommand h
  case write => exact row_write h
  case writePods => exact row_writePods h
  case writeGenerator => exact row_writeGenerator h
  case writeRegions => exact row_writeRegions h
  case writeSegmentPlan => exact row_writeSegmentPlan h
  case writeCursors => exact row_writeCursors h
  case writePanel => exact row_writePanel h
  case writePowerAndNotice => exact row_writePowerAndNotice h
  case read => exact row_read h
  case arm => exact row_arm h
  case stop => exact row_stop h
  case force => exact row_force h
  case redecode => exact row_redecode h
  case render => exact row_render h
  case swap => exact row_swap h
  case readout => exact row_readout h
  case cancel => exact row_cancel h
  case statusDevice => exact row_statusDevice h
  case statusSegment => exact row_statusSegment h
  case statusLane => exact row_statusLane h
  case statusSequencer => exact row_statusSequencer h
  case statusRender => exact row_statusRender h
  case powerRun => exact row_powerRun h
  case powerStandby => exact row_powerStandby h
  case powerSleep => exact row_powerSleep h
  case reset => exact row_reset h
  case idleTimeout => exact row_idleTimeout h
  case wakeActivity => exact row_wakeActivity h
  case wakeComplete => exact row_wakeComplete h
  case noticeCellSent => exact row_noticeCellSent h
  case fillCellSent => exact row_fillCellSent h
  case presenceSenseChange pod b => exact row_presenceSenseChange (pod := pod) (b := b) h
  case comparatorOutputChange k v => exact row_comparatorOutputChange (k := k) (v := v) h

/-- What the part does by itself in a tick with nothing due: time, prescaler, generator, pods, idle timer. -/
theorem advance_frame (s : State) :
    ChangesOnly [.time, .prescaler, .genOutputs, .pods, .idleStart] s (advance s) := by
  have h : ChangesOnly [.time, .prescaler, .genOutputs, .pods, .idleStart] s { s with
      time := s.time + 1, prescaler := s.prescaler + 1, gen := tickGenerator s.gen
      pfe := tickPods s.pfe } := by
    intro p hp
    cases p <;> first
      | rfl | exact ⟨rfl, rfl⟩ | exact ⟨rfl, rfl, rfl⟩ | exact fun _ => rfl | simp at hp
  unfold advance watchIdle
  refine .ite (.refl _ s) ?_
  dsimp only
  exact .ite (h.trans ((restartIdle_frame _).mono (by decide))) h

/-- A step is the meaning of the step taken, with the rest of the queue, or one tick of the clock. -/
theorem step_cases (h : step s = .next t) :
    (∃ i rest, s.pending = i :: rest ∧ exec i { s with pending := rest } = .next t) ∨
    (∃ i, s.pending = [] ∧ dueStep s = some i ∧ exec i s = .next t) ∨
    (s.pending = [] ∧ dueStep s = none ∧ t = advance s) := by
  unfold step at h
  split at h
  · rename_i i rest e
    exact .inl ⟨i, rest, e, h⟩
  · rename_i e
    unfold idleStep at h
    split at h
    · rename_i i d
      exact .inr (.inl ⟨i, e, d, h⟩)
    · rename_i d
      injection h with h
      exact .inr (.inr ⟨e, d, h.symm⟩)

end Sys2Proof.Machine
end

