-- ==== Sys2Proof/Laws/Sampling.lean ====
section
/-! SUPPORT. What SAMPLE does at a tick with nothing else due, and an open record within the largest
duration. -/

namespace Sys2Proof.Machine

variable {s : State}

theorem settle_quiet (q : Quiet s) : settle s = s := by
  unfold settle
  have a : ∀ l : List (Fin 4),
      l.foldl (fun t pod => if presenceDue t pod then changePresent pod t else t) s = s := by
    intro l
    induction l with
    | nil => rfl
    | cons x l ih =>
      simp only [List.foldl_cons, q.1 x]
      exact ih
  have b : ∀ l : List (Fin 2),
      l.foldl (fun t i => if halfPeriodDue t i then { t with gen := endHalfPeriod i t.gen } else t) s = s := by
    intro l
    induction l with
    | nil => rfl
    | cons x l ih =>
      simp only [List.foldl_cons, q.2 x]
      exact ih
  dsimp only
  rw [a, b]

theorem capturing_iff : capturing s = true ↔
    s.ce.engine = .preFill ∨ s.ce.engine = .armed ∨ s.ce.engine = .triggered := by
  simp [capturing, or_assoc]

theorem sampleDue_now (h : s.ce.nextTick = s.time) (c : capturing s = true) : sampleDue s = true := by
  unfold sampleDue
  rw [c, h]
  simp [atOrBefore, timeDiff]

/-- The Signal Generator is the same where none of its parts changes. -/
theorem same_gen {ps : List Part} {s t : State} (h : ChangesOnly ps s t) (a : Part.genTable ∉ ps)
    (b : Part.genOutputs ∉ ps) (c : Part.loopCounter ∉ ps) : t.gen = s.gen := by
  have h1 : t.gen.table = s.gen.table := h _ a
  have h2 : t.gen.outputs = s.gen.outputs := h _ b
  have h3 : t.gen.loopCounter = s.gen.loopCounter := h _ c
  calc t.gen = ⟨t.gen.table, t.gen.outputs, t.gen.loopCounter⟩ := rfl
    _ = s.gen := by rw [h1, h2, h3]

/-- A sample that brings no trigger leaves the Signal Generator alone: no FORCE is held, and the sample is met
in Triggered or finds room in the staging line (R17, R20). -/
theorem ceSample_gen (f : s.ce.heldForce = false)
    (k : s.ce.engine = .triggered ∨ s.ce.engine ≠ .triggered ∧ s.ce.staging.length < 16) (x : Sample) :
    (ceSample x s).gen = s.gen := by
  unfold ceSample
  simp only [f, Bool.false_eq_true, if_false]
  rcases k with e | ⟨e, l⟩
  · rw [if_pos e]
    exact (same_gen (triggeredSample_frame _ x) (by decide) (by decide) (by decide)).trans rfl
  · rw [if_neg e]
    unfold stageSample
    rw [if_neg (by simp [Config.stagingDepth]; omega)]

theorem levelsTaken_quiet {x : Sample} (g : (ceSample x s).gen = s.gen) :
    levelsTaken x s = sampleLevels s := by
  unfold levelsTaken
  rw [g]

/-- The sampler's sample is taken: the whole of SAMPLE at a quiet tick at which the sampler is due and no
trigger comes with the sample. -/
theorem exec_sample_take (q : Quiet s) (h : s.ce.nextTick = s.time) (c : capturing s = true)
    (k : s.ce.table.mode = .timing ∨ ∃ old, s.ce.clock = some old ∧ qualifies s.ce.table.clockEdge old
      ((sampleLevels s).getLsbD s.ce.table.clockChannel) = true)
    (g : (ceSample { stamp := s.time, levels := sampleLevels s } s).gen = s.gen) :
    execSample s = .next (takeSample { stamp := s.time, levels := sampleLevels s }
      (advanceSampler (sampleLevels s) s)) := by
  unfold execSample sampleTick
  rw [if_pos (sampleDue_now h c), settle_quiet q]
  have : sampleNow s = some { stamp := s.time, levels := sampleLevels s } := by
    unfold sampleNow
    dsimp only
    rcases k with k | ⟨old, k1, k2⟩
    · rw [k]
    · cases s.ce.table.mode
      · rfl
      · dsimp only
        rw [k1]
        dsimp only
        rw [if_pos k2]
  unfold sampleTaken
  dsimp only
  rw [this]
  simp only [Option.map_some, levelsTaken_quiet g]

/-- The engine and the merger after a sample: the lanes do not act on the engine. -/
theorem takeSample_ce (x : Sample) (u : State) :
    (takeSample x u).ce = (ceSample x u).ce ∧
      (takeSample x u).sm = noteStamp x.stamp (ceSample x u).sm := by
  have a := lanesSample_frame u.ce.table.divisor x (ceSample x u)
  unfold takeSample
  dsimp only
  generalize lanesSample u.ce.table.divisor x (ceSample x u) = v at a
  have b := endRuns_frame { v with sm := noteStamp x.stamp v.sm }
  have a1 : v.ce = _ := a .ce (by decide)
  have a2 : v.sm = _ := a .sm (by decide)
  have b1 : (endRuns { v with sm := noteStamp x.stamp v.sm }).ce = v.ce := b .ce (by decide)
  have b2 : (endRuns { v with sm := noteStamp x.stamp v.sm }).sm = noteStamp x.stamp v.sm :=
    b .sm (by decide)
  exact ⟨b1.trans a1, b2.trans (by rw [a2])⟩

/-- An open record within the largest duration is not split, and closes into one record (R23). -/
theorem closeAt_within (t : Time) (o : OpenRecord) (h : elapsed t o.start ≤ 16777215) :
    splitAt t o = ([], o) ∧ closeAt t o = [(o.start, closedRecord o (elapsed t o.start))] := by
  have : splitCount t o = 0 := by
    unfold splitCount Config.maxDuration
    exact Nat.div_eq_of_lt (by omega)
  unfold closeAt splitAt
  rw [this]
  exact ⟨rfl, rfl⟩

/-- A sample met in Triggered before sample m + P is handled (R38). -/
theorem ceSample_triggered (e : s.ce.engine = .triggered) (f : s.ce.heldForce = false)
    (ei : s.ce.endIndex ≠ some s.ce.handled) (w : Word) (x : Sample) :
    ceSample x (advanceSampler w s) = handleSample x
      { advanceSampler w s with ce := { (advanceSampler w s).ce with taken := s.ce.taken + 1 } } := by
  unfold ceSample
  have f' : (advanceSampler w s).ce.heldForce = false := f
  have e' : (advanceSampler w s).ce.engine = .triggered := e
  simp only [f', e', Bool.false_eq_true, if_false, if_true]
  unfold triggeredSample
  have g : ¬(advanceSampler w s).ce.endIndex = some (advanceSampler w s).ce.handled := ei
  simp only [if_true, g, if_false]
  rfl

theorem append_ite {p : Prop} [Decidable p] {a b : List Record × List Record} {x : List Record}
    (ha : a.1 ++ a.2 = x) (hb : b.1 ++ b.2 = x) :
    (if p then a else b).1 ++ (if p then a else b).2 = x := by
  split <;> assumption

/-- Every record of Closing is either in the queue or waits, in order (R40). -/
theorem feedQueue_append (q rs : List Record) : (feedQueue q rs).1 ++ (feedQueue q rs).2 = q ++ rs := by
  induction rs generalizing q with
  | nil => simp [feedQueue]
  | cons r rest ih =>
    rw [feedQueue.eq_def]
    exact append_ite (by rw [ih]; simp) rfl

end Sys2Proof.Machine
end

