-- ==== Sys2Proof/Tests/Slice0.lean ====
section
/-! SUPPORT. Tests: the well-formedness smoke test, for every statement with hypotheses a concrete state that
meets them, and a few steps whose results are worked out by hand from the spec. -/

namespace Sys2Proof.Tests.Slice0

-- One test at a time: the kernel evaluations otherwise wait on each other, each in a thread of its own.
set_option Elab.async false

open Sys2Proof Sys2Proof.Machine

/-! ### Helpers -/

/-- The machine right after reset. -/
abbrev s0 : State := State.reset

/-- A Command cell with tag 7. -/
def cell (code : Byte) (payload : List Byte) : LinkCell :=
  { kind := 0, tag := 7, length := BitVec.ofNat 8 payload.length, code := code, payload := payload }

/-- A state with one command waiting. -/
def with1 (c : LinkCell) (s : State) : State := { s with lp.queue := [c] }

/-- A field of the state after a step. -/
def after {α : Type} (o : Host.Outcome State Fault Refusal) (f : State → α) : Option α :=
  match o with
  | .next t => some (f t)
  | _ => none

/-- The reply that a command of a row gets. -/
def reply (i : Instr) (c : LinkCell) (s : State) : Option (Option ReplyBody) :=
  after (exec i (with1 c s)) fun t => t.lp.slot.map (·.body)

/-- A command alone in the queue of a part that is free to dispatch is ready. -/
theorem ready_with1 {c : LinkCell} {s : State} (hc : wholeCell c = true) (h : mayDispatch s = true)
    (hw : waitsForTick c s = false := by decide) : Ready c [] (with1 c s) := by
  simp only [mayDispatch, Bool.and_eq_true, Option.isNone_iff_eq_none, Bool.not_eq_true'] at h
  exact ⟨hc, rfl, h.1.1.1, h.1.1.2, h.1.2, h.2, hw⟩

/-! ### Well-formedness -/

/-- A cell whose payload is shorter than its Length says is no cell (R186). -/
theorem test_wellformed_refuses_short_payload :
    Instr.wellFormed (.commandCellArrival { cell 3 [0] with length := 2 }) = false := by decide

/-- Nor is one with more payload than its Length says (R186). -/
theorem test_wellformed_refuses_long_payload :
    Instr.wellFormed (.commandCellArrival { cell 3 [0] with length := 0 }) = false := by decide

/-- Every step but an arrival is well-formed, and so is the arrival of a whole cell. -/
theorem test_wellformed_takes_whole_cell :
    Instr.wellFormed (.commandCellArrival (cell 3 [0])) = true ∧ Instr.wellFormed .sample = true := by
  decide

/-! ### The machine -/

/-- At reset the link is free, so a Fill cell is due; while one is being sent nothing is. -/
theorem test_step_due : s0.pending = [] ∧ dueStep s0 = some .sendFill := by decide

/-- A part that sends a cell. -/
def sending : State := { s0 with lp.sending := some fillCell }

/-- Nothing is due, in Run and in Sleep. -/
theorem test_step_none_due :
    dueStep sending = none ∧ sending.pru.power ≠ .sleep ∧
      dueStep { sending with pru.power := .sleep } = none := by decide

/-- A plan with two segments. -/
def planned : State :=
  let p : PlanEntry :=
    { planned := true, captureFirst := 0, captureCount := 1, symbolFirst := 896, symbolCount := 1 }
  let q : PlanEntry :=
    { planned := true, captureFirst := 895, captureCount := 1, symbolFirst := 0, symbolCount := 0 }
  { s0 with plan := (s0.plan.set 0 p).set 31 q }

/-- The hypotheses of the invariants: a step is taken, and the laws hold of states that are at work. -/
theorem test_steps_are_taken :
    memWf s0.dram = true ∧ (after (step s0) fun t => t.lp.sending) = some (some fillCell) := by decide

theorem test_plan_law_of_a_plan : PlanLaw planned :=
  ⟨by decide, by decide, by decide, by decide, by decide⟩

/-- A segment being filled. -/
def filling : SegmentStatus :=
  { emptySegment 0 with state := .filling, startTime := some 0, symbolStatus := some .complete }

/-- A capture of segment 0 in a state of the engine, with the reset acquisition table. -/
def cap (e : EngineState) : State :=
  { planned with
    ce := { idleCe with engine := e, segment := some 0, sequence := 1, post := 4096 }
    segments := planned.segments.set 0 filling }

theorem test_engine_law_of_a_capture : EngineLaw (cap .armed) :=
  ⟨by decide, by decide, by decide⟩

/-- A readout of segment 0 under way, 2 records of 8. -/
def readingOut : Readout :=
  { tag := 9, segment := 0, kind := .records, next := 2, left := 6, length := 8, sent := 2, ready := none
    cancelled := false }

/-- A closed segment with 8 records and 3 symbols, held once. -/
def closedSegment0 : SegmentStatus :=
  { emptySegment 1 with
    state := .closed, oldest := some 0, newest := some 7, recordCount := 8, startTime := some 0
    endTime := some 800, endReason := some .stopped, symbolFirst := some 0, symbolCount := 3
    symbolStatus := some .complete }

/-- A part that reads out segment 0. -/
def reading : State :=
  { planned with segments := planned.segments.set 0 closedSegment0, lp.readout := some readingOut }

theorem test_hold_law_of_a_readout : HoldLaw reading := ⟨by decide, by decide⟩

/-- A full command queue. -/
def crowded : State := { s0 with lp.queue := List.replicate 8 (cell 4 []) }

theorem test_queue_law_of_a_full_queue : QueueLaw crowded :=
  ⟨by decide, by decide, by decide, by decide, by decide, by decide⟩

/-- A sample is taken while a capture runs: the tables are locked. -/
theorem test_locked_tables_step :
    (cap .armed).ce.engine ≠ .idle ∧ (∀ d, Instr.sample ≠ .powerOnReset d ∧ Instr.sample ≠ .pinReset d) ∧
      (after (exec .sample (cap .armed)) fun t => t.ce.taken) = some 1 := by
  refine ⟨by decide, fun d => ⟨nofun, nofun⟩, by decide⟩

/-! ### Resets, pins and the Signal Generator -/

/-- A view of a small area. -/
def smallView : View :=
  { segment := 0, reference := .start, origin := 0, zoom := 25600, left := 0, top := 0, width := 4
    height := 2, rowCount := 0 }

/-- The snapshot of a render of segment 0, into buffer 1. -/
def snap : Snapshot :=
  { view := smallView, rows := [], panelWidth := 800, panelHeight := 480
    cursor1 := { enabled := false, offset := 0 }, cursor2 := { enabled := false, offset := 0 }
    noData := false, filling := false, oldest := 0, newest := 7, recordCount := 8, startTime := some 0
    endTime := some 800, triggerTime := none, symbolFirst := 0, symbolCount := 3, reference := some 0
    buffer := true, redecoding := false }

/-- A render at a phase, with runs of pixels to write. -/
def drawing (phase : DrawPhase) (writes : List PixelRun) : Draw :=
  { snapshot := snap, placed := [], writes := writes, phase := phase, used := [], nextColumn := 0
    firstColumn := none, lastColumn := none, reads := 0, drawn := 0, ringWrites := 0, spanWrites := 0
    omitted := false, outcome := .done, bounds := none, readings := none }

/-- A part that renders segment 0. -/
def rendering (phase : DrawPhase) (writes : List PixelRun) : State :=
  { planned with
    segments := planned.segments.set 0 closedSegment0
    re := { idleRe with job := .drawing, draw := some (drawing phase writes), segment := some 0 } }

/-- A redecode of segment 0. -/
def replaying (left : Nat) : Redecode :=
  { segment := 0, divisor := 4, stamp := 0, next := 0, left := left, start := 0, refused := false }

/-- A part that redecodes segment 0. -/
def redecoding (left : Nat) : State :=
  { planned with
    segments := planned.segments.set 0 { closedSegment0 with
      holdCount := 0, symbolFirst := none, symbolCount := 0, symbolStatus := some .incomplete }
    redecode := some (replaying left) }

/-- The reset kinds a cold reset is stated of. -/
theorem test_cold_resets :
    (Instr.powerOnReset .mib64, ResetCause.power) ∈
      [(Instr.powerOnReset .mib64, ResetCause.power), (.pinReset .mib64, .pin)] ∧
    (Instr.pinReset .mib256, ResetCause.pin) ∈
      [(Instr.powerOnReset .mib256, ResetCause.power), (.pinReset .mib256, .pin)] := by decide

/-- A link reset due: with no capture, during a capture, during a redecode, and during a render. -/
theorem test_link_reset_states :
    (∀ s ∈ [{ s0 with lp.resetDue := true }, { cap .armed with lp.resetDue := true },
        { redecoding 3 with lp.resetDue := true }, { rendering .finished [] with lp.resetDue := true }],
      s.lp.resetDue = true) ∧
    s0.ce.segment = none ∧ (cap .armed).ce.segment = some 0 ∧ (redecoding 3).redecode = some (replaying 3) ∧
    (rendering .finished []).re.draw = some (drawing .finished []) ∧
    HoldLaw { rendering .finished [] with lp.resetDue := true } :=
  ⟨by decide, by decide, by decide, by decide, by decide, by decide, by decide⟩

/-- After it the capture is Closed with reason Reset (R42). -/
theorem test_link_reset_closes_the_segment :
    (after (exec .linkReset { cap .triggered with lp.resetDue := true }) fun t =>
      (t.segments[0].state, t.segments[0].endReason, t.ce.engine)) =
      some (.closed, some .reset, .idle) := by decide

/-- A 256 MiB part has 4096 blocks: the capture region ends at 3968, the symbol region at 4072 (R44, R45). -/
theorem test_power_on_regions :
    (after (exec (.powerOnReset .mib256) (cap .armed)) fun t => (t.mp.regions.captureEnd, t.mp.regions.symbolEnd,
      t.ce.engine)) = some (3968, 4072, .idle) := by decide

/-- With T = 1.4 V and H = 50 mV an input at 1425 mV is not above T + H/2, and 1425.5 mV is (R3). -/
theorem test_comparator_bounds :
    (after (exec (.comparatorOutputChange 31 2850) s0) fun t => t.pfe.outputs) = some 0 ∧
    (after (exec (.comparatorOutputChange 31 2851) s0) fun t => t.pfe.outputs) = some 0x80000000 := by decide

/-- In Sleep with no wake begun the wake logic watches, and a sense that does not change changes nothing. -/
theorem test_pin_change_states :
    ({ s0 with pru.power := .sleep }).pru.power = .sleep ∧ ({ s0 with pru.power := .sleep }).pru.wake = none ∧
    s0.pru.power ≠ .sleep ∧ s0.pfe.pods[(3 : Fin 4)].sense = false ∧ (2 : Fin 4) ≠ 3 := by decide

/-- A pod whose sense has just held 1 for 400,000 ticks. -/
def inserting : State :=
  { s0 with time := 400000, pfe.pods := s0.pfe.pods.set 3 { emptyPod with sense := true } }

/-- A captured pod of which the sense has held 0 for 400,000 ticks during a capture in Narrow width. -/
def removing : State :=
  { cap .triggered with
    time := 400000, pfe.pods := s0.pfe.pods.set 1 { emptyPod with present := true }
    ce.table := { defaultAcq with width := .narrow } }

/-- The hypotheses of a change of Present, at the first tick at which it is due. -/
theorem test_present_change_states :
    (inserting.pfe.pods[(3 : Fin 4)].sense ≠ inserting.pfe.pods[(3 : Fin 4)].present ∧
      400000 ≤ timeDiff inserting.time inserting.pfe.pods[(3 : Fin 4)].filterStart ∧
      inserting.pru.power ≠ .sleep ∧ podOf 24 = 3) ∧
    removing.pfe.pods[(1 : Fin 4)].sense ≠ removing.pfe.pods[(1 : Fin 4)].present ∧
    400000 ≤ timeDiff removing.time removing.pfe.pods[(1 : Fin 4)].filterStart ∧ removing.pru.power ≠ .sleep ∧
    removing.pfe.pods[(1 : Fin 4)].sense = false ∧ removing.ce.segment = some 0 ∧
    removing.ce.engine = .triggered ∧ removing.ce.table.loop = false ∧ (1 : Fin 4).val < 2 := by decide

/-- The loss of a captured pod sets PodLost; that of pod D, which Narrow width does not capture, does not
(R6). -/
theorem test_pod_lost :
    (after (exec (.podPresentChange 1) removing) fun t => t.segments[(0 : Fin 32)].podLost) = some true ∧
    (after (exec (.podPresentChange 3) { removing with
      pfe.pods := s0.pfe.pods.set 3 { emptyPod with present := true } }) fun t =>
        (t.pfe.pods[(3 : Fin 4)].present, t.segments[(0 : Fin 32)].podLost)) = some (false, false) := by
  decide

/-- One tick earlier Present does not change (R4). -/
theorem test_present_waits :
    (after (exec (.podPresentChange 3) { inserting with time := 399999 }) fun t =>
      t.pfe.pods[(3 : Fin 4)].present) = some false ∧
    (after (exec (.podPresentChange 3) inserting) fun t => t.pfe.pods[(3 : Fin 4)].present) = some true := by
  decide

/-- An output at the end of a half-period. -/
def output (run : GenRun) (level : Bool) (periods : Nat) (mode : GenMode) : State :=
  { s0 with gen := { s0.gen with
      table := s0.gen.table.set 0 { mode := mode, half := 3, burst := 2 }
      outputs := s0.gen.outputs.set 0 { level := level, run := run, ticksLeft := 0, periodsLeft := periods } } }

/-- The four cases of the end of a half-period. -/
theorem test_half_period_states :
    (output .running false 0 .square).gen.outputs[(0 : Fin 2)].ticksLeft = 0 ∧
    (output .running false 0 .square).pru.power ≠ .sleep ∧
    (output .running false 0 .square).gen.outputs[(0 : Fin 2)].run = .running ∧
    (output .bursting true 2 .burst).gen.outputs[(0 : Fin 2)].run = .bursting ∧
    (output .bursting true 2 .burst).gen.outputs[(0 : Fin 2)].level = true ∧
    2 ≤ (output .bursting false 2 .burst).gen.outputs[(0 : Fin 2)].periodsLeft ∧
    (output .bursting false 1 .burst).gen.outputs[(0 : Fin 2)].periodsLeft = 1 := by decide

/-- A burst in BurstOnTrigger that ends waits for the next trigger; a rise of CAL0 counts (R14, R16, R17). -/
theorem test_half_period_ends :
    (after (exec (.halfPeriodEnd 0) (output .bursting false 1 .burstOnTrigger)) fun t =>
      (t.gen.outputs[(0 : Fin 2)].run, t.gen.loopCounter)) = some (.waiting, 0) ∧
    (after (exec (.halfPeriodEnd 0) (output .running false 0 .square)) fun t =>
      (t.gen.outputs[(0 : Fin 2)].level, t.gen.loopCounter)) = some (true, 1) := by decide

/-! ### Sampling and the compressor -/

/-- The widths and sources that a sample's levels are stated for. -/
theorem test_sample_level_states :
    s0.ce.table.width = .wide ∧ s0.ce.table.loop = false ∧ 16 ≤ (16 : Fin 32).val ∧ (15 : Fin 32).val < 16 ∧
    ({ s0 with ce.table := { defaultAcq with width := .narrow, loop := true } }).ce.table.width = .narrow := by
  decide

/-- A state in which no change of Present and no half-period end is due is quiet. -/
theorem quiet_of {s : State} (h : ((List.finRange 4).all fun pod => !presenceDue s pod) = true)
    (g : ((List.finRange 2).all fun i => !halfPeriodDue s i) = true) : Quiet s := by
  simp only [List.all_eq_true, List.mem_finRange, true_implies, Bool.not_eq_true'] at h g
  exact ⟨h, g⟩

/-- Fifteen staged samples, the stamps 0, 4, ... 56. -/
def fifteen : List Sample := (List.range 15).map fun i => { stamp := BitVec.ofNat 48 (4 * i), levels := 0 }

/-- An Armed capture with room for one sample in its staging line, due at tick 60. -/
def staged15 : State :=
  { cap .armed with time := 60, ce := { (cap .armed).ce with
      nextTick := 60, taken := 15, staging := fifteen } }

/-- A capture in state mode on the rising edge of A0, whose channel levels are all 0. -/
def clocked (e : EngineState) (old : Option Bool) : State :=
  { cap e with ce := { (cap e).ce with
      table := { defaultAcq with mode := .state, width := .narrow, clockEdge := .falling }, clock := old } }

/-- Timing capture; state capture at a qualifying edge; the first examination; an edge that does not qualify.
-/
theorem test_sampler_due :
    Quiet staged15 ∧ staged15.ce.engine = .armed ∧ staged15.ce.heldForce = false ∧
    staged15.ce.nextTick = staged15.time ∧ staged15.ce.staging.length < 16 ∧
    staged15.ce.table.mode = .timing :=
  ⟨quiet_of (by decide) (by decide), by decide, by decide, by decide, by decide, by decide⟩

theorem test_sampler_state_capture :
    Quiet (clocked .preFill (some true)) ∧ (clocked .preFill (some true)).ce.nextTick = s0.time ∧
    (clocked .preFill (some true)).ce.clock = some true ∧
    qualifies .falling true ((sampleLevels (clocked .preFill (some true))).getLsbD 0) = true ∧
    (∀ old, (clocked .triggered none).ce.clock = some old → False) ∧
    (clocked .triggered none).ce.heldForce = false ∧
    (∀ old, (clocked .armed (some false)).ce.clock = some old →
      qualifies .falling old ((sampleLevels (clocked .armed (some false))).getLsbD 0) = false) := by
  refine ⟨quiet_of (by decide) (by decide), by decide, by decide, by decide, nofun, rfl, fun old h => ?_⟩
  cases (Option.some.inj h : false = old)
  decide

/-- A sample stamped 60 enters the staging line, and the next is due a divisor of 4 later (R11, R20). -/
theorem test_sample_is_staged :
    (after (exec .sample staged15) fun t => (t.ce.staging.length, t.ce.nextTick, t.ce.handled)) =
      some (16, 64, 0) := by decide

/-- An open record of value 1. -/
def openOne : OpenRecord :=
  { value := 1, start := 0, triggerPoint := false, continuation := false, loop := false }

/-- A Triggered capture at a time, with an open record of value 1 and some queue. -/
def running1 (now : Time) (queue : Nat) (episode : Option Episode) : State :=
  { cap .triggered with time := now, ce := { (cap .triggered).ce with
      nextTick := now, openRecord := some openOne, episode := episode, handled := 5, endIndex := some 6
      queue := List.replicate queue { value := 0, duration := 4, triggerPoint := false,
                                      continuation := false, gap := false, loop := false } } }

/-- A record extended, closed, and closed at the largest duration that needs no split. -/
theorem test_open_record_states :
    Quiet (running1 4 0 none) ∧ (running1 4 0 none).ce.nextTick = (running1 4 0 none).time ∧
    (running1 4 0 none).ce.openRecord = some openOne ∧ elapsed 4 openOne.start ≤ 16777215 ∧
    (running1 4 0 none).ce.endIndex ≠ some (running1 4 0 none).ce.handled ∧
    openOne.value ≠ sampleLevels (running1 4 0 none) ∧
    Quiet (running1 16777215 0 none) ∧ elapsed 16777215 openOne.start ≤ 16777215 :=
  ⟨quiet_of (by decide) (by decide), by decide, by decide, by decide, by decide, by decide,
    quiet_of (by decide) (by decide), by decide⟩

/-- A change of value at tick 4 closes a record of 4 ticks (R21). -/
theorem test_change_closes_the_record :
    (after (exec .sample (running1 4 0 none)) fun t => t.ce.queue.map fun r => (r.value, r.duration)) =
      some [(1, 4)] := by decide

/-- A record that opens an episode, one that extends it, and one that brings it to the largest duration. -/
theorem test_lost_record_states :
    Quiet (running1 4 510 none) ∧ 510 ≤ (running1 4 510 none).ce.queue.length ∧
    openOne.triggerPoint = false ∧ openOne.value ≠ sampleLevels (running1 4 510 none) ∧
    (running1 4 0 (some { value := 0, lost := 16777210, start := 0 })).ce.episode.isSome ∧
    16777210 + elapsed 4 openOne.start < 16777215 ∧ 16777211 + elapsed 4 openOne.start = 16777215 :=
  ⟨quiet_of (by decide) (by decide), by decide +kernel, by decide, by decide, by decide, by decide, by decide⟩

/-- The last sample but one of a capture makes the end cut. -/
def ending : State := { running1 4 0 none with ce := { (running1 4 0 none).ce with endIndex := some 5 } }

theorem test_end_cut_state :
    Quiet ending ∧ ending.ce.engine = .triggered ∧ ending.ce.heldForce = false ∧
    ending.ce.nextTick = ending.time ∧ ending.ce.table.mode = .timing ∧ ending.ce.openRecord = some openOne ∧
    1 ≤ elapsed ending.time openOne.start ∧ elapsed ending.time openOne.start ≤ 16777215 ∧
    ending.ce.endIndex = some ending.ce.handled ∧ ending.ce.episode = none :=
  ⟨quiet_of (by decide) (by decide), by decide, by decide, by decide, by decide, by decide, by decide,
    by decide, by decide, by decide⟩

/-- A lane's descriptor with a filter of some span. -/
def filter (span : Nat) : LaneEntry := { defaultLaneEntry with deglitch := span }

/-- A lane with two samples that wait; channel 0 rose with the first. -/
def windowed : Lane :=
  { idleLane with
    mode := .running, filtered := some 0, raw := some 0
    window := [{ stamp := 4, levels := 1 }, { stamp := 8, levels := 1 }] }

/-- With span 4 the sample of tick 4 waits, with span 3 it is released; channel 0 changes where it holds
through tick 12, keeps its level where it does not, and changes at once without a filter (R91). -/
theorem test_filter_releases :
    nextReleased (filter 4) 4 { stamp := 12, levels := 1 } windowed = none ∧
    (nextReleased (filter 3) 4 { stamp := 12, levels := 1 } windowed).map (fun r => (r.stamp, r.current)) =
      some (4, 1) ∧
    (nextReleased (filter 3) 4 { stamp := 12, levels := 0 } windowed).map (·.current) = some 0 ∧
    (nextReleased (filter 1) 4 { stamp := 12, levels := 0 } windowed).map (·.current) = some 1 := by decide

/-- A Triggered state capture whose clock channel falls, with the open record of ticks 0 to 9; every sample ends
a record, also one of its own value (R22). -/
def edgeTriggered : State :=
  { running1 9 0 none with ce := { (running1 9 0 none).ce with
      table := { defaultAcq with mode := .state, clockEdge := .falling }, clock := some true } }

theorem test_state_sample_state :
    Quiet edgeTriggered ∧ edgeTriggered.ce.engine = .triggered ∧ edgeTriggered.ce.heldForce = false ∧
    edgeTriggered.ce.nextTick = edgeTriggered.time ∧
    qualifies .falling true ((sampleLevels edgeTriggered).getLsbD edgeTriggered.ce.table.clockChannel) = true ∧
    edgeTriggered.ce.openRecord = some openOne ∧ edgeTriggered.ce.endIndex ≠ some edgeTriggered.ce.handled ∧
    edgeTriggered.ce.episode = none ∧
    (after (exec .sample edgeTriggered) fun t => t.ce.queue.map (·.duration)) = some [9] :=
  ⟨quiet_of (by decide) (by decide), by decide, by decide, by decide, by decide, by decide, by decide, by decide,
    by decide +kernel⟩

/-- A sample 20,000,000 ticks after the start of the open record splits it once (R23). -/
theorem test_split_state :
    (let s := running1 20000000 0 none
     1 * 16777215 < elapsed s.time openOne.start ∧ elapsed s.time openOne.start ≤ (1 + 1) * 16777215 ∧
       s.ce.queue.length + 1 + 1 ≤ 510 ∧
       (after (exec .sample s) fun t => t.ce.queue.map fun r => (r.duration, r.continuation)) =
         some [(16777215, false), (3222785, true)]) := by decide +kernel

/-- A full staging line in PreFill, before the first sample is handled; with F = 1 its handling enters Armed. -/
def fullPreFill (first : Nat) : State :=
  { cap .preFill with
    time := 64
    ce := { (cap .preFill).ce with
      nextTick := 64, taken := 16, preFill := first
      staging := (List.range 16).map fun i => { stamp := BitVec.ofNat 48 (4 * i), levels := 0 } } }

theorem test_prefill_states :
    Quiet (fullPreFill 1) ∧ (fullPreFill 1).ts.run = .off ∧ (fullPreFill 1).ce.heldForce = false ∧
    (fullPreFill 1).ce.nextTick = (fullPreFill 1).time ∧ (fullPreFill 1).ce.segment = some 0 ∧
    (fullPreFill 1).ce.staging.length = 16 ∧ (fullPreFill 1).ce.openRecord = none ∧
    (fullPreFill 1).ce.handled + 1 < (fullPreFill 2).ce.preFill ∧
    (after (exec .sample (fullPreFill 1)) fun t => (t.ce.engine, t.ts.stage, t.ce.staging.length)) =
      some (.armed, some 0, 16) ∧
    (after (exec .sample (fullPreFill 2)) fun t => (t.ce.engine, t.ts.run)) = some (.preFill, .off) :=
  ⟨quiet_of (by decide) (by decide), by decide, by decide, by decide, by decide, by decide, by decide, by decide,
    by decide +kernel, by decide +kernel⟩

/-! ### The Trigger Sequencer -/

/-- What an evaluation presents: channel 0 has risen, with an Address of lane 2 that carries Nack. -/
def shown : Presented :=
  { stamp := 4, next := 8, cleared := 0, atClear := false, levels := 1, previous := some 0
    symbols := [{ lane := 2, kind := .address, value := 0x50, start := 0, duration := 4, tags := 0x20
                  position := 0 }] }

/-- Each kind of term in its two truths (R66 to R70). -/
theorem test_terms :
    (∀ k ∈ [TermKind.pattern 1 0xFF, .edge 0 .rising, .edge 0 .either, .symbol 2 0x08 0x20 0xD7 0xF0 0x50,
        .counterExpired 1], termTrue shown #v[false, true] { negate := false, kind := k } = true) ∧
    (∀ k ∈ [TermKind.never, .pattern 3 2, .edge 0 .falling, .edge 1 .either, .symbol 1 0x08 0 0 0 0,
        .symbol 2 0xF7 0 0 0 0, .symbol 2 0x08 0x21 0 0 0, .symbol 2 0x08 0 0x20 0 0, .counterExpired 0],
      termTrue shown #v[false, true] { negate := false, kind := k } = false) := by decide +kernel

/-- Field 3 joins positions 1 and 2 of lane 0, 8 bits each: of 12h and 34h its bits 4 to 11. -/
def fieldState (invert : Bool) : State :=
  { s0 with
    fieldMap := s0.fieldMap.set 3
      { enable := true, lane := 0, first := 1, span := 2, startBit := 4, width := 8, invert := invert }
    lanes := s0.lanes.set 0 { idleLane with fx := [
      { position := 1, value := 0x12, start := 10, stop := 20, tags := 0x01 },
      { position := 2, value := 0x34, start := 20, stop := 35, tags := 0x22 }] } }

/-- The field is 23h, DCh inverted, over both sources, with their Parity and Framing and no Nack (R120). -/
theorem test_field_symbol :
    (∀ b, (fieldState b).fieldMap[(3 : Fin 32)].enable = true ∧
      wordWidth (fieldState b).laneTable[(0 : Fin 4)].kind = 8 ∧
      sourceAt (fieldState b).lanes[(0 : Fin 4)].fx 1 ≠ none ∧
      sourceAt (fieldState b).lanes[(0 : Fin 4)].fx 2 ≠ none) ∧
    formField (fieldState false) 0 2 3 = some { lane := 0, kind := .field, value := 0x23, start := 10
                                                duration := 25, tags := 0x03, position := 3 } ∧
    (formField (fieldState true) 0 2 3).map (·.value) = some 0xDC := by decide +kernel

/-- A stage whose branches both need two occurrences of term 0, with a Fire and a Stay. -/
def twice : Ts :=
  let b : Branch := { defaultBranch .fire with terms := [0], count := 2 }
  { defaultTs with
    run := .running, stage := some 0
    stages := defaultTs.stages.set 0 { primary := b, secondary := { b with target := .stay } } }

/-- The Primary alone at its count, the Secondary alone, and both below it (R73). -/
theorem test_branch_states :
    advanceCount twice.stages[(0 : Fin 8)].primary
      (conditionHolds twice.stages[(0 : Fin 8)].primary fun _ => true) 1 = 2 ∧
    twice.stages[(0 : Fin 8)].primary.count = 2 ∧
    advanceCount twice.stages[(0 : Fin 8)].primary
      (conditionHolds twice.stages[(0 : Fin 8)].primary fun _ => true) 0 < 2 ∧
    twice.stages[(0 : Fin 8)].secondary.target = .stay := by decide

/-- With both at their counts the Primary fires (R73, R74). -/
theorem test_primary_wins :
    (stepBranches { twice with primary := 1, secondary := 1 } 0 (fun _ => true) 8).2 = some 0 ∧
    (stepBranches { twice with primary := 0, secondary := 1 } 0 (fun _ => true) 8).2 = none := by decide

/-- A stage whose Primary needs one more occurrence of term 0, then starts counter 0 and stops counter 1. -/
def acting : Ts :=
  let b : Branch := { defaultBranch .stay with
    terms := [0], count := 2, action0 := .start, action1 := .stop }
  { twice with
    primary := 1, stages := defaultTs.stages.set 0 { primary := b, secondary := defaultBranch .stay }
    counters := Vector.replicate 2 { running := true, value := 7, expiredEarly := false } }

/-- With term 0 true it is taken, and acts; with term 0 false it keeps its count (R72, R73, R76). -/
theorem test_branch_actions :
    (acting.stages[(0 : Fin 8)].primary.terms ≠ [] ∧ acting.stages[(0 : Fin 8)].primary.any = false ∧
      acting.stages[(0 : Fin 8)].primary.consecutive = false ∧
      acting.stages[(0 : Fin 8)].secondary.terms = []) ∧
    (stepBranches acting 0 (fun _ => true) 8).1.counters.toList.map (fun k => (k.running, k.value)) =
      [(true, acting.counterTable[(0 : Fin 2)].preload), (false, 7)] ∧
    ((stepBranches acting 0 (fun _ => false) 8).1.primary,
      (stepBranches acting 0 (fun _ => false) 8).1.history) = (1, []) := by decide

/-- A capture with a full staging line whose first stage fires on term 0, a negated Never, and whose two
counters count samples from 1. -/
def firing : State :=
  let b : Branch := { defaultBranch .fire with terms := [0] }
  let k : CounterState := { running := true, value := 1, expiredEarly := false }
  { cap .armed with
    time := 64
    ce := { (cap .armed).ce with
      nextTick := 64, taken := 16, handled := 3, openRecord := some openOne, previous := some 1
      staging := (List.range 16).map fun i => { stamp := BitVec.ofNat 48 (4 * i), levels := 0 } }
    ts := { defaultTs with
      run := .running, stage := some 0
      terms := defaultTs.terms.set 0 { negate := true, kind := .never }
      stages := defaultTs.stages.set 0 { primary := b, secondary := defaultBranch .stay }
      counters := Vector.replicate 2 k } }

theorem test_fire_state :
    Quiet firing ∧ firing.ce.engine = .armed ∧ firing.ce.heldForce = false ∧
    firing.ce.nextTick = firing.time ∧ firing.ce.table.mode = .timing ∧ firing.ts.run = .running ∧
    firing.ce.segment = some 0 ∧
    firing.ce.staging = { stamp := 0, levels := 0 } :: { stamp := 4, levels := 0 } ::
      firing.ce.staging.drop 2 ∧ (firing.ce.staging.drop 2).length = 14 ∧
    (evaluate firing.ts (presentedAt firing { stamp := 0, levels := 0 } { stamp := 4, levels := 0 })).2 = some 0 ∧
    firing.ce.openRecord = some openOne ∧ firing.ce.episode = none ∧ firing.ce.queue.length < 510 :=
  ⟨quiet_of (by decide) (by decide), by decide, by decide, by decide, by decide, by decide, by decide,
    by decide, by decide, by decide, by decide, by decide, by decide⟩

/-- The trigger time is the stamp of the evaluated sample, and the cause is the stage (R35). -/
theorem test_fire_sets_the_trigger :
    (after (exec .sample firing) fun t =>
      (t.segments[(0 : Fin 32)].triggerTime, t.segments[(0 : Fin 32)].triggerCause, t.ce.engine)) =
      some (some 0, some (.stage 0), .triggered) := by decide +kernel

/-- The same capture with a first stage that does not fire: the sample is handled and evaluated all the same. -/
theorem test_no_fire_state :
    (let s := { firing with ts := { firing.ts with stages := defaultTs.stages.set 0 {
       primary := defaultBranch .stay, secondary := defaultBranch .stay } } }
     (evaluate s.ts (presentedAt s { stamp := 0, levels := 0 } { stamp := 4, levels := 0 })).2 = none ∧
       (after (exec .sample s) fun t => (t.ce.engine, t.ce.handled, t.ce.taken)) = some (.armed, 4, 17)) := by
  decide +kernel

/-- What the evaluation that is due in it presents. -/
def presented : Presented :=
  { stamp := 0, next := 4, cleared := 0, atClear := false, levels := 0, previous := some 1, symbols := [] }

theorem test_counter_expiry_state :
    sampleDue firing = true ∧ (sampleNow (settle firing)).isSome ∧ dueEvaluation firing = some presented ∧
    firing.ts.counters[(1 : Fin 2)].running = true ∧ firing.ts.counters[(1 : Fin 2)].expiredEarly = false ∧
    1 ≤ sourceEvents firing.ts presented firing.ts.counterTable[(1 : Fin 2)].source ∧
    firing.ts.counters[(1 : Fin 2)].value ≤
      sourceEvents firing.ts presented firing.ts.counterTable[(1 : Fin 2)].source := by decide +kernel

/-- A counter at 1 that counts samples stops at 0 (R78). -/
theorem test_counter_stops :
    (after (exec (.counterExpiry 1) firing) fun t =>
      (t.ts.counters[(1 : Fin 2)].running, t.ts.counters[(1 : Fin 2)].value)) = some (false, 0) := by decide

/-- Channel 0 rises in the sample; of its ticks 4 to 7 two have a prescaler that is a multiple of 2, and of the
ticks 0 to 3 that begin with the clearing only tick 2 does (R8, R77). -/
theorem test_source_events :
    sourceEvents defaultTs shown (.edge 0 .rising) = 1 ∧ sourceEvents defaultTs shown (.edge 0 .falling) = 0 ∧
    sourceEvents defaultTs shown (.ticks 1) = 2 ∧
    sourceEvents defaultTs { shown with stamp := 0, next := 4, cleared := 0, atClear := true } (.ticks 1) =
      1 := by decide

/-- A Running counter below its events, at them, and one that is stopped (R77, R78). -/
theorem test_counts :
    (let at' (running : Bool) (value : Nat) : Ts := { defaultTs with
       counters := Vector.replicate 2 { running := running, value := value, expiredEarly := false } }
     (countOf (at' true 3) shown 0).1.value = 2 ∧ (countOf (at' true 1) shown 0).2 = true ∧
       (countOf (at' false 1) shown 0).2 = false) := by decide

/-! ### The Decode Lanes -/

/-- An Armed capture in which lane 0 runs, in some decoder state, with a sample due at a time. -/
def laneAt (kind : LaneKind) (d : Decoder) (now : Time) : State :=
  { cap .armed with
    time := now, ce := { (cap .armed).ce with nextTick := now }
    laneTable := s0.laneTable.set 0 { defaultLaneEntry with enable := true, kind := kind }
    lanes := s0.lanes.set 0 { idleLane with mode := .running, filtered := some 1, decoder := d } }

/-- An open Async frame in Hunting whose latest event is at tick 100, at 4 ticks a bit: the deadline of 10
bit periods is tick 140. -/
def gapping (now : Time) : State :=
  laneAt (.async { defaultAsync with bq := 1024 })
    { freshDecoder with frame := { openFrame with latest := some 100 } } now

/-- The sample that lane 0 is about to process. -/
def nextOf (now : Time) : LaneSample := { stamp := now, period := 4, previous := some 1, current := 0 }

theorem test_gap_deadline_state :
    Quiet (gapping 140) ∧ dueLaneSample 0 (gapping 140) = some (nextOf 140) ∧
    gapStopTime (gapping 140).laneTable[(0 : Fin 4)] (nextOf 140)
      (gapping 140).lanes[(0 : Fin 4)].decoder = some 140 ∧
    (∀ p, (gapping 140).laneTable[(0 : Fin 4)].kind ≠ .clocked p) ∧
    (gapping 140).lanes[(0 : Fin 4)].fifo.length < 32 :=
  ⟨quiet_of (by decide) (by decide), by decide, by decide, fun _ => nofun, by decide⟩

/-- The sample of 136 covers the ticks up to 139 and brings no Stop; that of 140 brings one at 140 (R93). -/
theorem test_gap_deadline_at_its_tick :
    (after (exec (.gapDeadline 0) (gapping 136)) fun t => t.lanes[(0 : Fin 4)].fifo.length) = some 0 ∧
    (after (exec (.gapDeadline 0) (gapping 140)) fun t =>
      t.lanes[(0 : Fin 4)].fifo.map fun y => (y.kind, y.start)) = some [(.stop, 140)] := by decide +kernel

/-- The same lane with a full FIFO: the Stop is lost (R116). -/
def gapLost : State :=
  let s := gapping 140
  { s with lanes := s.lanes.set 0 { s.lanes[(0 : Fin 4)] with
      fifo := List.replicate 32 { lane := 0, kind := .data, value := 0, start := 0, duration := 0, tags := 0
                                  position := 1 } } }

theorem test_gap_deadline_full_fifo :
    dueLaneSample 0 gapLost = some (nextOf 140) ∧ 32 ≤ gapLost.lanes[(0 : Fin 4)].fifo.length ∧
    gapLost.lanes[(0 : Fin 4)].counters.lost = 0 ∧ gapLost.ce.segment = some 0 ∧
    (after (exec (.gapDeadline 0) gapLost) fun t => (t.lanes[(0 : Fin 4)].pendingLost,
      t.segments[(0 : Fin 32)].symbolLost, t.lp.notices[(4 : Fin 10)].pending)) = some (true, 1, true) := by
  decide +kernel

/-- A decoder in an open frame. -/
def openDecoder : Decoder := { freshDecoder with frame := openFrame }

/-- A sample with some levels after one with others. -/
def edge (before now : Word) : LaneSample :=
  { stamp := 136, period := 4, previous := some before, current := now }

/-- The cells of a character from tick 100 at 4 ticks a bit, all but its stop bit: a start bit and 0x55. The
instant of the stop bit is 100 + floor(19 × 1024 / 512) = 138 (R94, R95). -/
def cells55 : List Bool := [false, true, false, true, false, true, false, true, false]

/-- An Async lane of 4 ticks a bit. -/
def async4 : LaneEntry := { defaultLaneEntry with kind := .async { defaultAsync with bq := 1024 } }

/-- The stop bit ends a character; without a 1 in all its cells it is a Break (R95 to R97). -/
theorem test_async_symbols :
    inPeriod (edge 1 1) (100 + BitVec.ofNat 48 ((2 * 9 + 1) * 1024 / 512)) = true ∧
    (kindStep async4 (edge 0 1) { openDecoder with async := .receiving 100 cells55 }).symbols =
      [{ kind := .data, value := 0x55, start := 100, stop := 138, tags := 0 }] ∧
    (kindStep async4 (edge 1 0) { openDecoder with async := .receiving 100 cells55 }).symbols =
      [{ kind := .data, value := 0x55, start := 100, stop := 138, tags := 2 }] ∧
    (kindStep async4 (edge 0 0) { openDecoder with
      async := .receiving 100 (List.replicate 9 false) }).symbols =
      [{ kind := .brk, value := 0, start := 100, stop := 138, tags := 0 }] := by decide +kernel

/-- A Clocked lane on channels 0 and 1 with words of 4 bits, most significant bit first. -/
def clocked4 : LaneEntry :=
  { defaultLaneEntry with
    kind := .clocked { clock := 0, dataA := 1, dataB := none, select := none, fallingEdge := false
                       selectHigh := false, wordSize := 4, msbFirst := true } }

/-- A rising clock takes bit 4 of a word, and before it bit 3 (R98, R99). -/
theorem test_clocked_symbols :
    (kindStep clocked4 (edge 0 3) { openDecoder with
      clocked := { bits := 3, a := 5, b := 0, first := 100, last := 132 } }).symbols =
      [{ kind := .data, value := 11, start := 100, stop := 136, tags := 0 }] ∧
    (kindStep clocked4 (edge 0 3) { openDecoder with
      clocked := { bits := 2, a := 2, b := 0, first := 100, last := 132 } }).decoder.clocked =
      { bits := 3, a := 5, b := 0, first := 100, last := 136 } := by decide +kernel

/-- A TwoWire lane, its clock on channel 0 and its data on channel 1. -/
def wire : LaneEntry := { defaultLaneEntry with kind := .twoWire { clock := 0, data := 1, stretch := 9 } }

/-- A TwoWire byte of 8 bits from tick 100, waiting for its acknowledge bit. -/
def wireByte (expect : TwoWireExpect) (value : Nat) : Decoder :=
  { openDecoder with
    twoWire := { idleTwoWire with expect := expect, bits := 8, value := value, first := 100, last := 132 } }

/-- A kept first byte of a ten-bit address, F5h from tick 60 to 96 (R104). -/
def kept : KeptAddress := { start := 60, upper := 2, read := true, nack := false, stop := 96 }

/-- An acknowledged address A1h, a data byte not acknowledged, and a ten-bit address (R103, R104). -/
theorem test_two_wire_symbols :
    (kindStep wire (edge 0 1) (wireByte .address 0xA1)).symbols =
      [{ kind := .address, value := 0x50, start := 100, stop := 136, tags := 0x80 }] ∧
    (kindStep wire (edge 0 3) (wireByte .data 0xA1)).symbols =
      [{ kind := .data, value := 0xA1, start := 100, stop := 136, tags := 0x20 }] ∧
    (kindStep wire (edge 0 1) (wireByte .address 0xF5)).symbols = [] ∧ 0xF5 / 8 = 30 ∧
    (kindStep wire (edge 0 1) (wireByte (.second kept) 0x34)).symbols =
      [{ kind := .address, value := 0x234, start := 60, stop := 136, tags := 0xC0 }] := by decide +kernel

/-- A second byte cut short after 3 bits starts at its own bit 1, at tick 100 (R103, R105). -/
theorem test_short_second_byte :
    (stopCondition (edge 1 3) { openDecoder with
      twoWire := { idleTwoWire with expect := .second kept, bits := 3, value := 5, first := 100
                                    last := 132 } }).2.map (fun y => (y.value, y.start, y.stop, y.tags)) =
      [(21, 100, 132, 0x44), (0, 136, 136, 0)] := by decide +kernel

/-- A Strobed lane: data strobe on channel 0, address strobe on 1, direction on 2, wait on 3, 4 data bits from
channel 4 on. -/
def strobed4 : LaneEntry :=
  { defaultLaneEntry with
    kind := .strobed { base := 4, width := 4, dataStrobe := 0, addressStrobe := some 1, direction := some 2
                       wait := some 3, limit := 2 } }

/-- A cycle of the data strobe from tick 128. -/
def cycling (samples : Nat) (seen : Bool) : Decoder :=
  { openDecoder with
    strobed := { data := some { start := 128, samples := samples, seen := seen }, address := none } }

/-- Its release emits the data lines, with Timeout where wait was not seen within the limit (R107, R108). -/
theorem test_strobed_symbols :
    (kindStep strobed4 (edge 0xFE 0xAF) (cycling 2 true)).symbols =
      [{ kind := .data, value := 0xA, start := 128, stop := 136, tags := 0x80 }] ∧
    (kindStep strobed4 (edge 0xFE 0xA3) (cycling 2 false)).symbols =
      [{ kind := .data, value := 0xA, start := 128, stop := 136, tags := 0x10 }] ∧ 2 < 2 + 1 := by
  decide +kernel

/-- Two strobes released in one sample are two releases 0 ticks apart (R93). -/
theorem test_both_strobes_released :
    (kindStep strobed4 (edge 0xFC 0xFF) (cycling 1 true)).decoder.frame.interval = some 0 ∧
    (kindStep strobed4 (edge 0xFE 0xFF) (cycling 1 true)).decoder.frame.interval = none := by decide +kernel

/-- An open frame with its latest event at tick 100, 8 ticks after the one before it. -/
def eventful (passed : Bool) : Decoder :=
  { freshDecoder with frame := { openFrame with latest := some 100, interval := some 8, passed := passed } }

/-- The sample of a tick, after one with some levels. -/
def sampleAt (now : Time) (before : Word) : LaneSample :=
  { stamp := now, period := 4, previous := some before, current := 0xFF }

/-- After 10 intervals of 8 ticks, or 10 bits of 4, the deadline is 180, or 140; a sample whose period ends
there does not pass it; a strobe that is low holds it off, and one that outlasted it ends it at the release
(R93, R109). -/
theorem test_gap_deadlines :
    gapStopTime clocked4 (sampleAt 180 0xFF) (eventful false) = some 180 ∧
    gapStopTime clocked4 (sampleAt 176 0xFF) (eventful false) = none ∧
    gapStopTime strobed4 (sampleAt 180 0xFF) (eventful false) = some 180 ∧
    gapStopTime async4 (sampleAt 140 0xFF) (eventful false) = some 140 ∧ (eventful false).async = .hunting ∧
    gapStopTime strobed4 (sampleAt 180 0xFE) (eventful false) = none ∧
    gapStopTime strobed4 (sampleAt 180 0xFF) (eventful true) = some 180 ∧
    gapStopTime wire (sampleAt 180 0xFF) (eventful false) = none := by decide

/-- A taken edge, a release and the end of a character are the latest event. -/
theorem test_gap_events :
    ((kindStep clocked4 (edge 0 3) (eventful false)).decoder.frame.latest,
      (kindStep clocked4 (edge 0 3) (eventful false)).decoder.frame.interval) = (some 136, some 36) ∧
    ((kindStep strobed4 (edge 0xFE 0xFF) (eventful false)).decoder.frame.latest,
      (kindStep strobed4 (edge 0xFE 0xFF) (eventful false)).decoder.frame.interval) = (some 136, some 36) ∧
    (kindStep async4 (edge 0 1) { openDecoder with async := .receiving 100 cells55 }).decoder.frame.latest =
      some 138 := by decide +kernel

/-- A capture at tick 136 whose lane 0 takes the last bit of a word of 1s: the pods are absent and the levels
0, so the clock on channel 0 falls. -/
def wording (e : EngineState) : State :=
  let kind : LaneKind := .clocked { clock := 0, dataA := 1, dataB := none, select := some 2, fallingEdge := true
                                    selectHigh := false, wordSize := 4, msbFirst := true }
  let word : ClockedWord := { bits := 3, a := 7, b := 0, first := 100, last := 132 }
  let s := laneAt kind { openDecoder with clocked := word } 136
  { s with ce := { s.ce with engine := e } }

/-- The lane decodes the sample of this tick, and its symbol enters the FIFO (R90, R92, R98). -/
theorem test_lanes_decode_states :
    (wording .armed).lanes[(0 : Fin 4)].mode ≠ .idle ∧
    nextReleased (wording .armed).laneTable[(0 : Fin 4)] 4 { stamp := 136, levels := 0 }
      (wording .armed).lanes[(0 : Fin 4)] = some (nextOf 136) ∧
    gapStopTime (wording .armed).laneTable[(0 : Fin 4)] (nextOf 136)
      (wording .armed).lanes[(0 : Fin 4)].decoder = none ∧
    (kindStep (wording .armed).laneTable[(0 : Fin 4)] (nextOf 136)
      (wording .armed).lanes[(0 : Fin 4)].decoder).symbols =
      [{ kind := .data, value := 14, start := 100, stop := 136, tags := 0 }] ∧
    (after (exec .sample (wording .armed)) fun t => t.lanes[(0 : Fin 4)].fifo.map fun y =>
      (y.value, y.start, y.duration)) = some [(14, 100, 36)] := by decide +kernel

/-- With a filter of span 3 the sample joins those that wait; one taken out of channel 1 counts as a glitch
(R91). -/
theorem test_lanes_filter_states :
    (let s (window : List Sample) : State := { wording .armed with
       laneTable := (wording .armed).laneTable.set 0 { (wording .armed).laneTable[(0 : Fin 4)] with deglitch := 3 }
       lanes := (wording .armed).lanes.set 0 { (wording .armed).lanes[(0 : Fin 4)] with
         window := window, raw := some 0, filtered := some 0 } }
     nextReleased (s []).laneTable[(0 : Fin 4)] 4 { stamp := 136, levels := 0 } (s []).lanes[(0 : Fin 4)] =
       none ∧
     (after (exec .sample (s [])) fun t => t.lanes[(0 : Fin 4)].window.map (·.stamp)) = some [136] ∧
     (after (exec .sample (s [{ stamp := 128, levels := 2 }, { stamp := 132, levels := 0 }])) fun t =>
       (t.lanes[(0 : Fin 4)].window.map (·.stamp), t.lanes[(0 : Fin 4)].raw, t.lanes[(0 : Fin 4)].filtered,
         t.lanes[(0 : Fin 4)].counters.glitches)) = some ([132, 136], some 2, some 0, 1)) := by decide +kernel

/-- An open TwoWire frame, its clock on channel 0 low in some samples, with a stretch limit of 3. -/
def stretching (low : Nat) : State :=
  laneAt (.twoWire { clock := 0, data := 1, stretch := 3 })
    { freshDecoder with frame := openFrame, twoWire := { idleTwoWire with low := low } } 0

theorem test_stretch_state :
    Quiet (stretching 3) ∧ dueLaneSample 0 (stretching 3) = some (nextOf 0) ∧
    (stretching 3).laneTable[(0 : Fin 4)].kind = .twoWire { clock := 0, data := 1, stretch := 3 } ∧
    (stretching 3).lanes[(0 : Fin 4)].decoder.frame.isOpen = true ∧
    (nextOf 0).current.getLsbD 0 = false ∧
    3 < (stretching 3).lanes[(0 : Fin 4)].decoder.twoWire.low + 1 ∧
    (stretching 3).lanes[(0 : Fin 4)].decoder.twoWire.marked = false :=
  ⟨quiet_of (by decide) (by decide), by decide, by decide, by decide, by decide, by decide, by decide⟩

/-- The third low sample in a row is within the limit, the fourth is not (R106). -/
theorem test_stretch_limit :
    (after (exec (.stretchTimeout 0) (stretching 2)) fun t =>
      t.lanes[(0 : Fin 4)].decoder.twoWire.timeout) = some false ∧
    (after (exec (.stretchTimeout 0) (stretching 3)) fun t =>
      t.lanes[(0 : Fin 4)].decoder.twoWire.timeout) = some true := by decide +kernel

/-! ### The ring, the symbol span and the close -/

/-- A record of a duration. -/
def rec (duration : Nat) (trigger : Bool) : Record :=
  { value := 0xA1B2C3D4, duration := duration, triggerPoint := trigger, continuation := false, gap := false
    loop := false }

/-- A capture with one record in its queue, its ring and its episode as given. -/
def drains (count : Nat) (newest : Option Nat) (trigger : Option Nat) (episode : Option Episode) : State :=
  { cap .triggered with
    ce := { (cap .triggered).ce with queue := [rec 4 false], episode := episode }
    segments := planned.segments.set 0 { filling with
      oldest := newest.map fun _ => 0, newest := newest, recordCount := count, triggerPosition := trigger } }

/-- A first record, a full ring with its newest record at the last position, and an episode. -/
theorem test_drain_states :
    nextGrant (drains 0 none none none) = some .drain ∧ (drains 0 none none none).ce.segment = some 0 ∧
    (drains 0 none none none).ce.queue = [rec 4 false] ∧
    (drains 0 none none none).segments[(0 : Fin 32)].triggerPosition ≠ some 0 ∧
    (0 * 65536 + 0 * 8) + 8 ≤ totalBlocks (drains 0 none none none).mp.size * 65536 ∧
    memWf (drains 0 none none none).dram = true ∧ (drains 0 none none none).ce.engine ≠ .closing ∧
    nextGrant (drains 8192 (some 8191) none none) = some .drain ∧ (8191 + 1) % (1 * 8192) = 0 ∧
    (drains 8192 (some 8191) none none).plan[(0 : Fin 32)].captureCount * 8192 ≤
      (drains 8192 (some 8191) none none).segments[(0 : Fin 32)].recordCount := by decide

/-- The next position holds the trigger record. -/
theorem test_memory_limit_state :
    nextGrant (drains 8192 (some 8191) (some 0) none) = some .drain ∧
    (drains 8192 (some 8191) (some 0) none).segments[(0 : Fin 32)].triggerPosition = some 0 ∧
    (after (exec .writeQueueDrain (drains 8192 (some 8191) (some 0) none)) fun t =>
      (t.ce.engine, t.ce.reason, t.ce.queue.length)) = some (.closing, some .memoryLimit, 0) := by decide

/-- A drain in Closing, with one record in the queue and another that waits. -/
def drainsClosing : State :=
  let s := drains 1 (some 0) none none
  { s with
    ce := { s.ce with engine := .closing, toPush := [rec 9 false] }
    segments := s.segments.set 0 { s.segments[(0 : Fin 32)] with endTime := some 100 } }

/-- In Closing the record that waits moves up, and the end time goes on by the duration written (R28, R40). -/
theorem test_drain_in_closing :
    nextGrant drainsClosing = some .drain ∧ drainsClosing.ce.engine = .closing ∧
    drainsClosing.segments[(0 : Fin 32)].endTime = some 100 ∧
    (∀ q ∈ drainsClosing.ce.toPush, q.triggerPoint = false) ∧
    (after (exec .writeQueueDrain drainsClosing) fun t =>
      (t.ce.queue, t.ce.toPush, t.segments[(0 : Fin 32)].endTime)) = some ([rec 9 false], [], some 104) := by
  decide +kernel

/-- A full ring whose oldest record is a gap record gives up one gap (R28); an open episode's gap record takes
the freed slot (R26). -/
theorem test_drain_gaps :
    (let s := drains 8192 (some 8191) none (some { value := 3, lost := 7, start := 0 })
     let u := { s with
       dram := memWriteBytes [] 0 (recordBytes { rec 5 false with gap := true })
       segments := s.segments.set 0 { s.segments[(0 : Fin 32)] with gapCount := 2 } }
     u.ce.episode = some { value := 3, lost := 7, start := 0 } ∧ u.ce.engine ≠ .closing ∧
     (after (exec .writeQueueDrain u) fun t => (t.segments[(0 : Fin 32)].gapCount, t.ce.episode,
       t.ce.queue.map fun r => (r.gap, r.duration))) = some (1, none, [(true, 7)])) := by decide +kernel

/-- A record is stored least significant byte first, its duration in three bytes (R52, R185). -/
theorem test_drain_writes_bytes :
    (after (exec .writeQueueDrain (drains 0 none none none)) fun t => memReadBytes t.dram 0 8) =
      some [0xD4, 0xC3, 0xB2, 0xA1, 4, 0, 0, 0] := by decide

/-- A Data symbol of lane 1 that ends at tick 12. -/
def data1 : Symbol :=
  { lane := 1, kind := .data, value := 0x55, start := 8, duration := 4, tags := 0, position := 2 }

/-- A closing capture with a symbol in lane 1's FIFO and a span with some symbols. -/
def merges (count : Nat) (trigger : Option Time) : State :=
  { cap .closing with
    lanes := s0.lanes.set 1 { idleLane with fifo := [data1] }
    segments := planned.segments.set 0 { filling with
      symbolFirst := some 0, symbolCount := count, triggerTime := trigger } }

/-- A redecode whose FIFO still holds a symbol, for a full span. -/
def remerges : State :=
  { redecoding 0 with
    lanes := s0.lanes.set 1 { idleLane with fifo := [data1] }
    segments := planned.segments.set 0 { closedSegment0 with symbolCount := 4096 } }

/-- A span with room, a full one before and after the trigger cut, and a full one of a redecode. -/
theorem test_symbol_write_states :
    nextGrant (merges 4095 none) = some .mergeWrite ∧ mergeSegment (merges 4095 none) = some 0 ∧
    nextSymbol (merges 4095 none) = some (1, data1) ∧
    (merges 4095 none).lanes[(1 : Fin 4)].fifo = data1 :: [] ∧
    (896 * 65536 + 4095 * 16) + 16 ≤ totalBlocks (merges 4095 none).mp.size * 65536 ∧
    memWf (merges 4095 none).dram = true ∧ (0 + 4095) % (1 * 4096) = 4095 ∧
    nextGrant (merges 4096 none) = some .mergeWrite ∧ (merges 4096 none).redecode = none ∧
    (merges 4096 none).segments[(0 : Fin 32)].triggerTime = none ∧
    nextGrant (merges 4096 (some 8)) = some .mergeWrite ∧
    (merges 4096 (some 8)).segments[(0 : Fin 32)].triggerTime.isSome ∧
    nextGrant remerges = some .redecodeWrite ∧ mergeSegment remerges = some 0 ∧
    remerges.redecode.isSome := by decide

/-- Two heads that end at tick 12, on lanes 1 and 2, seventeen stamps, and nothing held back: the lower lane
goes first, and with the horizon at tick 11 none does (R121, R122). -/
def horizonAt (now : Time) : State :=
  { cap .armed with
    lanes := (s0.lanes.set 1 { idleLane with fifo := [data1] }).set 2 { idleLane with
      fifo := [{ data1 with lane := 2 }] }
    sm := { stamps := List.replicate 17 now } }

theorem test_heads_are_eligible :
    EligibleHead (horizonAt 12) 1 data1 ∧ EligibleHead (merges 1 none) 1 data1 ∧
    (∀ l y, EligibleHead (horizonAt 12) l y → 0 ≤ timeDiff (symbolEnd y) 0) ∧
    nextSymbol (horizonAt 12) = some (1, data1) ∧ nextSymbol (horizonAt 11) = none := by
  refine ⟨⟨by decide, .inr (.inr ⟨12, by decide, by decide, fun k b h => ?_⟩)⟩, ⟨by decide, .inl (by decide)⟩, ?_,
    by decide, by decide⟩
  · have kind : ∀ k : Fin 4, (horizonAt 12).laneTable[k].kind = .async defaultAsync := by decide
    have hunting : ∀ k : Fin 4, (horizonAt 12).lanes[k].decoder.async = .hunting := by decide
    rcases h with ⟨_, _, _, -, h, -⟩ | ⟨_, h, -⟩ | ⟨_, h, -⟩ | ⟨_, _, h, -⟩
    · cases (hunting k).symm.trans h
    all_goals cases (kind k).symm.trans h
  · intro l y h
    have all : ∀ l : Fin 4, ∀ y ∈ (horizonAt 12).lanes[l].fifo, 0 ≤ timeDiff (symbolEnd y) 0 := by decide
    exact all l y (List.mem_of_mem_head? h.1)

/-- A duration is a signed difference that saturates: one around the wrap of the Time Base, one that is too
long, and one that is negative (R7, R114). -/
theorem test_durations :
    carriedDuration 281474976710650 4 = 10 ∧ carriedDuration 0 16777216 = 16777215 ∧
    carriedDuration 12 8 = 0 := by decide

/-- A full span before the trigger gives up its oldest symbol; after it, it refuses the new one (R123). -/
theorem test_full_span :
    (after (exec .symbolWrite (merges 4096 none)) fun t =>
      (t.segments[(0 : Fin 32)].symbolFirst, t.segments[(0 : Fin 32)].symbolLost)) = some (some 1, 0) ∧
    (after (exec .symbolWrite (merges 4096 (some 8))) fun t =>
      (t.segments[(0 : Fin 32)].symbolFirst, t.segments[(0 : Fin 32)].symbolLost)) = some (some 0, 1) := by
  decide

/-- A closing segment from tick 20 to an end, with one or two symbols that end at tick 12 and start at 8. -/
def trims (start stop : Time) (count : Nat) : State :=
  { cap .closing with
    ce := { (cap .closing).ce with endTime := some stop, reason := some .stopped }
    dram := memWriteBytes (memWriteBytes [] (896 * 65536) (symbolBytes data1)) (896 * 65536 + 16)
      (symbolBytes data1)
    segments := planned.segments.set 0 { filling with
      startTime := some start, symbolFirst := some 0, symbolCount := count } }

/-- A trim of the oldest, of the newest, and of the last symbol. -/
theorem test_trim_states :
    nextGrant (trims 13 20 2) = some .mergeTrim ∧ nextGrant (trims 0 11 2) = some .mergeTrim ∧
    nextGrant (trims 0 11 1) = some .mergeTrim ∧ (trims 13 20 2).redecode = none ∧
    (trims 13 20 2).ce.segment = some 0 ∧ (trims 13 20 2).ce.engine = .closing ∧
    (trims 13 20 2).ce.queue = [] ∧ (trims 13 20 2).ce.toPush = [] ∧
    (∀ l : Fin 4, (trims 13 20 2).lanes[l].fifo = []) ∧
    (trims 13 20 2).segments[(0 : Fin 32)].startTime = some 13 ∧ (trims 13 20 2).ce.endTime = some 20 ∧
    (trims 13 20 2).segments[(0 : Fin 32)].symbolFirst = some 0 ∧
    1 ≤ (trims 0 11 1).segments[(0 : Fin 32)].symbolCount := by decide +kernel

/-- The two symbols end at tick 12: before a start of 13, and after an end of 11 (R124); an Idle engine has no
trim step to make. -/
theorem test_trim_takes_either_end :
    (let y := symbolOf (memReadBytes (trims 0 11 2).dram (896 * 65536 + (0 + 2 - 1) % (1 * 4096) * 16) 16)
     y.start + BitVec.ofNat 48 y.duration = 12) ∧
    timeDiff 12 13 < 0 ∧ 0 ≤ timeDiff 12 0 ∧ timeDiff 11 12 < 0 ∧ trimDue (trims 13 20 2) = true ∧
    trimDue (trims 0 11 2) = true ∧ nextGrant s0 = none ∧
    (after (exec .symbolTrim (trims 13 20 2)) fun t =>
      (t.segments[(0 : Fin 32)].symbolFirst, t.segments[(0 : Fin 32)].symbolCount)) = some (some 1, 1) ∧
    (after (exec .symbolTrim (trims 0 11 2)) fun t =>
      (t.segments[(0 : Fin 32)].symbolFirst, t.segments[(0 : Fin 32)].symbolCount)) = some (some 0, 1) := by
  decide +kernel

/-- A symbol that ends at the segment's start or at its end stays (R124). -/
theorem test_trim_keeps_the_edges : trimDue (trims 12 12 2) = false := by decide +kernel

/-- A redecode whose span holds a symbol that ends before its segment begins, and after it ends. -/
def retrims (start stop : Time) : State :=
  { redecoding 0 with
    dram := (trims start stop 2).dram
    segments := planned.segments.set 0 { closedSegment0 with
      startTime := some start, endTime := some stop, symbolCount := 2 } }

/-- Its trim steps are the redecode's, not those of a close (R59, R122). -/
theorem test_redecode_trim_states :
    nextGrant (retrims 13 20) = some .redecodeTrim ∧ nextGrant (retrims 0 11) = some .redecodeTrim ∧
    (retrims 13 20).redecode = some (replaying 0) ∧ (replaying 0).left = 0 ∧
    (retrims 13 20).segments[(0 : Fin 32)].endTime = some 20 ∧
    (∀ l : Fin 4, (retrims 13 20).lanes[l].fifo = []) ∧
    (after (exec .symbolTrim (retrims 13 20)) fun t => t.segments[(0 : Fin 32)].symbolFirst) =
      some (some 1) := by decide +kernel

/-- A link reset of a capture whose span holds symbols that end before it, with a symbol in a FIFO. -/
def resetting : State :=
  { trims 13 20 2 with lp.resetDue := true, lanes := s0.lanes.set 1 { idleLane with fifo := [data1] } }

/-- Its span is trimmed, the symbol of the FIFO is lost, and the other segments and the render engine are as
they were (R42, R117, R124). -/
theorem test_link_reset_trims :
    resetting.segments[(0 : Fin 32)].symbolFirst = some 0 ∧
    0 < resetting.plan[(0 : Fin 32)].symbolCount * 4096 ∧ 1 ≤ resetting.segments[(0 : Fin 32)].symbolCount ∧
    resetting.redecode = none ∧ resetting.ce.segment ≠ some 31 ∧ resetting.re.draw = none ∧
    (redecoding 3).ce.segment ≠ some 0 ∧
    (after (exec .linkReset resetting) fun t => (t.segments[(0 : Fin 32)].symbolCount,
      t.segments[(0 : Fin 32)].symbolLost, t.segments[(0 : Fin 32)].symbolStatus)) =
      some (0, 1, some .truncated) := by decide +kernel

/-- A segment that can close, of a sequence of some count of which some are done. -/
def closes (sequence done : Nat) (stopped : Bool) : State :=
  { trims 12 12 2 with ce := { (trims 12 12 2).ce with
      sequence := sequence, done := done, stopTaken := stopped } }

/-- The five ends of a close: single, Complete, Stopped, NoSegment, and the next segment. -/
theorem test_close_states :
    (closes 1 0 false).ce.engine = .closing ∧ (closes 1 0 false).ce.queue = [] ∧
    (closes 1 0 false).ce.toPush = [] ∧ (∀ l : Fin 4, (closes 1 0 false).lanes[l].fifo = []) ∧
    trimDue (closes 1 0 false) = false ∧ (closes 1 0 false).ce.segment = some 0 ∧
    (closes 1 0 false).ce.reason = some .stopped ∧ trimDue (closes 2 1 false) = false ∧
    (closes 3 1 true).ce.stopTaken = true ∧ (closes 3 1 true).ce.done + 1 ≠ 3 ∧
    (closes 3 1 false).plan[(31 : Fin 32)].planned = true ∧
    (closes 3 1 false).ce.table.retainFloor ≤ 31 ∧
    (closes 3 1 false).segments[(31 : Fin 32)].holdCount = 0 ∧
    (∀ j : Fin 32, 0 < j → j < 31 → (closes 3 1 false).plan[j].planned = false) := by decide +kernel

/-- With no other segment planned a sequence ends NoSegment. -/
theorem test_close_no_segment :
    (∀ m : Fin 32, m ≠ 0 → ({ closes 3 1 false with plan := planned.plan.set 31 unplanned }).plan[m].planned =
      false) := by decide +kernel

/-- The sequence goes on in segment 31, the only other one planned (R41). -/
theorem test_sequence_goes_on :
    (after (exec .closeComplete (closes 3 1 false)) fun t =>
      (t.ce.segment, t.ce.done, t.segments[(0 : Fin 32)].state)) = some (some 31, 2, .closed) := by
  decide +kernel

/-- With F = 0 the next segment is Armed at once, its sequencer runs, its lanes are fresh, and CaptureClosed is
the one notice raised (R33, R34, R40, R80). -/
theorem test_next_segment_is_fresh :
    (after (exec .closeComplete (closes 3 1 false)) fun t =>
      (t.ce.engine, t.ts.run, t.ts.stage, t.lp.notices.toList.map (·.pending))) =
      some (.armed, .running, some 0,
        [false, false, true, false, false, false, false, false, false, false]) := by
  decide +kernel

/-- The close of segment 31, above which none is planned: the sequence goes on in segment 0 (R41). -/
def closesLast : State :=
  { closes 3 1 false with
    ce := { (closes 3 1 false).ce with segment := some 31 }, segments := planned.segments.set 31 filling }

theorem test_sequence_wraps :
    (closesLast.ce.engine = .closing ∧ closesLast.ce.queue = [] ∧ closesLast.ce.toPush = [] ∧
      trimDue closesLast = false ∧ closesLast.plan[(0 : Fin 32)].planned = true ∧
      closesLast.ce.table.retainFloor ≤ 0 ∧ closesLast.segments[(0 : Fin 32)].holdCount = 0 ∧
      ∀ j : Fin 32, ¬31 < j) ∧
    (after (exec .closeComplete closesLast) fun t => (t.ce.segment, t.ce.done)) = some (some 0, 2) := by
  decide +kernel

/-! ### The commands of the Capture Engine and the redecode -/

/-- Segment 0 planned and free, with lane 0 On in a given kind, under an acquisition table. -/
def arming (a : AcqEntry) (k : LaneKind) : State :=
  { planned with
    ce.table := a, laneTable := s0.laneTable.set 0 { defaultLaneEntry with enable := true, kind := k } }

/-- ARM can be dispatched, and passes and fails each check in some state. -/
theorem test_arm_states :
    Ready (cell 3 [0]) [] (with1 (cell 3 [0]) planned) ∧ planned.pru.power ≠ .sleep ∧
    Ready (cell 3 [32]) [] (with1 (cell 3 [32]) planned) ∧ 31 < (32 : Byte).toNat ∧
    (cap .closing).ce.engine ≠ .idle ∧ planned.ce.engine = .idle ∧ planned.redecode = none ∧
    planned.plan[(30 : Fin 32)].planned = false ∧ (31 : Byte).toNat = (31 : Fin 32).val ∧
    planned.plan[(31 : Fin 32)].planned = true ∧ planned.ce.table.retainFloor ≤ 0 ∧
    planned.segments[(0 : Fin 32)].holdCount = 0 ∧ reading.segments[(0 : Fin 32)].holdCount ≠ 0 :=
  ⟨ready_with1 (by decide) (by decide), by decide, ready_with1 (by decide) (by decide), by decide, by decide,
    by decide, by decide, by decide, by decide, by decide, by decide, by decide, by decide⟩

/-- A lane too fast for the sampler: four sample periods of 4 ticks are 16 ticks, 4096 in Q8 (R89). -/
theorem test_arm_lane_rate :
    laneTooFast (arming defaultAcq (.async { defaultAsync with bq := 4095 })) 0 ∧
    ¬laneTooFast (arming defaultAcq (.async { defaultAsync with bq := 4096 })) 0 := by
  refine ⟨⟨by decide, _, rfl, by decide⟩, fun h => ?_⟩
  obtain ⟨-, p, hp, hq⟩ := h
  cases (LaneKind.async.inj (hp : LaneKind.async { defaultAsync with bq := 4096 } = .async p))
  exact absurd hq (by decide)

/-- A lane on channel 16 in Narrow width. -/
theorem test_arm_lane_channel :
    laneUnavailable (arming { defaultAcq with width := .narrow }
      (.async { defaultAsync with data := 16 })) 0 := ⟨by decide, by decide, by decide, 16, by decide, by decide⟩

/-- Wide width at divisor 1, a clock channel above 15 in Narrow width, and a lane On in state capture. -/
theorem test_arm_refusals :
    reply .arm (cell 3 [0]) (arming { defaultAcq with divisor := 1 } (.async defaultAsync)) =
      some (some (.refused .rateTooHigh 0)) ∧
    reply .arm (cell 3 [0]) (arming { defaultAcq with mode := .state, width := .narrow, clockChannel := 16 }
      (.async defaultAsync)) = some (some (.refused .channelUnavailable 0)) ∧
    reply .arm (cell 3 [0]) (arming { defaultAcq with mode := .state } (.async defaultAsync)) =
      some (some (.refused .laneNeedsTiming 0)) ∧
    reply .arm (cell 3 [0]) (arming defaultAcq (.async defaultAsync)) = some (some .accepted) := by
  decide +kernel

/-- The retain floor guards a segment. -/
theorem test_arm_retained :
    reply .arm (cell 3 [0]) (arming { defaultAcq with retainFloor := 1 } (.async defaultAsync)) =
      some (some (.refused .retained 0)) := by decide +kernel

/-- STOP in Idle, with an open record, and before the first sample. -/
theorem test_stop_states :
    Ready (cell 4 []) [] (with1 (cell 4 []) (running1 9 0 none)) ∧ s0.ce.engine = .idle ∧
    (running1 9 0 none).ce.engine = .triggered ∧ (running1 9 0 none).ce.staging = [] ∧
    (running1 9 0 none).ce.episode = none ∧ (running1 9 0 none).ce.openRecord = some openOne ∧
    1 ≤ (running1 9 0 none).ce.handled ∧ 1 ≤ elapsed 9 openOne.start ∧
    (cap .preFill).ce.openRecord = none ∧ (cap .preFill).ce.handled = 0 ∧ (cap .preFill).ce.queue = [] ∧
    (cap .preFill).ce.segment = some 0 :=
  ⟨ready_with1 (by decide) (by decide), by decide, by decide, by decide, by decide, by decide, by decide,
    by decide, by decide, by decide, by decide, by decide⟩

/-- A STOP at tick 9 closes a record of 9 ticks (R39). -/
theorem test_stop_closes_at_its_tick :
    (after (exec .stop (with1 (cell 4 []) (running1 9 0 none))) fun t =>
      (t.ce.engine, t.ce.endTime, t.ce.queue.map (·.duration))) = some (.closing, some 9, [9]) := by
  decide +kernel

/-- An Armed capture with one sample staged, 4 ticks into its open record. -/
def forcing : State :=
  { cap .armed with time := 6, ce := { (cap .armed).ce with
      taken := 2, handled := 1, nextTick := 8, staging := [{ stamp := 4, levels := 0 }]
      openRecord := some openOne } }

/-- A state capture between two examinations, before its first qualifying edge. -/
def noEdge : State :=
  { cap .preFill with ce := { (cap .preFill).ce with
      table := { defaultAcq with mode := .state }, nextTick := 2, clock := some false } }

/-- FORCE without a sample, with one staged, and with one still to be taken at its tick. -/
theorem test_force_states :
    Ready (cell 5 []) [] (with1 (cell 5 []) forcing) ∧ s0.ce.engine = .idle ∧
    sampleComes { forcing with time := 8 } = true ∧ sampleComes forcing = false ∧
    noEdge.ce.engine = .preFill ∧ noEdge.ce.taken = 0 ∧ forcing.ce.engine = .armed ∧
    forcing.ce.taken ≠ 0 ∧ forcing.ce.staging = [{ stamp := 4, levels := 0 }] ∧
    forcing.ce.openRecord = some openOne ∧ forcing.ce.segment = some 0 ∧ openOne.triggerPoint = false ∧
    elapsed 4 openOne.start ≤ 16777215 ∧ forcing.ce.episode = none ∧ forcing.ce.queue.length < 510 ∧
    forcing.ce.post ≠ 0 :=
  ⟨ready_with1 (by decide) (by decide), by decide, by decide +kernel, by decide +kernel, by decide, by decide,
    by decide, by decide, by decide, by decide, by decide, by decide, by decide, by decide, by decide,
    by decide⟩

/-- The newest sample taken is the trigger sample (R36). -/
theorem test_force_triggers :
    (after (exec .force (with1 (cell 5 []) forcing)) fun t =>
      (t.ce.engine, t.segments[(0 : Fin 32)].triggerTime, t.ce.endIndex)) =
      some (.triggered, some 4, some 4097) := by decide +kernel

/-- A state capture with one sample staged and an examination due that finds no edge, when a FORCE is held. -/
def heldNoEdge : State :=
  { forcing with
    time := 8
    ce := { forcing.ce with
      table := { defaultAcq with mode := .state }, clock := some false, heldForce := true } }

/-- The sample that a held FORCE waits for does not come: the newest sample taken is the trigger sample, at
the examination and at a STOP alike (R36, R39). -/
theorem test_held_force_without_a_sample :
    (heldNoEdge.ce.engine = .armed ∧ heldNoEdge.ce.heldForce = true ∧ heldNoEdge.ce.taken ≠ 0 ∧
      heldNoEdge.ce.staging = [{ stamp := 4, levels := 0 }] ∧ elapsed heldNoEdge.time 4 ≤ 16777215) ∧
    (after (exec .sample heldNoEdge) fun t => (t.ce.engine, t.segments[(0 : Fin 32)].triggerTime)) =
      some (.triggered, some 4) ∧
    (after (exec .stop (with1 (cell 4 []) heldNoEdge)) fun t => (t.ce.engine, t.ce.endTime,
      t.ce.queue.map (·.duration), t.segments[(0 : Fin 32)].triggerTime)) =
      some (.closing, some 8, [4, 4], some 4) := by decide +kernel

theorem test_released_force_state :
    Quiet heldNoEdge ∧ heldNoEdge.ce.nextTick = heldNoEdge.time ∧ heldNoEdge.ce.table.mode = .state ∧
    (∀ old, heldNoEdge.ce.clock = some old → qualifies heldNoEdge.ce.table.clockEdge old
      ((sampleLevels heldNoEdge).getLsbD heldNoEdge.ce.table.clockChannel) = false) ∧
    heldNoEdge.ce.openRecord = some openOne ∧ heldNoEdge.ce.segment = some 0 ∧
    heldNoEdge.ce.episode = none ∧ heldNoEdge.ce.queue.length < 510 ∧ heldNoEdge.ce.post ≠ 0 := by
  refine ⟨quiet_of (by decide) (by decide), by decide, by decide, ?_, by decide, by decide, by decide,
    by decide, by decide⟩
  intro old h
  cases h
  decide

/-- A capture in loop mode whose first sample is due, with a FORCE held and CAL1 in BurstOnTrigger. -/
def heldFirst : State :=
  { cap .armed with
    ce := { (cap .armed).ce with table := { defaultAcq with loop := true }, heldForce := true }
    gen := { s0.gen with
      table := s0.gen.table.set 1 { mode := .burstOnTrigger, half := 3, burst := 2 }
      outputs := s0.gen.outputs.set 1 { heldOutput with run := .waiting } } }

/-- The first sample is the trigger sample, and shows CAL1 already high: the burst begins at its tick (R13,
R17, R36). -/
theorem test_held_force_at_the_first_sample :
    Quiet heldFirst ∧ heldFirst.ce.heldForce = true ∧ heldFirst.ce.taken = 0 ∧ heldFirst.ce.handled = 0 ∧
    heldFirst.ce.staging = [] ∧ heldFirst.ce.openRecord = none ∧ heldFirst.ce.segment = some 0 ∧
    heldFirst.ce.nextTick = heldFirst.time ∧ heldFirst.ce.post ≠ 0 ∧ heldFirst.ce.table.mode = .timing ∧
    (after (exec .sample heldFirst) fun t => (t.ce.engine, t.ce.openRecord.map (·.value))) =
      some (.triggered, some 2) :=
  ⟨quiet_of (by decide) (by decide), by decide, by decide, by decide, by decide, by decide, by decide, by decide,
    by decide, by decide, by decide +kernel⟩

/-- The same capture with its first sample taken. -/
def sampledFirst : State :=
  { heldFirst with ce := { heldFirst.ce with heldForce := false, taken := 1, nextTick := 4 } }

/-- A FORCE, which would raise CAL1, and a WRITE of table 2 wait for the next tick (R13, R14; assumption 58).
-/
theorem test_waits_for_the_next_tick :
    (sampledFirst.ce.table.loop = true ∧ sampledFirst.ce.engine = .armed ∧
      sampledFirst.ce.table.mode = .timing ∧
      sampledFirst.ce.nextTick = sampledFirst.time + BitVec.ofNat 48 sampledFirst.ce.table.divisor ∧
      sampledFirst.gen.table[(1 : Fin 2)].mode = .burstOnTrigger ∧
      sampledFirst.gen.outputs[(1 : Fin 2)].level = false) ∧
    (∀ c ∈ [(Instr.force, cell 5 []), (.writeGenerator, cell 1 [2, 0, 0])],
      (after (exec c.1 (with1 c.2 sampledFirst)) fun t => t.lp.queue.length) = some 1 ∧
      (after (exec c.1 (with1 c.2 { sampledFirst with time := 1 })) fun t => t.lp.queue.length) = some 0) := by
  decide +kernel

/-- A FORCE at tick 8, before the sample of that tick, takes that sample: its period contains the tick
(R36). -/
theorem test_force_waits_for_the_sample :
    (after (exec .force (with1 (cell 5 []) { forcing with time := 8 })) fun t =>
      after (exec .sample t) fun u => (u.ce.engine, u.segments[(0 : Fin 32)].triggerTime, u.ce.handled)) =
      some (some (.triggered, some 8, 3)) := by decide +kernel

/-- A closed segment that nothing holds. -/
def closed : State :=
  { planned with segments := planned.segments.set 0 { closedSegment0 with holdCount := 0 } }

/-- REDECODE passes and fails its checks: an open segment, a readout of its symbols, a state-mode table. -/
theorem test_redecode_states :
    Ready (cell 6 [0]) [] (with1 (cell 6 [0]) closed) ∧ closed.ce.engine = .idle ∧ closed.redecode = none ∧
    closed.segments[(0 : Fin 32)].state = .closed ∧ closed.segments[(1 : Fin 32)].state ≠ .closed ∧
    closed.lp.readout = none ∧ closed.ce.table.mode = .timing ∧
    (∀ l : Fin 4, closed.laneTable[l].enable = false) ∧
    closed.segments[(0 : Fin 32)].startTime ≠ closed.segments[(0 : Fin 32)].endTime ∧
    closed.segments[(0 : Fin 32)].recordCount ≠ 0 ∧ (redecoding 8).redecode.isSome :=
  ⟨ready_with1 (by decide) (by decide), by decide, by decide, by decide, by decide, by decide, by decide,
    by decide, by decide, by decide, by decide⟩

/-- The replies of REDECODE: accepted, the segment's symbols being read out, a segment never filled. -/
theorem test_redecode_replies :
    reply .redecode (cell 6 [0]) closed = some (some .accepted) ∧
    reply .redecode (cell 6 [0]) { closed with lp.readout := some { readingOut with kind := .symbols } } =
      some (some (.refused .busy 0)) ∧
    reply .redecode (cell 6 [1]) closed = some (some (.refused .notClosed 0)) := by decide +kernel

/-- A run of two pixels on line 1. -/
def twoPixels : PixelRun := { x := 3, y := 1, pixels := [5, 6] }

/-- A render with nothing to read that still clears its area. -/
def clearing : State :=
  let s := rendering .finished [twoPixels]
  { s with re := { s.re with rowsClipped := none } }

/-- The render of a segment that a REDECODE catches, before and after its reading, and while it clears. -/
theorem test_redecode_render_states :
    (rendering (.symbols 0 3) []).re.draw = some (drawing (.symbols 0 3) []) ∧
    (drawing (.symbols 0 3) []).snapshot.view.segment = 0 ∧ (drawing (.symbols 0 3) []).phase ≠ .finished ∧
    (drawing .finished []).phase = .finished ∧ clearing.re.job = .drawing ∧ clearing.re.rowsClipped = none ∧
    (after (exec .redecode (with1 (cell 6 [0]) clearing)) fun t =>
      t.re.draw.map fun d => (d.omitted, d.writes)) = some (some (true, [twoPixels])) := by decide +kernel

/-- A redecode's stream at a record of 8 ticks, stored at ring position 0. -/
def replays (left : Nat) : State :=
  { redecoding left with dram := memWriteBytes [] 0 (recordBytes (rec 8 false)) }

theorem test_record_read_states :
    nextGrant (replays 2) = some .redecodeRead ∧ nextGrant (replays 1) = some .redecodeRead ∧
    (replays 2).redecode = some (replaying 2) ∧ (∀ l : Fin 4, (replays 2).lanes[l].mode ≠ .running) ∧
    0 * 65536 + 0 * 8 + 8 ≤ totalBlocks (replays 2).mp.size * 65536 ∧
    recordOf (memReadBytes (replays 2).dram (0 * 65536 + 0 * 8) 8) = rec 8 false := by decide +kernel

theorem test_replay_law : QueueLaw (replays 3) ∧ ∀ l : Fin 4, (replays 3).lanes[l].mode ≠ .running :=
  ⟨⟨by decide, by decide, by decide, by decide, by decide, by decide⟩, by decide⟩

/-- 8 ticks at divisor 4 hold the samples of 0 and 4; the next is that of 8 (R127). -/
theorem test_record_read_gives_samples :
    (after (exec .redecodeRecordRead (replays 2)) fun t =>
      (t.redecode.map fun r => (r.stamp, r.left), t.sm.stamps)) = some (some (8, 1), [4, 0]) := by
  decide +kernel

/-- A redecode with nothing left to do. -/
theorem test_redecode_done_state :
    (redecoding 0).redecode = some (replaying 0) ∧ (replaying 0).left = 0 ∧
    (∀ l : Fin 4, (redecoding 0).lanes[l].fifo = []) ∧ trimDue (redecoding 0) = false := by decide +kernel

/-! ### Rendering and scan-out -/

/-- RENDER with the job Idle and with a render under way, and SWAP. -/
theorem test_render_states :
    Ready (cell 7 []) [] (with1 (cell 7 []) closed) ∧ closed.re.job = .idle ∧
    Ready (cell 7 []) [] (with1 (cell 7 []) (rendering .finished [])) ∧
    (rendering .finished []).re.job ≠ .idle ∧ Ready (cell 8 []) [] (with1 (cell 8 []) closed) ∧
    closed.pru.power ≠ .sleep ∧ closed.re.setA.view.segment = 0 :=
  ⟨ready_with1 (by decide) (by decide), by decide, ready_with1 (by decide) (by decide), by decide,
    ready_with1 (by decide) (by decide), by decide, by decide⟩

/-- A render holds its segment and draws into the buffer that is not in front (R55, R136). -/
theorem test_render_starts :
    (after (exec .render (with1 (cell 7 []) closed)) fun t =>
      (t.re.job, t.segments[(0 : Fin 32)].holdCount, t.re.draw.map fun d => d.snapshot.buffer)) =
      some (.drawing, 1, some true) := by decide +kernel

/-- A part with a closed segment, an area of 40 lines, three rows of 16, the second a Lane row, and a view that
begins at a time. -/
def stacked (origin : Int) : State :=
  { closed with re := { closed.re with
      setA := {
        view := { smallView with origin := origin, height := 40, rowCount := 3 }
        rows := closed.re.setA.rows.set 1 { defaultRow with kind := .lane 0 } } } }

/-- RENDER stacks the two rows that fit (R142) and begins with the newest record; in a view past the segment,
with the span; and of an Empty segment with nothing (R136, R141). -/
theorem test_render_stacks_and_begins :
    (after (exec .render (with1 (cell 7 []) (stacked 0))) fun t => t.re.draw.map fun d =>
      (d.placed.map (·.top), d.phase)) = some (some ([0, 16], .locate 7 8 800)) ∧
    (after (exec .render (with1 (cell 7 []) (stacked 800))) fun t => t.re.draw.map fun d => d.phase) =
      some (some (.symbols 0 3)) ∧
    (after (exec .render (with1 (cell 7 []) s0)) fun t => t.re.draw.map fun d =>
      (d.snapshot.noData, d.phase)) = some (some (true, .finished)) := by decide +kernel

/-- Buffer 1 of 800 by 480 pixels begins 6 blocks after block 1000: 384,000 bytes are under 6 blocks (R45). -/
theorem test_pixel_write_state :
    nextGrant (rendering .finished [twoPixels]) = some .renderPixels ∧
    (rendering .finished [twoPixels]).re.draw = some (drawing .finished [twoPixels]) ∧
    (1000 + 6) * 65536 + 1 * 800 + 3 + 2 ≤ totalBlocks s0.mp.size * 65536 ∧
    memWf (rendering .finished [twoPixels]).dram = true ∧
    (after (exec .renderPixelWrite (rendering .finished [twoPixels])) fun t =>
      memReadBytes t.dram ((1000 + 6) * 65536 + 803) 2) = some [5, 6] := by decide +kernel

/-- The tick at which the first row of a frame is wanted. -/
def scanning0 : State := { s0 with time := 363072 }

/-- A render that waits to write is served, after a row read, and in Sleep is not (R59, R60). -/
theorem test_grant_states :
    Waits (rendering .finished [twoPixels]) .renderPixels ∧ Waits scanning0 .scanRow ∧
    nextGrant scanning0 = some .scanRow ∧ Waits remerges .redecodeWrite ∧
    (rendering .finished [twoPixels]).pru.power ≠ .sleep ∧
    nextGrant { rendering .finished [twoPixels] with time := 363072 } = some .scanRow ∧
    nextGrant { rendering .finished [twoPixels] with pru.power := .sleep } = none :=
  ⟨⟨by decide, _, rfl, by decide⟩, show (wantedRow scanning0).isSome = true by decide +kernel, by decide +kernel,
    ⟨by decide, by decide⟩, by decide, by decide +kernel, by decide⟩

/-- The locate walk at the newest record, the forward pass at the oldest one, and a position that the
capture has written since the start. -/
theorem test_render_record_states :
    nextGrant (rendering (.locate 7 8 800) []) = some .renderRecord ∧
    nextGrant (rendering (.forward 0 8 0) []) = some .renderRecord ∧
    (rendering (.forward 0 8 0) []).re.draw = some (drawing (.forward 0 8 0) []) ∧ 7 < 1 * 8192 ∧
    0 * 65536 + 7 * 8 + 8 ≤ totalBlocks s0.mp.size * 65536 ∧
    (0 < { drawing (.forward 8 1 0) [] with ringWrites := 1 }.ringWrites ∧ 8 = (7 + 1 + 0) % 8192) ∧
    ¬∃ i < (drawing (.forward 0 8 0) []).ringWrites, 0 = (7 + 1 + i) % 8192 := by
  refine ⟨by decide, by decide, by decide, by decide, by decide, by decide, ?_⟩
  rintro ⟨i, hi, -⟩
  exact absurd hi (Nat.not_lt_zero i)

/-- A walk that has left one record ends, and the forward pass begins at it (R141). -/
theorem test_locate_ends :
    (after (exec .renderRecordRead (rendering (.locate 0 1 800) [])) fun t => t.re.draw.map (·.phase)) =
      some (some (.forward 0 8 800)) := by decide +kernel

/-- A position written since the start, where the annotations were omitted before (R148). -/
theorem test_late_read_after_a_redecode :
    (let d := { drawing (.forward 8 1 0) [] with ringWrites := 1, omitted := true }
     let s := { rendering .finished [] with re := { (rendering .finished []).re with draw := some d } }
     nextGrant s = some .renderRecord ∧ (after (exec .renderRecordRead s) fun t =>
       (t.re.job, t.re.draw.map (·.outcome))) = some (.waitFlip, some .annotationsOmitted)) := by decide +kernel

/-- A record of 200 ticks of which bit 0 is 1 from tick 0 on, and one of 0 from tick 200 on, in a gap or not.
-/
def pulse (gap : Bool) : List TimedRecord :=
  [{ start := 0, record := { rec 200 false with value := 1, gap := gap } },
    { start := 200, record := { rec 600 false with value := 0 } }]

/-- A row of 8 lines at line 10, of which 11 to 16 are its span. -/
def row8 (kind : RowKind) : PlacedRow :=
  { row := { kind := kind, height := 8, line := 1, activity := 2, text := 3 }, top := 10 }

/-- At 100 ticks a column, column 1 is high, column 2 holds the one change, and as a gap column 1 is hatched
(R144, R145). -/
theorem test_columns_are_drawn :
    recordAt snap (pulse false) (columnInstant snap 1) = (pulse false).head? ∧
    rowTrace snap (pulse false) 1 (row8 (.channel 0)) = [{ x := 1, y := 11, pixels := [1] }] ∧
    (rowTrace snap (pulse false) 2 (row8 (.channel 0))).map (·.y) = [11, 12, 13, 14, 15, 16] ∧
    (rowTrace snap (pulse true) 1 (row8 (.group 1))).map (fun w => (w.y, w.pixels)) =
      [(11, [2]), (13, [2]), (15, [2])] ∧
    (rowTrace snap (pulse false) 1 (row8 (.group 1))).map (·.y) = [11, 16] := by decide +kernel

/-- A view of 12 columns of 10 ticks. -/
def snap12 : Snapshot := { snap with view := { smallView with zoom := 2560, width := 12 } }

/-- A view of 12 columns from tick 100 on, with the cursors at ticks 50 and 600. -/
def cursors12 : Snapshot :=
  { snap12 with
    view := { snap12.view with origin := 100 }, cursor1 := { enabled := true, offset := 50 }
    cursor2 := { enabled := true, offset := 600 } }

/-- The columns of the times at the two edges of the view, the instant of a column, and the window, which
reaches from one cursor to just past the other (R139, R140, R141). -/
theorem test_columns_and_window :
    [-1, 0, 9, 10, 119, 120].map (timeColumn snap12) = [.left, .at 0, .at 0, .at 1, .at 11, .right] ∧
    columnInstant snap12 11 = 110 ∧ snap12.reference = some 0 ∧ snap12.startTime = some 0 ∧
    snap12.endTime = some 800 ∧ relStart snap12 = 0 ∧ relEnd snap12 = 800 ∧
    (windowStart snap12, windowEnd snap12) = (0, 120) ∧
    (windowStart cursors12, windowEnd cursors12) = (50, 601) ∧
    [-1, 0, 1199, 1200].map (columnOf 25600 12) = [.left, .at 0, .at 11, .right] := by decide +kernel

/-- The edge of the view of snap12 is the first tick that maps Right. -/
theorem test_right_edge : ∀ t : Int, 120 ≤ t ↔
    ((snap12.view.width * snap12.view.zoom : Nat) : Int) ≤ (t - snap12.view.origin) * 256 := by
  intro t
  simp only [snap12, smallView]
  omega

/-- A cursor reads the record that contains its time, and nothing where it is off or outside the segment; the
fall at tick 200 counts after tick 199 and at 200 at the latest (R150). -/
theorem test_cursor_readings :
    (let d : Draw := { drawing .finished [] with used := pulse false }
     [199, 200, 799, 800, -1].map (fun t => valueReading d { enabled := true, offset := t }) =
       [some 1, some 0, some 0, none, none] ∧
     valueReading d { enabled := false, offset := 199 } = none ∧
     edgeCount d 199 200 0 = 1 ∧ edgeCount d 200 300 0 = 0 ∧ edgeCount d 0 199 0 = 0 ∧
     edgeCount d 0 800 1 = 0) := by decide +kernel

/-- Two cursors, one 2^47 - 1 ticks before R and the other as many after it, lie 2 ticks apart around the Time
Base, the second before the first (R7, R150). -/
theorem test_cursors_across_the_farthest_time :
    (let d : Draw := { drawing .finished [] with
       used := pulse false
       snapshot := { snap with cursor1 := { enabled := true, offset := -140737488355327 }
                               cursor2 := { enabled := true, offset := 140737488355327 } } }
     cursorTime d.snapshot d.snapshot.cursor1 = 140737488355329 ∧
       timeDiff 140737488355327 140737488355329 = -2 ∧
       intervalReading d = some (2, List.replicate 32 0)) := by decide +kernel

/-- The time difference and the edge counts of two cursors at ticks 199 and 200 (R150). -/
theorem test_cursor_interval :
    (let d : Draw := { drawing .finished [] with
       used := pulse false
       snapshot := { snap with cursor1 := { enabled := true, offset := 200 }
                               cursor2 := { enabled := true, offset := 199 } } }
     intervalReading d = some (1, 1 :: List.replicate 31 0)) := by decide +kernel

/-- Glyphs with their top left pixel set. -/
def dots : Vector (BitVec 60) 64 := Vector.replicate 64 1

/-- A stable run of 12 columns of 1 ends with the last of them, and has its one digit at column 3 of the row's
text lines, which begin at line 11 of a row of 12 lines (R145). -/
theorem test_group_text :
    isDataColumn snap12 11 = true ∧ isDataColumn snap12 12 = false ∧
    (∀ c < 12, reduceColumn snap12 (pulse false) (groupValue 1) c =
      { value := 1, changes := 0, gap := false }) ∧
    groupValue 0x8000000A 0x80000008 = 6 ∧
    (let tall : PlacedRow := { row8 (.group 1) with row := { (row8 (.group 1)).row with height := 12 } }
     rowText dots snap12 (pulse false) 11 tall = [{ x := 3, y := 11, pixels := [3] }] ∧
       rowText dots snap12 (pulse false) 10 tall = []) := by decide +kernel

/-- The last record of the forward pass draws its columns; with no Channel or Group row no column counts for
the bounds (R149). -/
theorem test_bounds_need_a_pixel :
    (let d (placed : List PlacedRow) := { drawing (.forward 7 1 0) [] with placed := placed }
     let read (placed : List PlacedRow) := exec .renderRecordRead { rendering .finished [] with
       re := { (rendering .finished []).re with draw := some (d placed) }
       dram := memWriteBytes [] 56 (recordBytes (rec 800 false)) }
     (after (read [row8 (.channel 0)]) fun t => t.re.draw.map fun e => (e.firstColumn, e.lastColumn)) =
       some (some (some 0, some 3)) ∧
     (after (read [row8 .spacer]) fun t => t.re.draw.map fun e => (e.firstColumn, e.nextColumn)) =
       some (some (none, 4))) := by decide +kernel

/-- In a view that begins 8 ticks before the farthest time after R, a symbol that crosses that time ends Left of
the view and gets no box; one that ends before it gets one (R139, R146). -/
theorem test_box_across_the_farthest_time :
    (let sn := { snap with view := { smallView with zoom := 256, width := 8, origin := 140737488355320 }
                           startTime := some 140737488355320 }
     boxColumns sn { data1 with start := 140737488355324, duration := 3 } = some (4, 7) ∧
       boxColumns sn { data1 with start := 140737488355324, duration := 4 } = none) := by decide +kernel

/-- The last symbol of a span of three. -/
theorem test_render_symbol_state :
    nextGrant (rendering (.symbols 2 1) []) = some .renderSymbol ∧
    (rendering (.symbols 2 1) []).re.draw = some (drawing (.symbols 2 1) []) ∧ 2 < 1 * 4096 ∧
    1 ≤ (drawing (.symbols 2 1) []).snapshot.symbolCount ∧
    896 * 65536 + 2 * 16 + 16 ≤ totalBlocks s0.mp.size * 65536 ∧
    (after (exec .renderSymbolRead (rendering (.symbols 2 1) [])) fun t => t.re.draw.map (·.phase)) =
      some (some .finished) := by decide +kernel

/-- The text of a Data symbol of 55h is its kind's glyph and two digits (R147). -/
theorem test_symbol_text : SymbolText data1 [20, 5, 5] := by
  refine ⟨20, [5, 5], rfl, by decide, by decide, by decide, fun _ => ⟨2, by decide, by decide, by decide, rfl, ?_⟩⟩
  rintro (_ | _ | i) k h
  · cases h; rfl
  · cases h; rfl
  · cases h

/-- A box of 20 columns just holds the text of three glyphs; a box of one column is a tick (R146, R147). -/
theorem test_boxes :
    (let tall : PlacedRow := { row8 (.lane 1) with row := { (row8 (.lane 1)).row with height := 12 } }
     (boxPixels dots 0 data1 0 19 tall).drop 22 = [1, 7, 13].map (fun x => { x := x, y := 11, pixels := [3] }) ∧
       (boxPixels dots 0 data1 0 18 tall).drop 22 = [] ∧
       boxPixels dots 0 data1 4 4 tall = (List.range' 11 10).map fun y => { x := 4, y := y, pixels := [1] }) := by
  decide +kernel

/-- A box at a data column counts for the bounds (R149): a memory of zeros reads as a Start of lane 0 at
tick 0. -/
theorem test_boxes_count :
    (let s := rendering (.symbols 2 1) []
     let d : Draw := { drawing (.symbols 2 1) [] with placed := [row8 (.lane 0)] }
     isDataColumn snap 0 = true ∧
       (after (exec .renderSymbolRead { s with re := { s.re with draw := some d } }) fun t =>
         t.re.draw.map fun e => (e.firstColumn, e.lastColumn, e.drawn)) =
         some (some (some 0, some 0, 1))) := by decide +kernel

theorem test_drawing_complete_state :
    (rendering .finished []).re.job = .drawing ∧
    (rendering .finished []).re.draw = some (drawing .finished []) ∧ (drawing .finished []).writes = [] ∧
    (drawing .finished []).phase = .finished ∧
    (after (exec .drawingComplete (rendering .finished [])) fun t => t.re.job) = some .waitFlip := by
  decide +kernel

/-- A render in WaitFlip at the end of a frame: 525 lines of 976 pixels of 12 ticks. -/
def flipping (pending : Bool) : State :=
  { rendering .finished [] with
    time := 6148800
    re := { (rendering .finished []).re with job := .waitFlip, pending := pending } }

theorem test_frame_boundary_states :
    (flipping false).pru.power ≠ .sleep ∧
    (480 + 13 + 3 + 29) * ((800 + 40 + 48 + 88) * 12) ≤
      (timeDiff (flipping false).time s0.su.frameStart).toNat ∧
    (flipping false).su.resizing = false ∧ (flipping false).re.job = .waitFlip ∧
    (flipping false).re.draw = some (drawing .finished []) ∧ (flipping true).re.pending = true ∧
    s0.re.job ≠ .waitFlip ∧ ({ s0 with su.resizing := true }).su.resizing = true := by decide +kernel

/-- The flip comes at the boundary and not a tick before (R137, R154). -/
theorem test_flip_at_the_boundary :
    (after (exec .frameBoundary { flipping false with time := 6148799 }) fun t => t.su.front) = some false ∧
    (after (exec .frameBoundary (flipping false)) fun t =>
      (t.su.front, t.re.job, t.segments[(0 : Fin 32)].holdCount)) = some (true, .idle, 0) := by
  decide +kernel

/-- Scan-out at the last line of the back porch, line 31, asks for row 0. -/
theorem test_row_read_state :
    nextGrant scanning0 = some .scanRow ∧
    3 + 29 + 0 = (timeDiff scanning0.time scanning0.su.frameStart).toNat / ((800 + 40 + 48 + 88) * 12) + 1 ∧
    1000 * 65536 + 0 * 800 + 800 ≤ totalBlocks scanning0.mp.size * 65536 ∧
    nextGrant { s0 with time := 363071 } = none := by decide +kernel

/-- A view from column 10 and line 20 on, 9 by 12, one tick a column, with a reference at tick 100 and a
trigger 4 ticks later. -/
def view9 : FrontView :=
  { left := 10, top := 20, width := 9, height := 12, reference := some 100, origin := 0, zoom := 256
    segment := 0, triggerTime := some 104 }

/-- Cursor 1 in column 2, cursor 2 right of the view, the marker in column 4. -/
def overlaid : Su :=
  { s0.su with
    frameView := some view9
    appliedCursors := { cursor1 := { enabled := true, offset := 2, colour := 5 }
                        cursor2 := { enabled := true, offset := 50, colour := 6 }, marker := 7 } }

/-- A line, the tip and the edge of an arrow centred at line 28, the dashes of the marker, and no overlay
elsewhere (R159, R160). -/
theorem test_overlay :
    overlayIndex overlaid 12 31 = some 5 ∧ overlayIndex overlaid 18 26 = some 6 ∧
    overlayIndex overlaid 16 28 = some 6 ∧ overlayIndex overlaid 16 29 = none ∧
    overlayIndex overlaid 14 25 = some 7 ∧ overlayIndex overlaid 14 26 = none ∧
    overlayIndex overlaid 9 20 = none ∧ overlayIndex { overlaid with frameView := none } 12 31 = none := by
  decide +kernel

/-- A part whose panel is On, at a tick of its frame, with row 0 read. -/
def showing (now : Time) : State :=
  { s0 with
    time := now
    su := { s0.su with
      applied := { s0.su.applied with enabled := true }
      appliedPalette := s0.su.appliedPalette.set 9 0xF800
      read := some { line := 0, pixels := List.replicate 800 9 } } }

/-- With Enabled Off and in Sleep every output is low; row 0 shows its colour on line 32, the lines before it
are dark, and the syncs are low in their intervals (R153 to R156, R161). -/
theorem test_panel_pins :
    panelPins s0 = { clock := false, hSync := false, vSync := false, data := 0 } ∧
    panelPins { showing 0 with pru.power := .sleep } =
      { clock := false, hSync := false, vSync := false, data := 0 } ∧
    (showing 0).su.applied.enabled = true ∧ (showing 0).pru.power ≠ .sleep ∧
    (panelPins (showing (374784 + 12 * 799))).data = 0xF800 ∧
    (panelPins (showing (374784 + 12 * 800))).data = 0 ∧
    (panelPins (showing 363072)).data = 0 ∧
    ((panelPins (showing (12 * 840))).hSync = (showing 0).su.applied.hActiveHigh) ∧
    ((panelPins (showing (12 * 839))).hSync ≠ (showing 0).su.applied.hActiveHigh) ∧
    ((panelPins (showing 0)).vSync = (showing 0).su.applied.vActiveHigh) := by decide +kernel

/-- A fill with one block left, and one with none. -/
def fills (left : Nat) : State :=
  { s0 with mp.fill := some { kind := .region, next := 1023, left := left }, dram := [(67108863, 9)]
            lp.inProgress := some (.fill 3) }

theorem test_fill_states :
    nextGrant (fills 1) = some .fillBlock ∧ 1023 + 1 ≤ totalBlocks (fills 1).mp.size ∧
    (fills 0).mp.fill = some { kind := .region, next := 1023, left := 0 } ∧
    (after (exec .frameBufferFillBlock (fills 1)) fun t => t.dram) = some [] ∧
    (after (exec .fillComplete (fills 0)) fun t => t.lp.slot.map (·.tag)) = some (some 3) := by
  decide +kernel

/-! ### The link -/

/-- An arrival with room for one more cell, at a full queue, and of another kind. -/
theorem test_arrival_states :
    (cell 4 []).payload.length = min (cell 4 []).length.toNat 60 ∧ (cell 4 []).kind = 0 ∧
    ({ cell 4 [] with kind := 1 }).kind ≠ 0 ∧
    ({ s0 with lp.queue := List.replicate 7 (cell 4 []) }).lp.queue.length < 8 ∧
    8 ≤ crowded.lp.queue.length := by decide

/-- The ninth cell is dropped, counted and noticed (R163). -/
theorem test_ninth_cell_is_dropped :
    (after (exec (.commandCellArrival (cell 4 [])) crowded) fun t =>
      (t.lp.queue.length, t.lp.dropped, t.lp.notices[(0 : Fin 10)].pending)) = some (8, 1, true) := by decide

/-- A reply in the slot, a notice pending, a stream cell ready, and nothing to send. -/
def replying (body : ReplyBody) : State := { s0 with lp.slot := some { tag := 7, body := body } }

/-- A pending notice of the lowest priority. -/
def noticing : State :=
  let n : NoticeSlot := { pending := true, count := 2, snapshot := some (.wake .link) }
  { s0 with lp.notices := s0.lp.notices.set 9 n }

/-- A ready stream cell. -/
def streamCell : StreamCell := { ordinal := 2, items := 1, data := [1, 2, 3, 4, 5, 6, 7, 8] }

/-- A readout whose next cell is ready. -/
def streaming : State :=
  { reading with lp.readout := some { readingOut with ready := some streamCell } }

theorem test_send_states :
    s0.lp.resetDue = false ∧ sending.lp.sending.isSome ∧ s0.lp.sending = none ∧
    (replying .accepted).lp.slot.isSome ∧ noticing.lp.slot = none ∧
    noticing.lp.notices[(9 : Fin 10)].pending = true ∧
    (∀ j : Fin 10, j < 9 → noticing.lp.notices[j].pending = false) ∧ streaming.lp.slot = none ∧
    (∀ j : Fin 10, streaming.lp.notices[j].pending = false) ∧ streaming.lp.readout.isSome ∧
    s0.lp.readout = none := by decide

/-- A Refused reply carries its code and index (R186). -/
theorem test_refused_reply_bytes :
    (after (exec .sendReply (replying (.refused .busy 3))) fun t =>
      t.lp.sending.map fun c => (c.tag, c.code, c.payload)) = some (some (7, 2, [6, 3])) := by decide

/-- The bytes of a Refused reply and of a Fill cell (R162, R186). -/
theorem test_cell_bytes :
    upCellBytes { kind := .reply, tag := 7, code := 2, payload := [6, 3], items := 0 } = [1, 7, 2, 2, 6, 3] ∧
    upCellBytes fillCell = [4, 0, 0, 0] := by decide

/-- A notice carries its count, the millisecond time and its snapshot (R176). -/
theorem test_notice_bytes :
    (after (exec .sendNotice { noticing with time := 800001 }) fun t =>
      t.lp.sending.map fun c => (c.code, c.payload)) = some (some (10, [2, 2, 0, 0, 0, 1, 255])) := by
  decide +kernel

/-- The snapshots of the ten kinds, byte for byte (R185, R186). -/
theorem test_snapshot_bytes :
    snapshotBytes (.commandDropped 9 258) = [9, 2, 1, 0, 0] ∧
    snapshotBytes (.triggered 3 0x010203040506 (.stage 7)) = [3, 6, 5, 4, 3, 2, 1, 7] ∧
    snapshotBytes (.triggered 3 0 .forced) = [3, 0, 0, 0, 0, 0, 0, 8] ∧
    snapshotBytes (.captureClosed 31 .stopped 258) = [31, 3, 2, 1, 0, 0] ∧
    snapshotBytes (.sequenceEnded 5 .noSegment) = [5, 1] ∧ snapshotBytes (.laneLost 3) = [3] ∧
    snapshotBytes (.podChange 3 true) = [3, 1] ∧
    snapshotBytes (.redecodeDone 1 .incomplete 2 3) = [1, 4, 2, 0, 0, 0, 3, 0, 0, 0] ∧
    snapshotBytes (.renderDone 1 .annotationsOmitted) = [1, 4] ∧
    snapshotBytes (.readoutDone 1 .symbols 2 false) = [1, 1, 2, 0, 0, 0, 1] ∧
    snapshotBytes (.wake (.activity 31)) = [0, 31] ∧ snapshotBytes (.wake .link) = [1, 255] ∧
    refusalNumber .badCommand = 1 ∧ refusalNumber .asleep = 16 := by decide

/-- Each kind of cell being sent, and a readout that goes on, ends, and is cancelled. -/
def leaving (kind : UpKind) (items : Nat) (r : Option Readout) : State :=
  { reading with lp.sending := some { kind := kind, tag := 0, code := 0, payload := [], items := items }
                 lp.readout := r }

theorem test_cell_left_states :
    (leaving .reply 0 none).lp.sending.isSome ∧ (leaving .stream 6 (some readingOut)).lp.sending.isSome ∧
    readingOut.cancelled = false ∧ readingOut.sent + 5 ≠ readingOut.length ∧
    readingOut.sent + 6 = readingOut.length ∧ (leaving .stream 0 none).lp.readout = none := by decide

/-- The last item of the run ends the readout and frees its segment (R56, R173). -/
theorem test_readout_ends :
    (after (exec .streamCellSent (leaving .stream 6 (some readingOut))) fun t =>
      (t.lp.readout, t.segments[(0 : Fin 32)].holdCount)) = some (none, 0) := by decide

/-- The three other cells that leave free the link. -/
theorem test_other_cells_left :
    (after (exec .replySent { leaving .reply 0 none with lp.slot := some { tag := 7, body := .reset } })
      fun t => (t.lp.sending, t.lp.resetDue)) = some (none, true) ∧
    (after (exec .noticeCellSent (leaving .notice 0 none)) fun t => t.lp.sending) = some none ∧
    (after (exec .fillCellSent (leaving .fill 0 none)) fun t => t.lp.sending) = some none := by decide

/-- Codes at both ends of those that name no command, a wrong length, and a command in Sleep. -/
theorem test_form_states :
    Ready (cell 0 []) [] (with1 (cell 0 []) s0) ∧ Ready (cell 14 []) [] (with1 (cell 14 []) s0) ∧
    13 < (14 : Byte).toNat ∧ Ready (cell 3 []) [] (with1 (cell 3 []) s0) ∧ (cell 3 []).payload.length ≠ 1 ∧
    Ready (cell 10 []) [] (with1 (cell 10 []) { s0 with pru.power := .sleep }) ∧
    Ready (cell 1 []) [] (with1 (cell 1 []) { s0 with pru.power := .sleep }) :=
  ⟨ready_with1 (by decide) (by decide), ready_with1 (by decide) (by decide), by decide,
    ready_with1 (by decide) (by decide), by decide, ready_with1 (by decide) (by decide),
    ready_with1 (by decide) (by decide)⟩

theorem test_form_replies :
    reply .badCommand (cell 14 []) s0 = some (some (.refused .badCommand 0)) ∧
    reply .arm (cell 3 []) s0 = some (some (.refused .badLength 0)) ∧
    reply .cancel (cell 10 []) { s0 with pru.power := .sleep } = some (some (.refused .asleep 0)) := by decide

/-- A cell with a Length above 60 is refused BadLength, whatever its payload holds (R186). -/
theorem test_long_cells :
    (let long (code : Byte) : LinkCell := { kind := 0, tag := 7, length := 61, code := code, payload := [0] }
     60 < (long 3).length.toNat ∧ waitsForTick (long 3) s0 = false ∧
       reply .arm (long 3) s0 = some (some (.refused .badLength 0)) ∧
       reply .badCommand (long 14) s0 = some (some (.refused .badCommand 0))) := by decide +kernel

/-- READOUT of all records from ordinal 2 on: the run is 6 records. -/
def readoutCell (n kind : Byte) : LinkCell := cell 9 ([n, kind] ++ leBytes 4 2 ++ leBytes 4 4294967295)

theorem test_readout_states :
    Ready (readoutCell 0 0) [] (with1 (readoutCell 0 0) closed) ∧ closed.pru.power ≠ .sleep ∧
    (readoutCell 0 0).payload = [0, 0] ++ leBytes 4 2 ++ leBytes 4 4294967295 ∧ min 4294967295 (8 - 2) = 6 ∧
    closed.lp.readout = none ∧ closed.segments[(0 : Fin 32)].state = .closed ∧ reading.lp.readout.isSome ∧
    closed.segments[(1 : Fin 32)].state ≠ .closed ∧ 31 < (32 : Byte).toNat ∧ 1 < (2 : Byte).toNat ∧
    min 4294967295 (3 - 3) = 0 :=
  ⟨ready_with1 (by decide) (by decide), by decide, by decide, by decide, by decide, by decide, by decide,
    by decide, by decide, by decide, by decide⟩

/-- Its run is fixed, and a redecode keeps its segment's symbols from being read (R171). -/
theorem test_readout_fixes_its_run :
    (after (exec .readout (with1 (readoutCell 0 0) closed)) fun t =>
      t.lp.readout.map fun r => (r.next, r.length)) = some (some (2, 6)) ∧
    reply .readout (readoutCell 0 1) (redecoding 1) = some (some (.refused .busy 0)) := by decide +kernel

/-- A readout reads the six records left, from ring position 2 on. -/
theorem test_readout_read_state :
    nextGrant reading = some .readout ∧ reading.lp.readout = some readingOut ∧ min 6 7 = 6 ∧
    (∀ i < 6, 0 * 65536 + (0 + (2 + i)) % (1 * 8192) * 8 + 8 ≤ totalBlocks reading.mp.size * 65536) ∧
    (after (exec .readoutRead reading) fun t => t.lp.readout.map fun r => (r.left, r.ready.map (·.items))) =
      some (some (0, some 6)) := by decide +kernel

/-- CANCEL with no readout, with a readout at rest, and with one whose cell is being sent. -/
theorem test_cancel_states :
    Ready (cell 10 []) [] (with1 (cell 10 []) s0) ∧ s0.lp.readout = none ∧
    Ready (cell 10 []) [] (with1 (cell 10 []) reading) ∧ reading.lp.readout = some readingOut ∧
    reading.lp.sending = none ∧
    (leaving .stream 3 (some readingOut)).lp.readout = some readingOut ∧
    (after (exec .cancel (with1 (cell 10 []) (leaving .stream 3 (some readingOut)))) fun t =>
      t.lp.readout.map (·.cancelled)) = some (some true) :=
  ⟨ready_with1 (by decide) (by decide), by decide, ready_with1 (by decide) (by decide), by decide, by decide,
    by decide, by decide⟩

/-! ### Tables -/

/-- A WRITE of a table from an index on. -/
def writeCell (table first : Byte) (bytes : List Byte) : LinkCell := cell 1 (table :: first :: bytes)

/-- Some bytes 0. -/
def blank (n : Nat) : List Byte := List.replicate n 0

/-- Each check of a WRITE fails in some state: a payload of one byte, table 17, a part of an entry, an index
past the table, and each write condition. -/
theorem test_write_check_states :
    Ready (cell 1 [0]) [] (with1 (cell 1 [0]) s0) ∧ (cell 1 [0]).payload.length < 2 ∧
    Ready (writeCell 17 0 []) [] (with1 (writeCell 17 0 []) s0) ∧ 16 < (17 : Byte).toNat ∧
    Ready (writeCell 16 0 (blank 8)) [] (with1 (writeCell 16 0 (blank 8)) s0) ∧ (blank 8).length % 8 = 0 ∧
    (blank 7).length % 8 ≠ 0 ∧ (1 : Byte).toNat < 1 + (blank 8).length / 8 ∧
    (0 : Byte).toNat + (blank 8).length / 8 ≤ 1 ∧ (cap .armed).ce.engine ≠ .idle ∧
    reading.lp.readout.isSome ∧ s0.re.active = .a ∧ ({ s0 with re.active := .b }).re.active = .b ∧
    (rendering .finished []).re.job = .drawing :=
  ⟨ready_with1 (by decide) (by decide), by decide, ready_with1 (by decide) (by decide), by decide,
    ready_with1 (by decide) (by decide), by decide, by decide, by decide, by decide, by decide, by decide,
    by decide, by decide, by decide⟩

/-- The checks come in their order (R167). -/
theorem test_write_checks :
    reply .write (writeCell 17 0 (blank 3)) s0 = some (some (.refused .badTable 0)) ∧
    reply .writePods (writeCell 1 4 (blank 4)) s0 = some (some (.refused .badIndex 0)) ∧
    reply .writePods (writeCell 1 3 (blank 4)) (cap .armed) = some (some (.refused .busy 3)) ∧
    reply .write (writeCell 14 63 (blank 8)) (rendering .finished []) =
      some (some (.refused .busy 63)) := by decide +kernel

/-- The last entry of each plain table is written, and some entries are refused by their readers. -/
theorem test_write_entry_states :
    (∀ c ∈ [writeCell 0 0 (blank 20), writeCell 5 15 (blank 16), writeCell 6 7 (blank 20),
        writeCell 7 1 (blank 8), writeCell 8 3 (blank 16), writeCell 9 31 (blank 8), writeCell 10 0 (blank 24),
        writeCell 10 40 (blank 24), writeCell 11 0 (blank 24), writeCell 11 40 (blank 24),
        writeCell 13 255 (blank 2), writeCell 14 63 (blank 8)],
      wholeCell c = true ∧ c.code = 1) ∧
    mayDispatch s0 = true ∧ s0.pru.power ≠ .sleep ∧ s0.ce.engine = .idle ∧ s0.redecode = none ∧
    s0.re.active = .a ∧ s0.re.job ≠ .drawing ∧ (blank 24).length = 24 ∧
    BitVec.ofNat 8 255 = (255 : Byte) := by decide

/-- A divisor of 0 is stored as 1, and a lane that assigns a channel twice is refused (R9, R87). -/
theorem test_write_entries :
    (after (exec .write (with1 (writeCell 0 0 (blank 20)) s0)) fun t => t.ce.table.divisor) = some 1 ∧
    reply .write (writeCell 8 3 (leBytes 2 0x0201 ++ blank 14)) s0 = some (some (.refused .badValue 3)) := by
  decide +kernel

/-- A Clocked lane on channels 3 and 4, with no channel B and no select, 16 bits a word; a term of counter C1;
and entries refused for a field map lane of 4, a fifth branch term and a counter source of 4. -/
theorem test_entries_read :
    readLane ([1, 1, 20] ++ blank 1 ++ leBytes 2 0 ++ [3, 4, 255, 255, 0, 1, 16, 0, 0, 0]) =
      some { enable := true, deglitch := 15, gap := 1, kind := .clocked {
        clock := 3, dataA := 4, dataB := none, select := none, fallingEdge := false, selectHigh := true
        wordSize := 16, msbFirst := false } } ∧
    readTerm ([5, 1] ++ blank 2 ++ [1] ++ blank 11) = some { negate := true, kind := .counterExpired 1 } ∧
    readField ([1, 4] ++ blank 6) = none ∧ readStage (blank 4 ++ [5] ++ blank 15) = none ∧
    readCounter (blank 4 ++ [4] ++ blank 3) = none := by decide +kernel

/-- The pod, generator, cursor and power entries of the statement at their last index and at its bounds. -/
theorem test_write_now_states :
    (∀ c ∈ [writeCell 1 3 (leBytes 2 5009 ++ leBytes 2 24), writeCell 2 1 (blank 8),
        writeCell 2 1 (leBytes 1 4 ++ blank 7), writeCell 12 2 (blank 8), writeCell 16 0 (blank 8)],
      wholeCell c = true ∧ c.code = 1) ∧
    mayDispatch s0 = true ∧ s0.pru.power ≠ .sleep ∧ s0.ce.engine = .idle ∧ s0.redecode = none ∧
    BitVec.ofNat 8 (3 : Fin 4) = (3 : Byte) ∧ byteAt (blank 8) 0 ≤ 3 ∧ 3 < byteAt (leBytes 1 4) 0 := by
  decide

/-- 5009 mV is stored as 5000, and a hysteresis of 24 mV as 100 (R1). -/
theorem test_pod_entry_is_adjusted :
    (after (exec .writePods (with1 (writeCell 1 3 (leBytes 2 5009 ++ leBytes 2 24)) s0)) fun t =>
      (t.pfe.table[(3 : Fin 4)].threshold, t.pfe.table[(3 : Fin 4)].hysteresis)) = some (5000, 100) := by
  decide +kernel

/-- A square wave on CAL1 starts high; a cursor's first entry is stored; an exponent of 16 is stored as 15. -/
theorem test_writes_act :
    (after (exec .writeGenerator (with1 (writeCell 2 1 (leBytes 1 1 ++ blank 7)) s0)) fun t =>
      (t.gen.outputs[(1 : Fin 2)].level, t.gen.table[(1 : Fin 2)].half)) = some (true, 1) ∧
    (after (exec .writeCursors (with1 (writeCell 12 0 (leBytes 1 1 ++ blank 7)) s0)) fun t =>
      t.su.cursors.cursor1.enabled) = some true ∧
    (after (exec .writePowerAndNotice (with1 (writeCell 16 0 (blank 2 ++ leBytes 6 16)) s0)) fun t =>
      t.pru.table.exponent) = some 15 := by decide +kernel

/-- Regions in order, out of order, cutting a planned span, and leaving no room for the buffers. -/
def regions (capture symbol : Nat) : LinkCell := writeCell 3 0 (leBytes 2 capture ++ leBytes 2 symbol)

/-- A panel of some size with its other fields 0. -/
def panelCell (width height : Nat) : LinkCell :=
  writeCell 15 0 (leBytes 2 0 ++ leBytes 2 width ++ leBytes 2 height ++ blank 10)

theorem test_move_states :
    (∀ c ∈ [regions 896 1000, regions 896 1012, panelCell 800 480, panelCell 320 240],
      wholeCell c = true ∧ c.code = 1) ∧
    mayDispatch planned = true ∧ planned.pru.power ≠ .sleep ∧ planned.ce.engine = .idle ∧
    planned.redecode = none ∧ planned.re.job = .idle ∧ planned.lp.readout = none ∧ planned.mp.fill = none ∧
    planned.su.resizing = false ∧ (flipping false).re.job = .waitFlip ∧
    2 * ((800 * 480 + 65535) / 65536) ≤ totalBlocks s0.mp.size - 1012 ∧
    totalBlocks s0.mp.size - 1013 < 2 * ((800 * 480 + 65535) / 65536) := by decide

/-- The refusals of R46 in their order, and a move that begins a fill. -/
theorem test_regions :
    reply .writeRegions (regions 896 895) planned = some (some (.refused .badValue 0)) ∧
    reply .writeRegions (regions 895 1000) planned = some (some (.refused .outOfRegion 0)) ∧
    reply .writeRegions (regions 896 1013) planned = some (some (.refused .outOfRegion 0)) ∧
    (after (exec .writeRegions (with1 (regions 896 1012) planned)) fun t =>
      (t.mp.fill.map fun f => (f.next, f.left), t.lp.inProgress)) = some (some (1012, 12), some (.fill 7)) := by
  decide +kernel

/-- A panel of the same size is stored at once; a new one waits for the boundary (R153). -/
theorem test_panel :
    reply .writePanel (panelCell 800 480) planned = some (some (.done [])) ∧
    (after (exec .writePanel (with1 (panelCell 320 240) planned)) fun t =>
      (t.su.resizing, t.lp.inProgress)) = some (true, some (.fill 7)) := by decide +kernel

/-- An Enabled of 2 is refused, after the check for a change of size under way and before the others (R153).
-/
theorem test_panel_entry :
    readPanel ([2] ++ blank 15) = none ∧ (readPanel (blank 16)).map (·.divisor) = some 4 ∧
    reply .writePanel (writeCell 15 0 ([2] ++ blank 15)) planned = some (some (.refused .badValue 0)) := by
  decide +kernel

/-- A plan entry. -/
def planEntry (planned captureFirst captureCount symbolFirst symbolCount : Nat) : List Byte :=
  leBytes 2 planned ++ leBytes 2 captureFirst ++ leBytes 2 captureCount ++ leBytes 2 symbolFirst ++
    leBytes 2 symbolCount

theorem test_plan_states :
    (∀ c ∈ [writeCell 4 31 (planEntry 1 1 894 897 103), writeCell 4 30 (planEntry 0 0 0 0 0 ++ blank 10)],
      wholeCell c = true ∧ c.code = 1) ∧
    mayDispatch planned = true ∧ planned.pru.power ≠ .sleep ∧ planned.ce.engine = .idle ∧
    planned.redecode = none ∧ (planEntry 1 1 894 897 103).length = 10 ∧
    byteAt (planEntry 1 1 894 897 103) 0 ≤ 1 ∧ planned.segments[(31 : Fin 32)].holdCount = 0 ∧
    reading.segments[(0 : Fin 32)].holdCount ≠ 0 ∧ 896 < 1 + 896 ∧ (31 : Fin 32).val = (30 : Fin 32).val + 1 := by
  decide

/-- Held, BadValue, OutOfRegion, Overlap and Done (R50), and a first entry kept where the second is held. -/
theorem test_plan_replies :
    reply .writeSegmentPlan (writeCell 4 0 (planEntry 0 0 0 0 0)) reading = some (some (.refused .held 0)) ∧
    reply .writeSegmentPlan (writeCell 4 31 (planEntry 1 1 0 0 0)) planned =
      some (some (.refused .badValue 31)) ∧
    reply .writeSegmentPlan (writeCell 4 31 (planEntry 1 1 896 0 0)) planned =
      some (some (.refused .outOfRegion 31)) ∧
    reply .writeSegmentPlan (writeCell 4 31 (planEntry 1 0 1 0 0)) planned =
      some (some (.refused .overlap 31)) ∧
    reply .writeSegmentPlan (writeCell 4 31 (planEntry 1 1 894 897 103)) planned =
      some (some (.done [])) := by decide +kernel

/-- The second entry of a WRITE is refused Overlap for a block of the first, block 11, and the first stays
written (R50, R51). -/
theorem test_plan_second_entry :
    (after (exec .writeSegmentPlan
      (with1 (writeCell 4 5 (planEntry 1 10 2 0 0 ++ planEntry 1 11 1 0 0)) planned)) fun t =>
        (t.lp.slot.map (·.body), t.plan[(5 : Fin 32)].planned, t.plan[(6 : Fin 32)].planned)) =
      some (some (.refused .overlap 6), true, false) := by decide +kernel

/-- READ of the last entry of a table, past it, and of a table above 16. -/
theorem test_read_states :
    (∀ c ∈ [cell 2 [13, 255, 255], cell 2 [13, 0, 255], cell 2 [17, 0, 1], cell 2 [15, 1, 1]],
      wholeCell c = true ∧ c.code = 2) ∧ mayDispatch s0 = true ∧ s0.pru.power ≠ .sleep ∧
    (1 : Nat) ≤ (1 : Byte).toNat ∧ (255 : Byte).toNat < 256 ∧ min 255 (min (256 - 255) ((60 - 2) / 2)) = 1 := by
  decide

/-- Pod A reads back as 1400 mV and 50 mV; 29 palette entries fit in a cell (R1, R169). -/
theorem test_read_replies :
    reply .read (cell 2 [1, 0, 1]) s0 = some (some (.done [0, 1, 0x78, 0x05, 50, 0])) ∧
    (after (exec .read (with1 (cell 2 [13, 0, 255]) s0)) fun t =>
      t.lp.slot.map fun r => match r.body with | .done d => d.length | _ => 0) = some (some 60) := by
  decide +kernel

/-! ### Status and power -/

/-- STATUS of each report at its last number and one past it. -/
theorem test_status_states :
    (∀ c ∈ [cell 13 [], cell 11 [0, 255], cell 11 [5, 0], cell 11 [1, 31], cell 11 [1, 32], cell 11 [2, 3],
        cell 11 [2, 4], cell 11 [3, 2], cell 11 [3, 3], cell 11 [4, 2], cell 11 [4, 3]],
      wholeCell c = true) ∧ mayDispatch s0 = true ∧ (31 : Byte).toNat = (31 : Fin 32).val ∧
    4 < (5 : Byte).toNat := by decide

theorem test_status_replies :
    reply .statusDevice (cell 11 [0, 255]) { s0 with pru.power := .sleep } =
      some (some (.status .device)) ∧
    reply .statusSegment (cell 11 [1, 32]) s0 = some (some (.refused .badValue 0)) ∧
    reply .statusLane (cell 11 [2, 3]) s0 = some (some (.status (.lane 3))) ∧
    reply .statusSequencer (cell 11 [3, 3]) s0 = some (some (.refused .badValue 0)) ∧
    reply .statusRender (cell 11 [4, 2]) s0 = some (some (.status (.render 2))) ∧
    reply .reset (cell 13 []) s0 = some (some .reset) := by decide +kernel

/-- A pod that became present; its Changed flag is reported once (R4, R178). -/
theorem test_device_report_clears_changed :
    (after (exec .sendReply { replying (.status .device) with
        pfe.pods := s0.pfe.pods.set 2 { emptyPod with present := true, changed := true } }) fun t =>
      (t.lp.sending.map fun c => c.payload.getD 3 0, t.pfe.pods[(2 : Fin 4)].changed)) =
      some (some 0x44, false) := by decide +kernel

/-- Some fields of the reports: the segment is Closed with 8 records and its end at tick 800, no trigger
position, and one hold; a history entry of stage 2's Secondary that fired at tick 9; an absent outcome (R186).
-/
theorem test_report_fields :
    (let b := reportBytes reading (.segment 0)
     byteAt b 0 = 2 ∧ numAt b 10 4 = 8 ∧ numAt b 20 6 = 800 ∧ numAt b 32 4 = 4294967295 ∧ byteAt b 56 = 1) ∧
    (let h : HistoryEntry := { stage := 2, secondary := true, target := .fire, time := 9 }
     let b := reportBytes { s0 with ts.history := [h] } (.sequencer 1)
     byteAt b 0 = 1 ∧ byteAt b 1 = 0x8A ∧ numAt b 2 6 = 9) ∧
    byteAt (reportBytes s0 (.render 0)) 3 = 255 ∧ numAt (reportBytes s0 (.render 2)) 1 2 = 65535 := by
  decide +kernel

/-- A part in Standby and one in Sleep. -/
def inState (p : PowerState) : State := { s0 with pru.power := p }

theorem test_power_states :
    Ready (cell 12 [2]) [] (with1 (cell 12 [2]) s0) ∧ Ready (cell 12 [3]) [] (with1 (cell 12 [3]) s0) ∧
    2 < (3 : Byte).toNat ∧ Ready (cell 12 [1]) [] (with1 (cell 12 [1]) (inState .standby)) ∧
    Ready (cell 12 [0]) [] (with1 (cell 12 [0]) (inState .sleep)) ∧ s0.ce.engine = .idle ∧
    s0.re.job = .idle ∧ s0.redecode = none ∧ s0.lp.readout = none ∧ reading.lp.readout ≠ none :=
  ⟨ready_with1 (by decide) (by decide), ready_with1 (by decide) (by decide), by decide,
    ready_with1 (by decide) (by decide), ready_with1 (by decide) (by decide), by decide, by decide, by decide,
    by decide, by decide⟩

theorem test_power_replies :
    reply .powerSleep (cell 12 [2]) reading = some (some (.refused .busy 0)) ∧
    reply .powerStandby (cell 12 [1]) s0 = some (some (.done [])) ∧
    (after (exec .powerRun (with1 (cell 12 [0]) (inState .sleep))) fun t =>
      (t.lp.slot.isNone, t.pru.wake.map (·.target))) = some (true, some .run) := by decide +kernel

/-- An idle timer of 2 ms at its expiry and one tick before. -/
def idling (now : Time) : State := { s0 with time := now, pru.table := { defaultPowerEntry with exponent := 1 } }

theorem test_idle_timeout_state :
    (idling 800000).pru.power = .run ∧ (idling 800000).pru.table.exponent ≠ 0 ∧
    (idling 800000).lp.inProgress = none ∧ 2 ^ 1 * 400000 ≤ (timeDiff 800000 (idling 800000).pru.idleStart).toNat ∧
    (after (exec .idleTimeout (idling 800000)) fun t => t.pru.power) = some .standby ∧
    (after (exec .idleTimeout (idling 799999)) fun t => t.pru.power) = some .run := by decide +kernel

/-- A part asleep that has seen channels 5 and 31 change. -/
def woken : State := { s0 with pru := { s0.pru with power := .sleep, mask := 0xFFFFFFFF, changed := 0x80000020 } }

/-- A part whose wake to Standby is under way, begun by a POWER. -/
def waking : State :=
  { s0 with
    pru := { s0.pru with power := .sleep, wake := some { cause := .link, target := .standby } }
    lp.inProgress := some (.wake 7) }

theorem test_wake_states :
    woken.pru.power = .sleep ∧ woken.pru.wake = none ∧ woken.pru.changed.getLsbD 5 = true ∧
    (∀ j : Fin 32, j < 5 → woken.pru.changed.getLsbD j = false) ∧
    waking.pru.wake = some { cause := .link, target := .standby } ∧ waking.su.resizing = false ∧
    waking.lp.inProgress = some (.wake 7) := by decide

/-- The wake names channel 5 (R183), and the POWER is answered at its end. -/
theorem test_wakes :
    (after (exec .wakeActivity woken) fun t => t.pru.wake) =
      some (some { cause := .activity 5, target := .run }) ∧
    (after (exec .wakeComplete waking) fun t => (t.pru.power, t.lp.slot.map (·.tag))) =
      some (.standby, some 7) := by decide +kernel

/-- A table entry as it stands is one that a WRITE could have stored, and reads back (R169). -/
theorem test_entries_read_back :
    readAcq (entryBytes s0 0 0) = some s0.ce.table ∧ readPod (entryBytes s0 1 0) = s0.pfe.table[(0 : Fin 4)] ∧
    readGen (entryBytes s0 2 0) = some s0.gen.table[(0 : Fin 2)] ∧
    readPlan (entryBytes planned 4 31) = some planned.plan[(31 : Fin 32)] ∧
    readTerm (entryBytes firing 5 0) = some firing.ts.terms[(0 : Fin 16)] ∧
    readLane (entryBytes (stretching 0) 8 0) = some (stretching 0).laneTable[(0 : Fin 4)] ∧
    readPanel (entryBytes s0 15 0) = some s0.su.panel := by decide +kernel

/-- No word spells a step: the table gives its rows no bits. -/
theorem test_no_word_spells_a_step : (s0.withFetchWord 8 0).pending = [] := by decide

end Sys2Proof.Tests.Slice0
end

section
/-! SUPPORT. The Capture Engine and the segments after a power-on or pin reset (R43). -/

namespace Sys2Proof.Machine

/-! ### The two cold resets -/

section

variable (cause : ResetCause) (strap : DramSize) (s : State)

theorem exec_powerOnReset : exec (.powerOnReset strap) s = .next (coldReset .power strap s) := rfl

theorem exec_pinReset : exec (.pinReset strap) s = .next (coldReset .pin strap s) := rfl

/-- Both resets are one `coldReset`, and which cause it records depends on the step alone. -/
theorem exec_eq_coldReset_of_cold {strap : DramSize} {i : Instr}
    (hi : i = .powerOnReset strap ∨ i = .pinReset strap) :
    ∃ cause, ∀ s, exec i s = .next (coldReset cause strap s) := by
  obtain rfl | rfl := hi
  · exact ⟨.power, exec_powerOnReset strap⟩
  · exact ⟨.pin, exec_pinReset strap⟩

/-! ### What a cold reset leaves -/

@[simp] theorem coldReset_ce : (coldReset cause strap s).ce = idleCe := rfl

@[simp] theorem coldReset_plan_getElem (n : Fin 32) : (coldReset cause strap s).plan[n] = unplanned := by
  simp [coldReset]

@[simp] theorem coldReset_segments_getElem (n : Fin 32) :
    (coldReset cause strap s).segments[n] = emptySegment 0 := by
  simp [coldReset]

/-- Nothing of a capture outlives a cold reset: it reads neither the DRAM nor the engine nor the segments. -/
theorem coldReset_forgets_capture (m : Memory) (c : Ce) (g : Vector SegmentStatus 32) :
    coldReset cause strap { s with dram := m, ce := c, segments := g } = coldReset cause strap s := rfl

end

/-- Settles O10: either step is one `coldReset`, which sets the engine to `idleCe`, each plan entry to
`unplanned` and each segment to `emptySegment 0`, and forgets the capture. -/
theorem powerOnAndPinResetTheCaptureEngine : Obligations.PowerOnAndPinResetTheCaptureEngine := by
  intro strap s i hi
  obtain ⟨cause, hexec⟩ := exec_eq_coldReset_of_cold hi
  refine ⟨coldReset cause strap s, hexec s, ?_⟩
  simp only [coldReset_ce]
  refine ⟨rfl, rfl, rfl, rfl, rfl, rfl, rfl, rfl, rfl, ?entries, ?forgets⟩
  case entries =>
    intro n
    rw [coldReset_plan_getElem, coldReset_segments_getElem]
    exact ⟨rfl, rfl⟩
  case forgets =>
    intro m c g
    rw [hexec, coldReset_forgets_capture]

end Sys2Proof.Machine
end

section
/-! SUPPORT. The terms of the Trigger Sequencer (R66 to R70) and the forming of Field symbols (R120). -/

namespace Sys2Proof.Machine

/-! ### Masked words and sets of bits -/

/-- Two words agree under a mask when they agree in each bit the mask selects. -/
theorem and_eq_and_iff {n : Nat} (a b mask : BitVec n) :
    a &&& mask = b &&& mask ↔
      ∀ k : Fin n, mask.getLsbD k = true → a.getLsbD k = b.getLsbD k := by
  constructor
  · intro h k hk
    have bits := congrArg (·.getLsbD k) h
    simpa only [BitVec.getLsbD_and, hk, Bool.and_true] using bits
  · intro h
    refine BitVec.eq_of_getLsbD_eq fun i hi => ?_
    cases hm : mask.getLsbD i
    · simp [hm]
    · simp [hm, h ⟨i, hi⟩ hm]

/-- A set of bits holds every bit of a required set. -/
theorem and_eq_right_iff {n : Nat} (tags required : BitVec n) :
    tags &&& required = required ↔
      ∀ i : Fin n, required.getLsbD i = true → tags.getLsbD i = true := by
  have h := and_eq_and_iff tags required required
  rw [BitVec.and_self] at h
  rw [h]
  exact forall_congr' fun i => forall_congr' fun hi => by rw [hi]

/-- A set of bits holds no bit of a forbidden set. -/
theorem and_eq_zero_iff_disjoint {n : Nat} (tags forbidden : BitVec n) :
    tags &&& forbidden = 0 ↔
      ∀ i : Fin n, forbidden.getLsbD i = true → tags.getLsbD i = false := by
  simpa using and_eq_and_iff tags 0 forbidden

/-! ### Terms (R66 to R70) -/

/-- A term is true when its kind's test and its Negate differ (R66). -/
theorem termTrue_iff {x : Presented} {expired : Vector Bool 2} {negate : Bool} {k : TermKind} {P : Prop}
    (h : kindTest x expired k = true ↔ P) :
    termTrue x expired { negate := negate, kind := k } = true ↔ (P ↔ negate = false) := by
  rw [← h]
  cases hk : kindTest x expired k <;> cases negate <;> simp [termTrue, hk]

/-- An edge is a change of the channel from the sample before that ends in the direction's level (R67). -/
theorem edgeSeen_iff (x : Presented) (k : Fin 32) (p : Polarity) :
    edgeSeen x k p = true ↔
      ∃ w, x.previous = some w ∧ w.getLsbD k ≠ x.levels.getLsbD k ∧
        (p = .rising → x.levels.getLsbD k = true) ∧ (p = .falling → x.levels.getLsbD k = false) := by
  cases hx : x.previous with
  | none => simp [edgeSeen, hx]
  | some w =>
    simp only [edgeSeen, hx, levelOf, Option.some.injEq, exists_eq_left']
    cases p with
    | rising => cases x.levels.getLsbD k <;> simp
    | falling => cases x.levels.getLsbD k <;> simp
    | either => simp

theorem meetsSense_iff (sense : Sense) (low high value : Word) :
    meetsSense sense low high value = true ↔
      (sense = .inside ∧ low.toNat ≤ value.toNat ∧ value.toNat ≤ high.toNat ∨
        sense = .outside ∧ (value.toNat < low.toNat ∨ high.toNat < value.toNat)) := by
  cases sense <;> simp [meetsSense]

/-- The kinds of symbol in the order of their codes (R185). -/
theorem kinds_getElem?_eq_some_iff (i : Nat) (k : SymbolKind) :
    [SymbolKind.start, .restart, .stop, .address, .data, .dataB, .brk, .field][i]? = some k ↔
      i = symbolKindCode k := by
  constructor
  · intro h
    obtain ⟨hi, rfl⟩ := List.getElem?_eq_some_iff.1 h
    have codes : ∀ j : Fin 8, j.val = symbolKindCode
        [SymbolKind.start, .restart, .stop, .address, .data, .dataB, .brk, .field][j] := by decide
    exact codes ⟨i, hi⟩
  · rintro rfl
    cases k <;> rfl

theorem setHolds_eq_getLsbD (set : Byte) (n : Nat) : setHolds set n = set.getLsbD n := rfl

theorem symbolMatches_iff (l : Fin 4) (kinds required forbidden : Byte) (mask value : Word) (y : Symbol) :
    symbolMatches l kinds required forbidden mask value y = true ↔
      y.lane = l ∧
        kinds.getLsbD (symbolKindCode y.kind) = true ∧
        (∀ k : Fin 32, mask.getLsbD k = true → y.value.getLsbD k = value.getLsbD k) ∧
        ∀ i : Fin 8, (required.getLsbD i = true → y.tags.getLsbD i = true) ∧
          (forbidden.getLsbD i = true → y.tags.getLsbD i = false) := by
  simp only [symbolMatches, Bool.and_eq_true, beq_iff_eq, setHolds_eq_getLsbD, and_eq_and_iff,
    and_eq_right_iff, and_eq_zero_iff_disjoint, forall_and, and_assoc]

theorem kindTest_never (x : Presented) (expired : Vector Bool 2) :
    kindTest x expired .never = true ↔ False := by
  simp [kindTest]

theorem kindTest_pattern (x : Presented) (expired : Vector Bool 2) (mask value : Word) :
    kindTest x expired (.pattern mask value) = true ↔
      ∀ k : Fin 32, mask.getLsbD k = true → x.levels.getLsbD k = value.getLsbD k :=
  beq_iff_eq.trans (and_eq_and_iff x.levels value mask)

theorem kindTest_symbol (x : Presented) (expired : Vector Bool 2) (l : Fin 4)
    (kinds required forbidden : Byte) (mask value : Word) :
    kindTest x expired (.symbol l kinds required forbidden mask value) = true ↔
      ∃ y ∈ x.symbols, symbolMatches l kinds required forbidden mask value y = true :=
  List.any_eq_true

theorem kindTest_field (x : Presented) (expired : Vector Bool 2) (f : Fin 32) (sense : Sense)
    (low high : Word) :
    kindTest x expired (.field f sense low high) = true ↔
      ∃ y ∈ x.symbols, y.kind = .field ∧ y.position = f.val ∧ meetsSense sense low high y.value = true := by
  simp only [kindTest, List.any_eq_true, Bool.and_eq_true, beq_iff_eq, and_assoc]

/-! ### The sources of a field (R119, R120) -/

/-- A buffer that holds a source at each position of a span gives those sources. -/
theorem sourcesFrom_eq_some {fx : List FxSource} {es : List FxSource} {p : Nat}
    (h : ∀ i < es.length, sourceAt fx (p + i) = es[i]?) : sourcesFrom fx p es.length = some es := by
  induction es generalizing p with
  | nil => rfl
  | cons e es ih =>
    have first : sourceAt fx p = some e := h 0 (by simp)
    have rest : sourcesFrom fx (p + 1) es.length = some es := by
      refine ih fun i hi => ?_
      have next := h (i + 1) (Nat.succ_lt_succ hi)
      rwa [List.getElem?_cons_succ, ← Nat.add_assoc, Nat.add_right_comm] at next
    simp [sourcesFrom, first, rest]

/-- An entry that names the lane and the last position of its span forms its Field symbol. -/
theorem formField_eq_some {s : State} {number : Fin 32} {es : List FxSource}
    (enabled : s.fieldMap[number].enable = true) (span : es.length = s.fieldMap[number].span)
    (held : ∀ i < s.fieldMap[number].span, sourceAt s.lanes[s.fieldMap[number].lane].fx
      (s.fieldMap[number].first + i) = es[i]?) :
    formField s s.fieldMap[number].lane (s.fieldMap[number].first + s.fieldMap[number].span - 1) number =
      some (fieldSymbol number.val s.fieldMap[number]
        (wordWidth s.laneTable[s.fieldMap[number].lane].kind) es) := by
  have sources := sourcesFrom_eq_some (span ▸ held)
  rw [span] at sources
  rw [formField, if_pos ⟨enabled, rfl, rfl⟩, sources, Option.map_some]

/-! ### The value of a field (R120) -/

theorem concatenation_append_singleton (width : Nat) (es : List FxSource) (e : FxSource) :
    concatenation width (es ++ [e]) =
      2 ^ width * concatenation width es + e.value.toNat % 2 ^ width := by
  simp [concatenation, Nat.mul_comm]

/-- Bit j of a concatenation is bit j mod width of the source j / width places before the last. -/
theorem testBit_concatenation (width : Nat) (es : List FxSource) (j : Nat) :
    (concatenation width es).testBit j = true ↔ j < width * es.length ∧
      ((es.map (·.value)).reverse.getD (j / width) 0).getLsbD (j % width) = true := by
  induction es using List.reverseRecOn generalizing j with
  | nil => simp [concatenation]
  | append_singleton es e ih =>
    have size : width * (es ++ [e]).length = width * es.length + width := by simp [Nat.mul_succ]
    rw [concatenation_append_singleton,
      Nat.testBit_two_pow_mul_add _ (Nat.mod_lt _ (Nat.two_pow_pos width)), size]
    by_cases hj : j < width
    · have within : j < width * es.length + width := by omega
      simp [hj, Nat.div_eq_of_lt hj, Nat.mod_eq_of_lt hj, BitVec.getLsbD, within]
    · rw [if_neg hj, ih]
      rcases Nat.eq_zero_or_pos width with rfl | pos
      · simp
      have place : j / width = (j - width) / width + 1 := by
        rw [← Nat.add_div_right _ pos, Nat.sub_add_cancel (by omega)]
      have offset : j % width = (j - width) % width := Nat.mod_eq_sub_mod (by omega)
      have within : j - width < width * es.length ↔ j < width * es.length + width := by omega
      simp [place, offset, within]

/-- Bit i of a field value is bit i past the start bit of the concatenation, inverted where the entry
says so, and no bit stands at or past the width. -/
theorem testBit_fieldValue (f : FieldEntry) (joined i : Nat) :
    (fieldValue f joined).testBit i = true ↔
      i < f.width ∧ (f.invert = true ↔ ¬joined.testBit (f.startBit + i) = true) := by
  have taken : joined / 2 ^ f.startBit % 2 ^ f.width < 2 ^ f.width := Nat.mod_lt _ (Nat.two_pow_pos _)
  cases hf : f.invert
  · simp [fieldValue, hf, Nat.testBit_mod_two_pow, Nat.testBit_div_two_pow, Nat.add_comm]
  · simp [fieldValue, hf, Nat.sub_sub, Nat.add_comm 1, Nat.testBit_two_pow_sub_succ taken,
      Nat.testBit_mod_two_pow, Nat.testBit_div_two_pow, Nat.add_comm i]
    omega

theorem fieldSymbol_value_getLsbD (number : Nat) (f : FieldEntry) (width : Nat) (es : List FxSource)
    (i : Nat) (fits : f.width ≤ 32) :
    (fieldSymbol number f width es).value.getLsbD i = true ↔ i < f.width ∧
      (f.invert = true ↔ ¬(f.startBit + i < width * es.length ∧
        ((es.map (·.value)).reverse.getD ((f.startBit + i) / width) 0).getLsbD
          ((f.startBit + i) % width) = true)) := by
  rw [← testBit_concatenation, ← testBit_fieldValue]
  have bound : (fieldValue f (concatenation width es)).testBit i = true → i < 32 := fun h =>
    ((testBit_fieldValue f _ i).1 h).1.trans_le fits
  simpa [fieldSymbol, BitVec.getLsbD_ofNat] using bound

/-! ### The tags of a field (R120) -/

theorem getLsbD_foldl_tags (es : List FxSource) (t : Byte) (i : Nat) :
    (es.foldl (fun t e => t ||| e.tags) t).getLsbD i = true ↔
      t.getLsbD i = true ∨ ∃ e ∈ es, e.tags.getLsbD i = true := by
  induction es generalizing t with
  | nil => simp
  | cons e es ih => simp [ih, or_assoc]

/-- The four tags a Field symbol can take have the bits 0, 1, 2 and 4 (R185). -/
theorem getLsbD_takenTags (i : Nat) :
    (tagParity ||| tagFraming ||| tagShort ||| tagTimeout).getLsbD i = true ↔ i ∈ [0, 1, 2, 4] := by
  by_cases hi : i < 8
  · have bits : ∀ j : Fin 8, (tagParity ||| tagFraming ||| tagShort ||| tagTimeout).getLsbD j = true ↔
        j.val ∈ [0, 1, 2, 4] := by decide
    exact bits ⟨i, hi⟩
  · rw [BitVec.getLsbD_of_ge _ _ (by omega)]
    simp
    omega

theorem fieldTags_getLsbD (es : List FxSource) (i : Nat) :
    (fieldTags es).getLsbD i = true ↔ i ∈ [0, 1, 2, 4] ∧ ∃ e ∈ es, e.tags.getLsbD i = true := by
  rw [fieldTags, BitVec.getLsbD_and, Bool.and_eq_true, getLsbD_takenTags, getLsbD_foldl_tags, and_comm]
  simp

/-! ### The start and duration of a field (R120) -/

theorem fieldSymbol_start (number : Nat) (f : FieldEntry) (width : Nat) {es : List FxSource} {a : FxSource}
    (first : es.head? = some a) : (fieldSymbol number f width es).start = a.start := by
  simp [fieldSymbol, first]

theorem fieldSymbol_duration (number : Nat) (f : FieldEntry) (width : Nat) {es : List FxSource}
    {a b : FxSource} (first : es.head? = some a) (last : es.getLast? = some b) :
    (fieldSymbol number f width es).duration = min (timeDiff b.stop a.start).toNat 16777215 := by
  simp [fieldSymbol, first, last, carriedDuration, ticksAfter, Config.maxDuration]

/-! ### The obligation -/

/-- Settles O21: a term is its kind's test, read bit by bit, against its Negate; a Field symbol is
`fieldSymbol` of the sources its span holds, whose value and tags are read bit by bit. -/
theorem fieldTermTestsTheFieldSymbols : Obligations.FieldTermTestsTheFieldSymbols := by
  refine ⟨?field, ?others, ?formed⟩
  case field =>
    intro x expired f sense low high negate
    refine termTrue_iff ((kindTest_field x expired f sense low high).trans ?_)
    simp only [meetsSense_iff]
  case others =>
    intro x expired negate
    refine ⟨?never, ?pattern, ?edge, ?symbol, ?counter⟩
    case never => simpa using termTrue_iff (negate := negate) (kindTest_never x expired)
    case pattern => exact fun mask value => termTrue_iff (kindTest_pattern x expired mask value)
    case edge => exact fun k p => termTrue_iff (edgeSeen_iff x k p)
    case symbol =>
      intro l kinds required forbidden mask value
      refine termTrue_iff ((kindTest_symbol x expired l kinds required forbidden mask value).trans ?_)
      simp only [symbolMatches_iff, kinds_getElem?_eq_some_iff, exists_eq_left]
    case counter => exact fun c => termTrue_iff Iff.rfl
  case formed =>
    rintro s _ number _ _ es a b rfl enabled rfl fits rfl span first last held
    refine ⟨_, formField_eq_some enabled span held, rfl, rfl, rfl, ?start, ?duration, ?value, ?tags⟩
    case start => exact fieldSymbol_start number _ _ first
    case duration => exact fun _ => fieldSymbol_duration number _ _ first last
    case value => exact span ▸ fun i => fieldSymbol_value_getLsbD number _ _ es i fits
    case tags => exact fieldTags_getLsbD es

end Sys2Proof.Machine
end

section
/-! SUPPORT. READ of the stored entries of a table (R169). -/

namespace Sys2Proof.Machine

/-! ### The stored entries -/

/-- The dispatch of a command changes none of the tables that READ reads. -/
@[simp] theorem entryBytes_popped (rest : List LinkCell) (s : State) (t i : Nat) :
    entryBytes (popped rest s) t i = entryBytes s t i := by
  simp only [entryBytes, popped_ce, popped_pfe, popped_gen, popped_mp, popped_plan, popped_ts,
    popped_laneTable, popped_fieldMap, popped_re, popped_su, popped_pru]

/-- The data of a READ reply: the first index, the number of entries and the entries (R169). -/
theorem readData_byte (s : State) (t : Nat) (first : Byte) (count : Nat) :
    readData s t first.toNat count =
      [first, BitVec.ofNat 8 (readCount t first.toNat count)] ++
        (List.range (readCount t first.toNat count)).flatMap fun i => entryBytes s t (first.toNat + i) := by
  simp [readData, leBytes]

@[simp] theorem readData_popped (rest : List LinkCell) (s : State) (t first count : Nat) :
    readData (popped rest s) t first count = readData s t first count := by
  simp only [readData, entryBytes_popped]

/-! ### The three outcomes of READ -/

section

variable {c : LinkCell} {table first count : Byte} (payload : c.payload = [table, first, count]) (s : State)
include payload

theorem readOwner_badTable (above : 16 < table.toNat) :
    readOwner c s = putReply c.tag (.refused .badTable 0) s := by
  simp [readOwner, byteAt, payload, above]

theorem readOwner_badIndex (within : table.toNat ≤ 16) (past : tableEntries table.toNat ≤ first.toNat) :
    readOwner c s = putReply c.tag (.refused .badIndex 0) s := by
  simp [readOwner, byteAt, payload, within.not_gt, past]

theorem readOwner_done (within : table.toNat ≤ 16) (stored : first.toNat < tableEntries table.toNat) :
    readOwner c s = putReply c.tag (.done (readData s table.toNat first.toNat count.toNat)) s := by
  simp [readOwner, byteAt, payload, within.not_gt, stored.not_ge]

end

/-- A ready READ of three payload bytes, outside Sleep, is carried out by its owner. -/
theorem exec_read_of_ready {c : LinkCell} {rest : List LinkCell} {s : State} (ready : Ready c rest s)
    (code : c.code = 2) (length : c.payload.length = 3) (power : s.pru.power ≠ .sleep) :
    exec .read s = .next (readOwner c (popped rest s)) :=
  dispatch_owner ready (commandRow_read code) (by simp [length]) fun asleep => absurd asleep power

/-! ### The obligation -/

/-- Settles O56: a ready READ is its owner's reply in the popped state, whose stored entries are those of the
state before; the owner checks the table, then the index, and its frame is that of every dispatch. -/
theorem readReturnsTheStoredEntries : Obligations.ReadReturnsTheStoredEntries := by
  rintro c rest s table first count _ _ _ ready code payload power rfl rfl rfl
  have hexec := exec_read_of_ready ready code (by simp [payload]) power
  refine ⟨?badTable, ?badIndex, ?done⟩
  case badTable =>
    intro above
    exact refuses_of_exec (readOwner_badTable payload (popped rest s) above ▸ hexec)
  case badIndex =>
    intro within past
    exact refuses_of_exec (readOwner_badIndex payload (popped rest s) within past ▸ hexec)
  case done =>
    intro within stored
    refine ⟨_, hexec, ?answer, ?frame⟩
    case answer =>
      rw [readOwner_done payload (popped rest s) within stored, readData_popped,
        readData_byte]
      exact ⟨by simp, rfl⟩
    case frame =>
      exact ((popped_frame rest s).mono (by decide)).trans (readOwner_frame c _)

end Sys2Proof.Machine
end

section
/-! SUPPORT. The machine's own steps, and laws of the state that rest on some of its parts: what a step keeps
of them. -/

namespace Sys2Proof.Machine

/-! ### Laws that rest on some parts of the state -/

/-- A law of the state that says something of the listed parts alone. -/
def RestsOn (ps : List Part) (P : State → Prop) : Prop :=
  ∀ s t : State, (∀ p ∈ ps, p.same s t) → P s → P t

/-- A law is kept by a change of other parts than those it rests on. -/
theorem RestsOn.of_frame {ps qs : List Part} {P : State → Prop} {s t : State} (rests : RestsOn ps P)
    (h : ChangesOnly qs s t) (apart : ∀ p ∈ ps, p ∉ qs) (hs : P s) : P t :=
  rests s t (fun p hp => h p (apart p hp)) hs

/-- The parts that the queue of offered steps and the clock change by themselves. -/
def clockParts : List Part := [.pending, .time, .prescaler, .genOutputs, .pods, .idleStart]

/-- A row of the opcode table can change one of some parts. -/
def touches (i : Instr) (ps : List Part) : Bool := ps.any fun p => (rowParts i).contains p

theorem not_mem_of_not_touches {i : Instr} {ps : List Part} (h : touches i ps ≠ true) :
    ∀ p ∈ ps, p ∉ rowParts i := by
  intro p hp hi
  exact h (List.any_eq_true.2 ⟨p, hp, List.contains_iff_mem.2 hi⟩)

/-- A law that rests on no part of the clock is kept by every step, if every row that can change one of the
law's parts keeps it. -/
theorem step_keeps {ps : List Part} {P : State → Prop} (rests : RestsOn ps P)
    (apart : ∀ p ∈ ps, p ∉ clockParts)
    (rows : ∀ i s t, touches i ps = true → P s → exec i s = .next t → P t)
    {s t : State} (hs : P s) (h : step s = .next t) : P t := by
  have row : ∀ i s t, P s → exec i s = .next t → P t := by
    intro i s t hs h
    by_cases touched : touches i ps = true
    · exact rows i s t touched hs h
    · exact rests.of_frame (exec_frame h) (not_mem_of_not_touches touched) hs
  have kept : ∀ {qs : List Part}, (∀ p ∈ qs, p ∈ clockParts) → ∀ p ∈ ps, p ∉ qs :=
    fun sub p hp hq => apart p hp (sub p hq)
  obtain ⟨i, rest, _, h⟩ | ⟨i, _, _, h⟩ | ⟨_, _, rfl⟩ := step_cases h
  · exact row i _ t (rests.of_frame (update_pending s rest) (kept (by decide)) hs) h
  · exact row i s t hs h
  · exact rests.of_frame (advance_frame s) (kept (by decide)) hs

/-! ### The state right after reset -/

/-- The reset state is that of a power-on reset with the 64 MiB strap. -/
theorem reset_eq_coldReset : State.reset = coldReset .power .mib64 State.reset := by
  rfl

end Sys2Proof.Machine
end

section
/-! SUPPORT. The step of the machine, the laws right after reset, and the canonical form of the DRAM. -/

namespace Sys2Proof.Machine

/-! ### The next tick (assumption 5) -/

/-- The next tick out of Sleep: what it moves on, before the idle timer restarts in a busy tick. -/
def ticked (s : State) : State :=
  { s with time := s.time + 1, prescaler := s.prescaler + 1, gen := tickGenerator s.gen
           pfe := tickPods s.pfe }

theorem advance_sleep {s : State} (h : s.pru.power = .sleep) : advance s = s := if_pos h

/-- Out of Sleep a tick moves on as `ticked` says, and may restart the idle timer besides. -/
theorem advance_awake {s : State} (h : s.pru.power ≠ .sleep) :
    ∃ idle, advance s = { ticked s with pru.idleStart := idle } := by
  have watched : ∃ idle, watchIdle (ticked s) = { ticked s with pru.idleStart := idle } := by
    unfold watchIdle
    split
    · exact ⟨_, restartIdle_eq _⟩
    · exact ⟨_, rfl⟩
  obtain ⟨idle, watched⟩ := watched
  exact ⟨idle, (if_neg h).trans watched⟩

theorem tickGenerator_output (g : Gen) (i : Fin 2) : (tickGenerator g).outputs[i] = tickOutput g.outputs[i] := by
  match i with
  | 0 => rfl
  | 1 => rfl

theorem mapPods_getElem (f : PodState → PodState) (p : Pfe) (pod : Fin 4) :
    (mapPods f p).pods[pod] = f p.pods[pod] := by
  match pod with
  | 0 => rfl
  | 1 => rfl
  | 2 => rfl
  | 3 => rfl

theorem step_idle {s : State} (h : s.pending = []) : step s = idleStep s := by
  simp [step, h]

/-- Settles O1. -/
theorem stepRunsTheFrontCommand : Obligations.StepRunsTheFrontCommand := fun _ _ _ => rfl

/-- Settles O2: with no step offered a step is `idleStep`, and with nothing due that is `advance`. -/
theorem emptyQueueRunsTheDueStepOrOneTick : Obligations.EmptyQueueRunsTheDueStepOrOneTick := by
  intro s empty
  rw [step_idle empty]
  have idle : dueStep s = none → idleStep s = .next (advance s) := fun none_due => by
    simp [idleStep, none_due]
  refine ⟨?due, ?sleep, ?awake⟩
  case due =>
    intro i due
    simp [idleStep, due]
  case sleep =>
    intro none_due sleep
    rw [idle none_due, advance_sleep sleep]
  case awake =>
    intro none_due awake
    obtain ⟨start, ticks⟩ := advance_awake awake
    refine ⟨advance s, idle none_due, ?_, ?_, ?_, ?_, advance_frame s⟩
    all_goals rw [ticks]
    · rfl
    · rfl
    · exact tickGenerator_output s.gen
    · exact mapPods_getElem _ s.pfe

/-! ### The laws right after a cold reset -/

theorem defaultRegions_inside : ∀ strap : DramSize, 1 ≤ (defaultRegions strap).captureEnd ∧
    (defaultRegions strap).captureEnd ≤ (defaultRegions strap).symbolEnd ∧
    (defaultRegions strap).symbolEnd ≤ totalBlocks strap
  | .mib64 | .mib128 | .mib256 => by decide

theorem defaultRegions_frames : ∀ strap : DramSize, (defaultRegions strap).symbolEnd +
    2 * bufferBlocks defaultPanel.width defaultPanel.height ≤ totalBlocks strap
  | .mib64 | .mib128 | .mib256 => by decide

section

variable (cause : ResetCause) (strap : DramSize) (s : State)

theorem coldReset_planLaw : PlanLaw (coldReset cause strap s) := by
  have unplanned_at : ∀ n : Fin 32, (coldReset cause strap s).plan[n].planned ≠ true := by
    intro n
    rw [coldReset_plan_getElem]
    exact Bool.false_ne_true
  exact {
    regions := defaultRegions_inside strap
    frames := defaultRegions_frames strap
    captureSpans := fun n planned => absurd planned (unplanned_at n)
    symbolSpans := fun n planned => absurd planned (unplanned_at n)
    disjoint := fun m _ _ planned => absurd planned (unplanned_at m) }

theorem coldReset_engineLaw : EngineLaw (coldReset cause strap s) where
  idle := by simp [idleCe]
  empty := fun _ => rfl
  filling := fun n => by
    rw [coldReset_segments_getElem, coldReset_ce]
    simp [emptySegment, idleCe]

theorem coldReset_holdLaw : HoldLaw (coldReset cause strap s) where
  job := by simp [coldReset, idleRe]
  holds := fun n => by
    rw [coldReset_segments_getElem]
    rfl

theorem coldReset_queueLaw : QueueLaw (coldReset cause strap s) where
  commands := Nat.zero_le _
  records := Nat.zero_le _
  staged := Nat.zero_le _
  history := Nat.zero_le _
  symbols := fun l => by simp [coldReset, idleLane]
  horizon := Nat.zero_le _

end

/-- Settles O3: the reset state is that of a power-on reset, which keeps each law. -/
theorem resetStateKeepsTheLaws : Obligations.ResetStateKeepsTheLaws := by
  rw [Obligations.ResetStateKeepsTheLaws, reset_eq_coldReset]
  exact ⟨rfl, coldReset_planLaw _ _ _, coldReset_engineLaw _ _ _, coldReset_holdLaw _ _ _,
    coldReset_queueLaw _ _ _⟩

/-! ### The canonical form of the DRAM -/

theorem restsOn_memWf : RestsOn [.dram] fun s => memWf s.dram = true := by
  intro s t same hs
  have dram : t.dram = s.dram := same .dram (by decide)
  rwa [dram]

section

variable {s t : State}

/-- A drain stores one record, or ends the capture and stores nothing. -/
theorem drainRecord_memWf {n : Fin 32} {r : Record} {rest : List Record} (hs : memWf s.dram = true)
    (h : drainRecord n r rest s = .next t) : memWf t.dram = true := by
  unfold drainRecord at h
  dsimp only at h
  split at h
  · obtain rfl := Host.Outcome.next.inj h
    have kept := restsOn_memWf.of_frame (memoryLimit_frame n s) (by decide) hs
    exact restsOn_memWf.of_frame (endRuns_frame _) (by decide) kept
  · split at h
    · obtain rfl := Host.Outcome.next.inj h
      refine restsOn_memWf.of_frame (afterDrain_frame _) (by decide) ?_
      refine restsOn_memWf.of_frame (noteRender_frame _ _ _ (fun _ => rfl)) (by decide) ?_
      exact memWf_memWriteBytes _ _ _ hs
    · cases h

/-- A symbol that the span takes is stored, and a refused one leaves the DRAM alone. -/
theorem mergeSymbol_memWf {n : Fin 32} {l : Fin 4} {y : Symbol} (hs : memWf s.dram = true)
    (h : mergeSymbol n l y s = .next t) : memWf t.dram = true := by
  unfold mergeSymbol at h
  dsimp only at h
  split at h
  · obtain rfl := Host.Outcome.next.inj h
    split <;> exact hs
  · split at h
    · obtain rfl := Host.Outcome.next.inj h
      refine restsOn_memWf.of_frame (noteRender_frame _ _ _ (fun _ => rfl)) (by decide) ?_
      exact memWf_memWriteBytes _ _ _ hs
    · cases h

theorem renderPixelWrite_memWf (hs : memWf s.dram = true) (h : execRenderPixelWrite s = .next t) :
    memWf t.dram = true := by
  unfold execRenderPixelWrite at h
  dsimp only at h
  repeat' split at h
  all_goals cases h
  case h_1.isTrue.refl => exact memWf_memWriteBytes _ _ _ hs
  all_goals exact hs

theorem fillBlock_memWf (hs : memWf s.dram = true) (h : execFrameBufferFillBlock s = .next t) :
    memWf t.dram = true := by
  unfold execFrameBufferFillBlock at h
  dsimp only at h
  repeat' split at h
  all_goals cases h
  case h_1.isTrue.refl => exact memWf_memClear _ _ _ hs
  all_goals exact hs

/-- Each row that can write the DRAM stores bytes or clears them. -/
theorem exec_memWf {i : Instr} (touched : touches i [.dram] = true) (hs : memWf s.dram = true)
    (h : exec i s = .next t) : memWf t.dram = true := by
  cases i
  case powerOnReset => cases h; rfl
  case pinReset => cases h; rfl
  case writeQueueDrain =>
    simp only [exec, execWriteQueueDrain] at h
    repeat' split at h
    case h_1 => exact drainRecord_memWf hs h
    all_goals cases h; exact hs
  case symbolWrite =>
    simp only [exec, execSymbolWrite] at h
    repeat' split at h
    case h_1 => exact mergeSymbol_memWf hs h
    all_goals cases h; exact hs
  case renderPixelWrite => exact renderPixelWrite_memWf hs h
  case frameBufferFillBlock => exact fillBlock_memWf hs h
  all_goals exact absurd touched Bool.false_ne_true

end

/-- Settles O4: the form rests on the DRAM alone, and each row that writes the DRAM keeps it. -/
theorem everyStepKeepsTheMemoryForm : Obligations.EveryStepKeepsTheMemoryForm := fun _ _ hs h =>
  step_keeps restsOn_memWf (by decide) (fun _ _ _ => exec_memWf) hs h

end Sys2Proof.Machine
end

section
/-! SUPPORT. The memory plan (R45, R46, R50): what each WRITE that changes regions, plan or panel checks before
it stores an entry, and that every step keeps the plan's law. -/

namespace Sys2Proof.Machine

/-! ### Spans and regions -/

theorem sharesBlock_comm (a m b n : Nat) : sharesBlock a m b n = sharesBlock b n a m := by
  simp only [sharesBlock, decide_eq_decide]
  omega

theorem spansShare_comm (p q : PlanEntry) : spansShare p q = spansShare q p := by
  rw [spansShare, spansShare, sharesBlock_comm, sharesBlock_comm p.symbolFirst]

theorem within_iff (first count lo hi : Nat) :
    within first count lo hi = true ↔ lo ≤ first ∧ first + count ≤ hi := decide_eq_true_iff

theorem spansWithin_iff (r : Regions) (p : PlanEntry) : spansWithin r p = true ↔
    p.captureFirst + p.captureCount ≤ r.captureEnd ∧
      (p.symbolCount ≠ 0 → r.captureEnd ≤ p.symbolFirst ∧ p.symbolFirst + p.symbolCount ≤ r.symbolEnd) := by
  simp only [spansWithin, Bool.and_eq_true, Bool.or_eq_true, within_iff, beq_iff_eq, Nat.zero_le, true_and,
    or_iff_not_imp_left, ne_eq]

theorem framesFit_iff (s : State) (symbolEnd width height : Nat) :
    framesFit s symbolEnd width height = true ↔
      2 * bufferBlocks width height ≤ totalBlocks s.mp.size - symbolEnd := decide_eq_true_iff

/-! ### What the checks of a WRITE leave -/

variable {s t : State}

/-- A region entry that passes the checks 2 to 4 of R46. -/
theorem regionRefusal_eq_none_iff (r : Regions) : regionRefusal r s = none ↔
    (1 ≤ r.captureEnd ∧ r.captureEnd ≤ r.symbolEnd ∧ r.symbolEnd ≤ totalBlocks s.mp.size) ∧
      (∀ n : Fin 32, s.plan[n].planned = true → spansWithin r s.plan[n] = true) ∧
      framesFit s r.symbolEnd s.su.panel.width s.su.panel.height = true := by
  have plans : s.plan.toList.any (fun p => p.planned && !spansWithin r p) = true ↔
      ¬∀ n : Fin 32, s.plan[n].planned = true → spansWithin r s.plan[n] = true := by
    simp only [List.any_eq_true, Vector.mem_toList_iff, Vector.mem_iff_getElem, Bool.and_eq_true,
      Bool.not_eq_true', not_forall, Bool.not_eq_true]
    constructor
    · rintro ⟨_, ⟨i, hi, rfl⟩, planned, outside⟩
      exact ⟨⟨i, hi⟩, planned, outside⟩
    · rintro ⟨n, planned, outside⟩
      exact ⟨_, ⟨n.val, n.isLt, rfl⟩, planned, outside⟩
  unfold regionRefusal
  split_ifs with bounds spans frames
  · simp only [false_iff]
    omega
  · simp only [false_iff]
    exact fun h => plans.1 spans h.2.1
  · simp only [false_iff]
    rintro ⟨_, _, fits⟩
    simp [fits] at frames
  · refine iff_of_true rfl ⟨by omega, ?_, by simpa using frames⟩
    exact not_not.1 (mt plans.2 spans)

theorem moveRegions_eq (r : Regions) : ∃ fill, moveRegions r s = { s with mp.regions := r, mp.fill := fill } := by
  unfold moveRegions
  dsimp only
  split
  · exact ⟨_, rfl⟩
  · exact ⟨_, rfl⟩

theorem overlapsPlan_eq_false_iff (n : Fin 32) (p : PlanEntry) : overlapsPlan n p s = false ↔
    ∀ m : Fin 32, m ≠ n → s.plan[m].planned = true → spansShare p s.plan[m] = false := by
  simp [overlapsPlan]

/-- A planned entry that passes the checks of R50. -/
theorem planRefusal_eq_none {n : Fin 32} {p : PlanEntry} (h : planRefusal n p s = none)
    (planned : p.planned = true) :
    1 ≤ p.captureCount ∧ spansWithin s.mp.regions p = true ∧ overlapsPlan n p s = false := by
  unfold planRefusal at h
  split_ifs at h with held unplanned empty outside overlap
  · simp [planned] at unplanned
  · exact ⟨by omega, by simpa using outside, by simpa using overlap⟩

theorem panelRefusal_eq_none {p : Panel} (h : panelRefusal p s = none) :
    framesFit s s.mp.regions.symbolEnd p.width p.height = true := by
  unfold panelRefusal at h
  split_ifs at h with busy fits
  simpa using fits

/-! ### The plan's law -/

theorem restsOn_planLaw : RestsOn [.size, .regions, .panel, .plan] PlanLaw := by
  intro s t same law
  have size : t.mp.size = s.mp.size := same .size (by decide)
  have regions : t.mp.regions = s.mp.regions := same .regions (by decide)
  have panel : t.su.panel = s.su.panel := same .panel (by decide)
  have plan : t.plan = s.plan := same .plan (by decide)
  exact {
    regions := by rw [size, regions]; exact law.regions
    frames := by rw [size, regions, panel]; exact law.frames
    captureSpans := by rw [regions, plan]; exact law.captureSpans
    symbolSpans := by rw [regions, plan]; exact law.symbolSpans
    disjoint := by rw [plan]; exact law.disjoint }

/-- New regions hold every planned span and both frame buffers (R46). -/
theorem storeRegions_planLaw {k : Nat} {bs : List Byte} (h : storeRegions k bs s = .inr t)
    (law : PlanLaw s) : PlanLaw t := by
  unfold storeRegions at h
  split at h
  · cases h
  · next passed =>
    obtain ⟨bounds, spans, frames⟩ := (regionRefusal_eq_none_iff _).1 passed
    obtain ⟨fill, moved⟩ := moveRegions_eq (s := s) (readRegions bs)
    obtain rfl := Sum.inr.inj h
    rw [moved]
    rw [framesFit_iff] at frames
    exact {
      regions := bounds
      frames := by dsimp only; omega
      captureSpans := fun n planned =>
        ⟨(law.captureSpans n planned).1, ((spansWithin_iff _ _).1 (spans n planned)).1⟩
      symbolSpans := fun n planned => ((spansWithin_iff _ _).1 (spans n planned)).2
      disjoint := law.disjoint }

theorem writePlan_plan (n m : Fin 32) (p : PlanEntry) :
    (writePlan n p s).plan[m] = if m = n then p else s.plan[m] := by
  simp only [writePlan, modifySegment_plan, Fin.getElem_fin, Vector.getElem_set, Fin.ext_iff, eq_comm]

/-- A new plan entry lies in its regions and shares no block with the others (R50). -/
theorem storePlan_planLaw {k : Nat} {bs : List Byte} (h : storePlan k bs s = .inr t) (law : PlanLaw s) :
    PlanLaw t := by
  obtain ⟨p, _, passed, rfl⟩ := storePlan_inr h
  generalize Fin.ofNat 32 k = n at passed
  have checked := planRefusal_eq_none passed
  have apart : p.planned = true → ∀ m : Fin 32, m ≠ n → s.plan[m].planned = true →
      spansShare p s.plan[m] = false := fun planned =>
    (overlapsPlan_eq_false_iff n p).1 (checked planned).2.2
  refine { regions := law.regions, frames := law.frames, captureSpans := ?_, symbolSpans := ?_, disjoint := ?_ }
  · intro m
    rw [writePlan_plan]
    split
    · intro planned
      obtain ⟨counted, inside, _⟩ := checked planned
      exact ⟨counted, ((spansWithin_iff _ _).1 inside).1⟩
    · exact law.captureSpans m
  · intro m
    rw [writePlan_plan]
    split
    · intro planned
      obtain ⟨_, inside, _⟩ := checked planned
      exact ((spansWithin_iff _ _).1 inside).2
    · exact law.symbolSpans m
  · intro a b differ
    rw [writePlan_plan, writePlan_plan]
    split_ifs with ha hb hb
    · exact absurd (ha.trans hb.symm) differ
    · exact fun planned => apart planned b hb
    · intro other planned
      rw [spansShare_comm]
      exact apart planned a ha other
    · exact law.disjoint a b differ

/-- A new panel leaves room for both of its frame buffers (R153). -/
theorem storePanel_planLaw {k : Nat} {bs : List Byte} (h : storePanel k bs s = .inr t) (law : PlanLaw s) :
    PlanLaw t := by
  obtain ⟨p, _, passed, rfl⟩ := storePanel_inr h
  have frames := (framesFit_iff _ _ _ _).1 (panelRefusal_eq_none passed)
  obtain ⟨_, _, inside⟩ := law.regions
  exact {
    regions := law.regions
    frames := show s.mp.regions.symbolEnd + 2 * bufferBlocks p.width p.height ≤ totalBlocks s.mp.size by
      omega
    captureSpans := law.captureSpans
    symbolSpans := law.symbolSpans
    disjoint := law.disjoint }

/-- A WRITE keeps the plan's law if storing an entry does: the rest of a dispatch touches nothing of the plan. -/
theorem writeTable_planLaw {row : Instr} {store : EntryStore} {waits : LinkCell → State → State}
    (hs : ∀ k bs s t, store k bs s = .inr t → PlanLaw s → PlanLaw t)
    (hd : ∀ c q, ChangesOnly [.slot, .inProgress] q (waits c q)) {n : Option Nat} {b : Bool}
    (h : dispatch row n b s (writeTable store waits) = .next t) : PlanLaw s → PlanLaw t := by
  refine dispatch_keeps (P := fun q r => PlanLaw q → PlanLaw r) (fun _ law => law)
    (fun first second law => second (first law)) (fun _ _ frame => ?_) (fun c q _ => ?_) h
  · exact restsOn_planLaw.of_frame frame (by decide)
  · refine writeTable_keeps (P := fun q r => PlanLaw q → PlanLaw r) (fun _ law => law)
      (fun first second law => second (first law)) (fun tag body r => ?_) hs (fun c r => ?_) c q
    · exact restsOn_planLaw.of_frame (putReply_frame tag body r) (by decide)
    · exact restsOn_planLaw.of_frame (hd c r) (by decide)

/-- Each row that can change regions, plan or panel is a cold reset or a checked WRITE. -/
theorem exec_planLaw {i : Instr} (touched : touches i [.size, .regions, .panel, .plan] = true)
    (law : PlanLaw s) (h : exec i s = .next t) : PlanLaw t := by
  cases i
  case powerOnReset => cases h; exact coldReset_planLaw _ _ _
  case pinReset => cases h; exact coldReset_planLaw _ _ _
  case writeRegions =>
    exact writeTable_planLaw (fun _ _ _ _ => storeRegions_planLaw) (fillReply_frame _) h law
  case writeSegmentPlan =>
    exact writeTable_planLaw (fun _ _ _ _ => storePlan_planLaw)
      (fun c q => (writeDone_frame c q).mono (by decide)) h law
  case writePanel =>
    exact writeTable_planLaw (fun _ _ _ _ => storePanel_planLaw) (fillReply_frame _) h law
  all_goals exact absurd touched Bool.false_ne_true

/-- Settles O5: the law rests on size, regions, panel and plan, and each row that writes one of them keeps it. -/
theorem everyStepKeepsThePlanLaw : Obligations.EveryStepKeepsThePlanLaw := fun _ _ law h =>
  step_keeps restsOn_planLaw (by decide) (fun _ _ _ => exec_planLaw) law h

end Sys2Proof.Machine
end

section
/-! SUPPORT. The Capture Engine's law (R31): a capture keeps its current segment and the segments' states, only
a close, a reset and ARM change them, and each leaves the law in force. -/

namespace Sys2Proof.Machine

variable {s t : State}

theorem restsOn_engineLaw : RestsOn [.ce, .segments] EngineLaw := by
  intro s t same law
  have ce : t.ce = s.ce := same .ce (by decide)
  have segments : t.segments = s.segments := same .segments (by decide)
  exact {
    idle := by rw [ce]; exact law.idle
    empty := by rw [ce]; exact law.empty
    filling := by rw [ce, segments]; exact law.filling }

/-- An operation that keeps the engine's segment and the segments' states keeps the law, where it leaves an Idle
engine as it is. -/
theorem KeepsEngine.law (k : KeepsEngine s t) (h : s.ce.segment = none → t.ce = s.ce) (law : EngineLaw s) :
    EngineLaw t := by
  refine { idle := ?_, empty := ?_, filling := ?_ }
  · by_cases idle : s.ce.segment = none
    · rw [h idle]
      exact law.idle
    · have busy : s.ce.engine ≠ .idle := fun e => idle (law.idle.1 e)
      rw [k.segment]
      exact iff_of_false (k.busy busy) idle
  · intro none_now
    have idle : s.ce.segment = none := k.segment ▸ none_now
    rw [h idle]
    exact law.empty idle
  · intro n
    rw [k.states, k.segment]
    exact law.filling n

/-- An operation outside the engine that keeps the segments' states keeps the law. -/
theorem KeepsEngine.law_of_ce (k : KeepsEngine s t) (h : t.ce = s.ce) (law : EngineLaw s) : EngineLaw t :=
  k.law (fun _ => h) law

/-- While a segment is current, an operation that keeps it and the segments' states keeps the law. -/
theorem KeepsEngine.law_of_segment (k : KeepsEngine s t) (h : s.ce.segment ≠ none) (law : EngineLaw s) :
    EngineLaw t := k.law (fun none_now => absurd none_now h) law

/-- A capture that runs has a current segment. -/
theorem EngineLaw.segment_of_busy (law : EngineLaw s) (busy : s.ce.engine ≠ .idle) : s.ce.segment ≠ none :=
  fun none_now => busy (law.idle.2 none_now)

theorem not_idle_of_capturing (h : capturing s = true) : s.ce.engine ≠ .idle := by
  rw [capturing_iff] at h
  rcases h with h | h | h <;> simp [h]

/-- What follows a change outside the engine and the status records keeps the engine if it does so by itself. -/
theorem KeepsEngine.after {u : State} (k : KeepsEngine t u) (ce : t.ce = s.ce)
    (segments : t.segments = s.segments) : KeepsEngine s u :=
  .trans ⟨by rw [ce], fun _ => by rw [segments], by rw [ce]; exact id⟩ k

/-- A change outside the engine and the status records keeps the engine. -/
theorem KeepsEngine.of_eq (ce : t.ce = s.ce) (segments : t.segments = s.segments) : KeepsEngine s t :=
  (KeepsEngine.refl t).after ce segments

/-! ### Holds, renders and readouts keep the segments' states -/

theorem placeHold_engine (n : Fin 32) (s : State) : KeepsEngine s (placeHold n s) :=
  modifySegment_engine n _ s fun _ => rfl

theorem releaseHold_engine (n : Fin 32) (s : State) : KeepsEngine s (releaseHold n s) :=
  modifySegment_engine n _ s fun _ => rfl

theorem raiseNotice_engine (x : NoticeSnapshot) (s : State) : KeepsEngine s (raiseNotice x s) :=
  .of_frame (raiseNotice_frame x s) (by decide) (by decide)

theorem putReply_engine (tag : Byte) (b : ReplyBody) (s : State) : KeepsEngine s (putReply tag b s) :=
  ⟨rfl, fun _ => rfl, id⟩

theorem leaveStandby_engine (s : State) : KeepsEngine s (leaveStandby s) :=
  .of_frame (leaveStandby_frame s) (by decide) (by decide)

theorem startRender_engine (s : State) : KeepsEngine s (startRender s) :=
  (placeHold_engine _ _).after rfl rfl

theorem requestRender_engine (s : State) : KeepsEngine s (requestRender s) :=
  .ite (startRender_engine s) ⟨rfl, fun _ => rfl, id⟩

theorem flip_engine (s : State) : KeepsEngine s (flip s) := by
  unfold flip
  split
  · rename_i d _ _
    have ended : ∀ x y, KeepsEngine s (raiseNotice (.renderDone d.snapshot.view.segment d.outcome)
        (releaseHold d.snapshot.view.segment { s with su := x, re := y })) := fun x y =>
      ((releaseHold_engine _ _).trans (raiseNotice_engine _ _)).after rfl rfl
    exact .ite ((ended _ _).trans (startRender_engine _)) (ended _ _)
  · exact .refl s

theorem abortRender_engine (s : State) : KeepsEngine s (abortRender s) := by
  unfold abortRender
  split
  · exact .refl s
  · exact (releaseHold_engine _ _).after rfl rfl

theorem endReadout_engine (r : Readout) (s : State) : KeepsEngine s (endReadout r s) :=
  ((releaseHold_engine r.segment { s with lp.readout := none }).trans (raiseNotice_engine _ _)).after rfl rfl

theorem dropReadout_engine (s : State) : KeepsEngine s (dropReadout s) := by
  unfold dropReadout
  split
  · exact (releaseHold_engine _ _).after rfl rfl
  · exact .refl s

theorem streamCellLeft_engine (n : Nat) (r : Readout) (s : State) : KeepsEngine s (streamCellLeft n r s) :=
  .ite (endReadout_engine _ s) ⟨rfl, fun _ => rfl, id⟩

theorem cancelReadout_engine (r : Readout) (s : State) : KeepsEngine s (cancelReadout r s) :=
  .ite ⟨rfl, fun _ => rfl, id⟩ (endReadout_engine _ s)

theorem beginReadout_engine (tag : Byte) (n : Fin 32) (k : ItemKind) (a b : Nat) (s : State) :
    KeepsEngine s (beginReadout tag n k a b s) := by
  have held : ∀ r : Readout, KeepsEngine s (placeHold n { s with lp.readout := some r }) :=
    fun r => (placeHold_engine n _).after rfl rfl
  exact .ite ((held _).trans (endReadout_engine _ _)) (held _)

theorem readoutOwner_engine (c : LinkCell) (s : State) : KeepsEngine s (readoutOwner c s) := by
  have awake := leaveStandby_engine s
  unfold readoutOwner
  dsimp only
  split
  · split
    · exact awake.trans (putReply_engine _ _ _)
    · exact (awake.trans (putReply_engine _ _ _)).trans (beginReadout_engine _ _ _ _ _ _)
  · exact awake.trans (putReply_engine _ _ _)

/-! ### Symbols and redecodes keep the segments' states -/

theorem noteRender_engine (n : Fin 32) (f : Draw → Draw) (s : State) : KeepsEngine s (noteRender n f s) := by
  unfold noteRender
  split
  · exact .ite ⟨rfl, fun _ => rfl, id⟩ (.refl s)
  · exact .refl s

theorem wroteSymbol_state (c p : Nat) (b : Bool) (g : SegmentStatus) :
    (wroteSymbol c p b g).state = g.state := by
  unfold wroteSymbol
  split <;> rfl

theorem mergeSymbol_engine {n : Fin 32} {l : Fin 4} {y : Symbol} (h : mergeSymbol n l y s = .next t) :
    KeepsEngine s t := by
  have taken : ∀ f k, (∀ g, (k g).state = g.state) →
      KeepsEngine s (modifySegment n k (modifyLane l f s)) := fun f k hk =>
    .trans (t := modifyLane l f s) ⟨rfl, fun _ => rfl, id⟩ (modifySegment_engine n k _ hk)
  unfold mergeSymbol at h
  dsimp only at h
  split at h
  · obtain rfl := Host.Outcome.next.inj h
    have refused := taken (fun q => { q with fifo := q.fifo.drop 1 }) (refusedSymbol s.redecode.isSome)
      fun _ => rfl
    split
    · exact refused.trans (.of_frame (noteRefused_frame _) (by decide) (by decide))
    · exact refused
  · split at h
    · obtain rfl := Host.Outcome.next.inj h
      next position replaces _ _ =>
      have written := taken (fun q => { q with fifo := q.fifo.drop 1 }) _
        (wroteSymbol_state (spanCapacity s.plan[n]) position replaces)
      generalize modifySegment n _ _ = u at written
      exact written.trans ((noteRender_engine _ _ _).after rfl rfl)
    · cases h

theorem endReplay_engine (s : State) : KeepsEngine s (endReplay s) := by
  unfold endReplay
  split
  · exact .ite (finishLanes_engine _ s) (.refl s)
  · exact .refl s

theorem giveSamples_engine (d : Nat) (v : Word) (k : Nat) (at_ : Time) (s : State) :
    KeepsEngine s (giveSamples d v k at_ s) := by
  induction k generalizing at_ s with
  | zero => exact .refl s
  | succ k ih =>
    have sampled := lanesSample_engine d { stamp := at_, levels := v } s
    unfold giveSamples
    generalize lanesSample d { stamp := at_, levels := v } s = u at sampled
    exact sampled.trans ((ih _ _).after rfl rfl)

theorem replayRecord_engine (r : Redecode) (s : State) : KeepsEngine s (replayRecord r s) := by
  unfold replayRecord
  dsimp only
  generalize samplesBefore r.divisor r.stamp _ = count
  have given := giveSamples_engine r.divisor (readRecord s r.segment r.next).value count r.stamp s
  generalize giveSamples _ _ _ _ s = u at given
  exact given.trans ((endReplay_engine _).after rfl rfl)

theorem completeRedecode_engine (r : Redecode) (s : State) : KeepsEngine s (completeRedecode r s) := by
  have closed : KeepsEngine s (modifySegment r.segment (fun g => { g with
      symbolStatus := some (if r.refused then .redecodedTruncated else .redecoded) }) s) :=
    modifySegment_engine _ _ _ fun _ => rfl
  exact closed.trans ((raiseNotice_engine _ _).after rfl rfl)

theorem omitAnnotations_engine (n : Fin 32) (s : State) : KeepsEngine s (omitAnnotations n s) :=
  .of_frame (omitAnnotations_frame n s) (by decide) (by decide)

theorem startLanes_engine (m : LaneMode) (s : State) : KeepsEngine s (startLanes m s) :=
  .of_frame (startLanes_frame m s) (by decide) (by decide)

theorem beginRedecode_engine (n : Fin 32) (s : State) : KeepsEngine s (beginRedecode n s) :=
  ((modifySegment_engine n emptiedSpan s fun _ => rfl).trans (startLanes_engine .replaying _)).trans
    (((omitAnnotations_engine n _).trans (endReplay_engine _)).after rfl rfl)

theorem redecodeOwner_engine (c : LinkCell) (s : State) : KeepsEngine s (redecodeOwner c s) := by
  unfold redecodeOwner
  dsimp only
  refine (leaveStandby_engine s).trans ?_
  split
  · exact putReply_engine _ _ _
  · exact (beginRedecode_engine _ _).trans (putReply_engine _ _ _)

theorem abortRedecode_engine (s : State) : KeepsEngine s (abortRedecode s) := by
  unfold abortRedecode
  split
  · exact .refl s
  · next r _ =>
    exact ((trimAll_engine _ _ _ _ s).trans (modifySegment_engine r.segment abortedSpan _ fun _ => rfl)).trans
      ⟨rfl, fun _ => rfl, id⟩

/-! ### The operations that change the current segment -/

/-- A close or a reset: the engine is Idle, and no segment is Filling any more. -/
theorem engineLaw_of_idle {c : AcqEntry} (ce : t.ce = { idleCe with table := c })
    (states : ∀ n : Fin 32, t.segments[n].state ≠ .filling) : EngineLaw t where
  idle := by simp [ce, idleCe]
  empty := fun _ => by simp [ce]
  filling := fun n => by simpa [ce, idleCe] using states n

/-- The start of a segment before its lanes start: its engine in PreFill and its status record Filling. -/
def segmentFilled (n : Fin 32) (s : State) : State :=
  modifySegment n (fillingSegment s.ce.table.loop) { s with
    ce := preFillCe n s.time s.ce, prescaler := 0, ts := offTs s.ts, sm := { stamps := [] } }

theorem startSegment_eq (n : Fin 32) (s : State) :
    startSegment n s = checkPreFill (startLanes .running (segmentFilled n s)) := rfl

theorem segmentFilled_ce (n : Fin 32) (s : State) :
    (segmentFilled n s).ce = preFillCe n s.time s.ce := rfl

theorem segmentFilled_segment (n m : Fin 32) (s : State) : (segmentFilled n s).segments[m] =
    if n = m then fillingSegment s.ce.table.loop s.segments[m] else s.segments[m] := by
  by_cases same : n = m
  · subst same
    simp [segmentFilled]
  · have apart : n.val ≠ m.val := fun e => same (Fin.ext e)
    simp [segmentFilled, apart, same]

/-- The start of a segment in a part in which no segment is Filling: it alone is Filling and current. -/
theorem startSegment_engineLaw {n : Fin 32} (states : ∀ m : Fin 32, s.segments[m].state ≠ .filling) :
    EngineLaw (startSegment n s) := by
  have started : EngineLaw (segmentFilled n s) := {
    idle := by simp [segmentFilled_ce, preFillCe]
    empty := fun none_now => by simp [segmentFilled_ce, preFillCe] at none_now
    filling := fun m => by
      rw [segmentFilled_segment, segmentFilled_ce]
      split
      · next same => simp [fillingSegment, preFillCe, same]
      · next apart => simpa [preFillCe, apart] using states m }
  exact ((startLanes_engine _ _).trans (checkPreFill_engine _)).law_of_segment
    (by simp [preFillCe]) started

theorem endSequence_ce (d : Nat) (r : SequenceEnd) (s : State) :
    (endSequence d r s).ce = { idleCe with table := s.ce.table } :=
  raiseNotice_frame (.sequenceEnded d r) (idleEngine s) .ce (by decide)

theorem endSequence_segments (d : Nat) (r : SequenceEnd) (s : State) :
    (endSequence d r s).segments = s.segments :=
  endSequence_frame d r s .segments (by decide)

/-- A sequence goes on or ends with the law in force, once the closed segment is not Filling. -/
theorem proceed_engineLaw {n : Fin 32} (states : ∀ m : Fin 32, s.segments[m].state ≠ .filling) :
    EngineLaw (proceed n s) := by
  have ended : ∀ d r, EngineLaw (endSequence d r s) := fun d r =>
    engineLaw_of_idle (endSequence_ce d r s) (by rw [endSequence_segments]; exact states)
  unfold proceed
  dsimp only
  split_ifs
  · exact engineLaw_of_idle rfl states
  · exact ended _ _
  · exact ended _ _
  · split
    · exact ended _ _
    · exact startSegment_engineLaw states

/-- Once the current segment's state is another than Filling, no segment is Filling. -/
theorem EngineLaw.not_filling_of_modify {n : Fin 32} {f : SegmentStatus → SegmentStatus} (law : EngineLaw s)
    (current : s.ce.segment = some n) (hf : ∀ g, (f g).state ≠ .filling) (m : Fin 32) :
    (modifySegment n f s).segments[m].state ≠ .filling := by
  by_cases same : n = m
  · subst same
    simpa using hf _
  · have apart : n.val ≠ m.val := fun e => same (Fin.ext e)
    have other : s.segments[m].state ≠ .filling := fun filling => by
      have := (law.filling m).1 filling
      exact same (Option.some.inj (current.symm.trans this))
    simpa [apart] using other

theorem completeClose_engineLaw {n : Fin 32} {r : EndReason} (law : EngineLaw s)
    (current : s.ce.segment = some n) : EngineLaw (completeClose n r s) := by
  refine proceed_engineLaw fun m => ?_
  rw [(raiseNotice_engine _ _).states]
  exact law.not_filling_of_modify current (fun _ => by simp [closedSegment]) m

theorem resetSegment_not_filling (k : Nat) (now : Time) (g : SegmentStatus) :
    (discardedSymbols k (resetSegment now g)).state ≠ .filling := by
  unfold discardedSymbols
  split <;> simp [resetSegment, countLost]

theorem resetCapture_engineLaw (law : EngineLaw s) : EngineLaw (resetCapture s) := by
  unfold resetCapture
  split
  · exact law
  · next n current =>
    refine engineLaw_of_idle rfl fun m => ?_
    simp only [idleEngine_segments]
    rw [(trimAll_engine _ _ _ _ _).states]
    exact law.not_filling_of_modify current (fun g => resetSegment_not_filling _ _ g) m

theorem linkReset_engineLaw (law : EngineLaw s) : EngineLaw (linkReset s) := by
  have ended : EngineLaw (endOperations s) := by
    refine (((abortRedecode_engine _).trans (abortRender_engine _)).trans (dropReadout_engine _)).law_of_ce ?_
      (resetCapture_engineLaw law)
    have redecode := abortRedecode_frame (resetCapture s) .ce (by decide)
    have render := abortRender_frame (abortRedecode (resetCapture s)) .ce (by decide)
    have readout := dropReadout_frame (abortRender (abortRedecode (resetCapture s))) .ce (by decide)
    exact (readout.trans render).trans redecode
  refine restsOn_engineLaw.of_frame (restartIdle_frame _) (by decide) ?_
  exact restsOn_engineLaw _ _ (by simp [Part.same]) ended

/-- A segment that is armed was planned for an Idle engine, so none is Filling before it. -/
theorem armOwner_engineLaw {c : LinkCell} (law : EngineLaw s) : EngineLaw (armOwner c s) := by
  have awake : EngineLaw (leaveStandby s) :=
    restsOn_engineLaw.of_frame (leaveStandby_frame s) (by decide) law
  unfold armOwner
  dsimp only
  split
  · exact restsOn_engineLaw.of_frame (putReply_frame _ _ _) (by decide) awake
  · next passed =>
    have idle : (leaveStandby s).ce.engine = .idle := by
      unfold armRefusal at passed
      dsimp only at passed
      split at passed
      · cases passed
      · next e => simpa [engineIdle] using e
    have none_now := awake.idle.1 idle
    refine restsOn_engineLaw.of_frame (putReply_frame _ _ _) (by decide) (startSegment_engineLaw fun m => ?_)
    intro filling
    have := (awake.filling m).1 filling
    simp [none_now] at this

/-! ### The WRITEs -/

theorem acqTable_engineLaw (v : AcqEntry) (law : EngineLaw s) : EngineLaw { s with ce.table := v } where
  idle := law.idle
  empty := fun none_now => by
    have := law.empty none_now
    show { s.ce with table := v } = _
    rw [this]
  filling := law.filling

theorem storePlain_engineLaw {n k : Nat} {bs : List Byte} (h : storePlain n k bs s = .inr t)
    (law : EngineLaw s) : EngineLaw t := by
  have elsewhere : t.ce = s.ce → t.segments = s.segments → EngineLaw t := fun ce segments =>
    (KeepsEngine.of_eq ce segments).law_of_ce ce law
  unfold storePlain at h
  split at h
  case h_1 =>
    obtain ⟨v, _, rfl⟩ := storeRead_inr h
    exact acqTable_engineLaw v law
  case h_9 => cases h; exact elsewhere rfl rfl
  case h_10 => cases h; exact elsewhere rfl rfl
  all_goals
    obtain ⟨v, _, rfl⟩ := storeRead_inr h
    exact elsewhere rfl rfl

/-- An Idle engine and the law in force: what the WRITEs of the plan and of table 0 keep. -/
def EngineAtRest (s : State) : Prop := EngineLaw s ∧ s.ce.engine = .idle

theorem EngineAtRest.of_frame {ps : List Part} (h : ChangesOnly ps s t) (a : Part.ce ∉ ps)
    (b : Part.segments ∉ ps) (rest : EngineAtRest s) : EngineAtRest t :=
  ⟨restsOn_engineLaw.of_frame h (by simp [a, b]) rest.1, by rw [h .ce a]; exact rest.2⟩

theorem storePlan_atRest {k : Nat} {bs : List Byte} (h : storePlan k bs s = .inr t) (rest : EngineAtRest s) :
    EngineAtRest t := by
  obtain ⟨law, idle⟩ := rest
  obtain ⟨p, _, _, rfl⟩ := storePlan_inr h
  have none_now : s.ce.segment = none := law.idle.1 idle
  refine ⟨{ idle := law.idle, empty := law.empty, filling := fun m => ?_ }, idle⟩
  show (modifySegment (Fin.ofNat 32 k) (fun g => emptySegment g.holdCount) _).segments[m].state = _ ↔
    s.ce.segment = some m
  rw [none_now]
  refine iff_of_false ?_ (by simp)
  have other : s.segments[m].state ≠ .filling := fun filling => by
    have := (law.filling m).1 filling
    simp [none_now] at this
  simp only [modifySegment_segments, Fin.getElem_fin, Vector.getElem_set]
  split
  · simp [emptySegment]
  · exact other

/-- A WRITE of the plan stores entries with an Idle engine, or none. -/
theorem writePlanOwner_engineLaw {c : LinkCell} (row : commandRow c = .writeSegmentPlan) (law : EngineLaw s) :
    EngineLaw (writeTable storePlan writeDone c s) := by
  have table := writeRow_table row (n := 4) (by simp)
  by_cases idle : s.ce.engine = .idle
  · have kept : EngineAtRest s → EngineAtRest (writeTable storePlan writeDone c s) :=
      writeTable_keeps (P := fun q r => EngineAtRest q → EngineAtRest r) (fun _ rest => rest)
        (fun first second rest => second (first rest))
        (fun tag b q => .of_frame (putReply_frame tag b q) (by decide) (by decide))
        (fun _ _ _ _ => storePlan_atRest)
        (fun c q => .of_frame (writeDone_frame c q) (by decide) (by decide)) c s
    exact (kept ⟨law, idle⟩).1
  · have locked : writable s (byteAt c.payload 0) = false := by
      simp [table, writable, acquisitionFree, engineIdle, idle]
    exact restsOn_engineLaw.of_frame (writeTable_locked c s locked) (by decide) law

/-- A dispatch keeps the law if the command's owner does. -/
theorem dispatch_engineLaw {row : Instr} {n : Option Nat} {b : Bool} {owner : LinkCell → State → State}
    (ho : ∀ c q, commandRow c = row → EngineLaw q → EngineLaw (owner c q))
    (h : dispatch row n b s owner = .next t) : EngineLaw s → EngineLaw t :=
  dispatch_keeps (P := fun q r => EngineLaw q → EngineLaw r) (fun _ law => law)
    (fun first second law => second (first law))
    (fun _ _ frame => restsOn_engineLaw.of_frame frame (by decide)) ho h

/-- The dispatch of a command whose owner leaves the engine alone and keeps the segments' states. -/
theorem dispatch_engineLaw_of_keeps {row : Instr} {n : Option Nat} {b : Bool}
    {owner : LinkCell → State → State} {ps : List Part} (ho : ∀ c q, KeepsEngine q (owner c q))
    (frame : ∀ c q, ChangesOnly ps q (owner c q)) (apart : Part.ce ∉ ps)
    (h : dispatch row n b s owner = .next t) : EngineLaw s → EngineLaw t :=
  dispatch_engineLaw (fun c q _ => (ho c q).law_of_ce (frame c q .ce apart)) h

/-! ### The rows -/

theorem sample_engineLaw (law : EngineLaw s) (h : execSample s = .next t) : EngineLaw t := by
  obtain rfl := Host.Outcome.next.inj h
  split
  · next due =>
    have busy : capturing s = true := (Bool.and_eq_true_iff.1 due).1
    exact (sampleTick_engine s).law_of_segment (law.segment_of_busy (not_idle_of_capturing busy)) law
  · exact law

theorem writeQueueDrain_engineLaw (law : EngineLaw s) (h : execWriteQueueDrain s = .next t) :
    EngineLaw t := by
  unfold execWriteQueueDrain at h
  repeat' split at h
  case h_1 current _ => exact (drainRecord_engine h).law_of_segment (by simp [current]) law
  all_goals cases h; exact law

theorem symbolWrite_engineLaw (law : EngineLaw s) (h : execSymbolWrite s = .next t) : EngineLaw t := by
  have ce : t.ce = s.ce := row_symbolWrite h .ce (by decide)
  unfold execSymbolWrite at h
  repeat' split at h
  case h_1 => exact (mergeSymbol_engine h).law_of_ce ce law
  all_goals cases h; exact law

theorem trimStep_engine (n : Fin 32) (a b : Time) (s : State) : KeepsEngine s (trimStep n a b s) :=
  trimAll_engine n a b 1 s

theorem symbolTrim_engineLaw (law : EngineLaw s) (h : execSymbolTrim s = .next t) : EngineLaw t := by
  have ce : t.ce = s.ce := row_symbolTrim h .ce (by decide)
  unfold execSymbolTrim at h
  repeat' split at h
  all_goals
    cases h
    first
    | exact (trimStep_engine _ _ _ _).law_of_ce ce law
    | exact law

theorem closeComplete_engineLaw (law : EngineLaw s) (h : execCloseComplete s = .next t) : EngineLaw t := by
  unfold execCloseComplete at h
  repeat' split at h
  case h_1 current _ => cases h; exact completeClose_engineLaw law current
  all_goals cases h; exact law

theorem redecodeRecordRead_engineLaw (law : EngineLaw s) (h : execRedecodeRecordRead s = .next t) :
    EngineLaw t := by
  have ce : t.ce = s.ce := row_redecodeRecordRead h .ce (by decide)
  unfold execRedecodeRecordRead at h
  repeat' split at h
  case h_1.isTrue => cases h; exact (replayRecord_engine _ _).law_of_ce ce law
  all_goals cases h
  all_goals exact law

theorem redecodeDone_engineLaw (law : EngineLaw s) (h : execRedecodeDone s = .next t) : EngineLaw t := by
  have ce : t.ce = s.ce := row_redecodeDone h .ce (by decide)
  unfold execRedecodeDone at h
  repeat' split at h
  case h_1 => cases h; exact (completeRedecode_engine _ _).law_of_ce ce law
  all_goals cases h; exact law

theorem laneAhead_engineLaw (law : EngineLaw s) (k : KeepsEngine s t) (h : ChangesOnly laneParts s t) :
    EngineLaw t := k.law_of_ce (h .ce (by decide)) law

theorem gapDeadline_engineLaw {l : Fin 4} (law : EngineLaw s) (h : execGapDeadline l s = .next t) :
    EngineLaw t := by
  refine laneAhead_engineLaw law ?_ (row_gapDeadline h)
  have settled := settle_engine s
  unfold execGapDeadline at h
  dsimp only at h
  generalize settle s = q at h settled
  repeat' split at h
  all_goals cases h
  all_goals first
    | exact .refl s
    | exact settled.trans ((emitSymbols_engine _ _ _).after rfl rfl)

theorem stretchTimeout_engineLaw {l : Fin 4} (law : EngineLaw s) (h : execStretchTimeout l s = .next t) :
    EngineLaw t := by
  refine laneAhead_engineLaw law ?_ (row_stretchTimeout h)
  have settled := settle_engine s
  unfold execStretchTimeout at h
  dsimp only at h
  generalize settle s = q at h settled
  repeat' split at h
  all_goals cases h
  all_goals first
    | exact .refl s
    | exact settled.trans (.of_eq rfl rfl)

/-- Each row keeps the law that can touch the engine or a status record. -/
theorem exec_engineLaw {i : Instr} (touched : touches i [.ce, .segments] = true) (law : EngineLaw s)
    (h : exec i s = .next t) : EngineLaw t := by
  cases i
  case powerOnReset => cases h; exact coldReset_engineLaw _ _ _
  case pinReset => cases h; exact coldReset_engineLaw _ _ _
  case linkReset =>
    obtain rfl := Host.Outcome.next.inj h
    split
    · exact linkReset_engineLaw law
    · exact law
  case podPresentChange pod =>
    have ce : t.ce = s.ce := row_podPresentChange (pod := pod) h .ce (by decide)
    simp only [exec, execPodPresentChange] at h
    split at h <;> cases h
    · exact (changePresent_engine pod s).law_of_ce ce law
    · exact law
  case sample => exact sample_engineLaw law h
  case gapDeadline l => exact gapDeadline_engineLaw (l := l) law h
  case stretchTimeout l => exact stretchTimeout_engineLaw (l := l) law h
  case writeQueueDrain => exact writeQueueDrain_engineLaw law h
  case symbolWrite => exact symbolWrite_engineLaw law h
  case symbolTrim => exact symbolTrim_engineLaw law h
  case closeComplete => exact closeComplete_engineLaw law h
  case redecodeRecordRead => exact redecodeRecordRead_engineLaw law h
  case redecodeDone => exact redecodeDone_engineLaw law h
  case frameBoundary =>
    have ce : t.ce = s.ce := row_frameBoundary h .ce (by decide)
    obtain rfl := Host.Outcome.next.inj h
    exact (KeepsEngine.ite ((flip_engine s).trans (.of_frame (beginFrame_frame _) (by decide) (by decide)))
      (.refl s)).law_of_ce ce law
  case streamCellSent =>
    refine KeepsEngine.law_of_ce ?_ (row_streamCellSent h .ce (by decide)) law
    simp only [exec, execStreamCellSent] at h
    repeat' split at h
    case h_1 => cases h; exact (streamCellLeft_engine _ _ _).after rfl rfl
    all_goals cases h; exact .of_eq rfl rfl
  case write =>
    refine dispatch_engineLaw (fun c q _ => ?_) h law
    exact writeTable_keeps (P := fun q r => EngineLaw q → EngineLaw r) (fun _ law => law)
      (fun first second law => second (first law))
      (fun tag b q => restsOn_engineLaw.of_frame (putReply_frame tag b q) (by decide))
      (fun _ _ _ _ => storePlain_engineLaw)
      (fun c q => restsOn_engineLaw.of_frame (writeDone_frame c q) (by decide)) c q
  case writeSegmentPlan => exact dispatch_engineLaw (fun _ _ => writePlanOwner_engineLaw) h law
  case arm => exact dispatch_engineLaw (fun _ _ _ => armOwner_engineLaw) h law
  case stop =>
    refine dispatch_engineLaw (fun c q _ law => ?_) h law
    refine restsOn_engineLaw.of_frame (putReply_frame _ _ _) (by decide) ?_
    split
    · next busy =>
      exact (stopCapture_engine q).law_of_segment (law.segment_of_busy (not_idle_of_capturing busy)) law
    · exact law
  case force =>
    refine dispatch_engineLaw (fun c q _ law => ?_) h law
    refine restsOn_engineLaw.of_frame (putReply_frame _ _ _) (by decide) ?_
    split
    · next running =>
      have busy : q.ce.engine ≠ .idle := by rcases running with e | e <;> simp [e]
      exact (forceCapture_engine q).law_of_segment (law.segment_of_busy busy) law
    · exact law
  case redecode =>
    exact dispatch_engineLaw_of_keeps redecodeOwner_engine redecodeOwner_frame (by decide) h law
  case render =>
    refine dispatch_engineLaw_of_keeps (fun c q => ?_) (ps := [.power, .idleStart, .re, .job, .segments,
      .holds, .slot]) (fun c q => ?_) (by decide) h law
    · exact ((leaveStandby_engine q).trans (requestRender_engine _)).trans (putReply_engine _ _ _)
    · exact (((leaveStandby_frame q).mono (by decide)).trans ((requestRender_frame _).mono (by decide))).trans
        ((putReply_frame _ _ _).mono (by decide))
  case readout =>
    exact dispatch_engineLaw_of_keeps readoutOwner_engine readoutOwner_frame (by decide) h law
  case cancel =>
    refine dispatch_engineLaw (fun c q _ law => ?_) h law
    refine restsOn_engineLaw.of_frame (putReply_frame _ _ _) (by decide) ?_
    split
    · exact (cancelReadout_engine _ q).law_of_ce (cancelReadout_frame _ q .ce (by decide)) law
    · exact law
  all_goals exact absurd touched Bool.false_ne_true

/-- Settles O6: the law rests on the engine and the status records; a capture keeps it, and so does each
operation that begins or ends one. -/
theorem everyStepKeepsTheEngineLaw : Obligations.EveryStepKeepsTheEngineLaw := fun _ _ law h =>
  step_keeps restsOn_engineLaw (by decide) (fun _ _ _ => exec_engineLaw) law h

end Sys2Proof.Machine
end

section
/-! SUPPORT. The law of the hold counts (R55, R56): a render and a readout place one hold each when they begin
and release it when they end. -/

namespace Sys2Proof.Machine

variable {s t : State}

theorem restsOn_holdLaw : RestsOn [.job, .readout, .holds] HoldLaw := by
  intro s t same law
  have job : renderJob t.re = renderJob s.re := same .job (by decide)
  have readout : t.lp.readout = s.lp.readout := same .readout (by decide)
  have holds : ∀ n : Fin 32, t.segments[n].holdCount = s.segments[n].holdCount := same .holds (by decide)
  obtain ⟨state, draw⟩ := Prod.mk.inj job
  refine { job := ?_, holds := fun n => ?_ }
  · rw [state, ← Option.map_eq_none_iff, draw, Option.map_eq_none_iff]
    exact law.job
  · rw [holds, law.holds, holdsOn, holdsOn, job, readout]

/-! ### The holds counted -/

theorem modifySegment_segment (n m : Fin 32) (f : SegmentStatus → SegmentStatus) (s : State) :
    (modifySegment n f s).segments[m] = if n = m then f s.segments[m] else s.segments[m] := by
  by_cases same : n = m
  · subst same
    simp
  · have apart : n.val ≠ m.val := fun e => same (Fin.ext e)
    simp [apart, same]

theorem placeHold_holdCount (n m : Fin 32) (s : State) :
    (placeHold n s).segments[m].holdCount = s.segments[m].holdCount + flag (n == m) := by
  unfold placeHold
  rw [modifySegment_segment]
  by_cases same : n = m <;> simp [same, flag]

theorem releaseHold_holdCount (n m : Fin 32) (s : State) :
    (releaseHold n s).segments[m].holdCount = s.segments[m].holdCount - flag (n == m) := by
  unfold releaseHold
  rw [modifySegment_segment]
  by_cases same : n = m <;> simp [same, flag]

/-- The hold of a render that is under way, or of none. -/
theorem holdsOn_eq (s : State) (n : Fin 32) : holdsOn s n =
    flag (s.re.draw.any fun d => d.snapshot.view.segment == n) +
      flag (s.lp.readout.any fun r => r.segment == n) := by
  unfold holdsOn renderJob
  cases s.re.draw <;> simp

theorem raiseNotice_holdLaw (x : NoticeSnapshot) (law : HoldLaw s) : HoldLaw (raiseNotice x s) :=
  restsOn_holdLaw.of_frame (raiseNotice_frame x s) (by decide) law

theorem putReply_holdLaw (tag : Byte) (b : ReplyBody) (law : HoldLaw s) : HoldLaw (putReply tag b s) :=
  restsOn_holdLaw.of_frame (putReply_frame tag b s) (by decide) law

/-! ### Renders -/

/-- A render that goes on, for the same segment and with another drawing, in a state that is not Idle. -/
theorem HoldLaw.drawing {d x : Draw} {r : Re} (law : HoldLaw s) (draw : s.re.draw = some d)
    (same : x.snapshot = d.snapshot) (next : r.draw = some x) (busy : r.job ≠ .idle) :
    HoldLaw { s with re := r } where
  job := iff_of_false busy (by simp [next])
  holds := fun n => by
    have held := law.holds n
    rw [holdsOn_eq] at held ⊢
    simpa [draw, next, same] using held

theorem continueDraw_holdLaw {d x : Draw} (law : HoldLaw s) (draw : s.re.draw = some d)
    (same : x.snapshot = d.snapshot) : HoldLaw (continueDraw x s) :=
  law.drawing draw same rfl fun idle => by simp [law.job.1 idle] at draw

theorem overrunDraw_snapshot (d : Draw) : (overrunDraw d).snapshot = d.snapshot := rfl

theorem overrun_holdLaw {d x : Draw} (law : HoldLaw s) (draw : s.re.draw = some d)
    (same : x.snapshot = d.snapshot) : HoldLaw (overrun x s) :=
  law.drawing draw ((overrunDraw_snapshot x).trans same) rfl (by simp)

/-- A render that starts in an Idle job holds its segment. -/
theorem startRender_holdLaw (law : HoldLaw s) (idle : s.re.job = .idle) : HoldLaw (startRender s) where
  job := iff_of_false (by simp [startRender]) (by simp [startRender])
  holds := fun n => by
    have held := law.holds n
    rw [holdsOn_eq, law.job.1 idle] at held
    unfold startRender
    rw [placeHold_holdCount, holdsOn_eq]
    simp only [placeHold_re, placeHold_lp]
    rw [held, Option.any_none, Option.any_some, flag, if_neg Bool.false_ne_true, Nat.zero_add, Nat.add_comm]
    rfl

/-- A render that ends releases its hold. -/
theorem HoldLaw.released {d : Draw} {r : Re} (law : HoldLaw s) (draw : s.re.draw = some d)
    (ended : r.draw = none) (idle : r.job = .idle) :
    HoldLaw (releaseHold d.snapshot.view.segment { s with re := r }) where
  job := iff_of_true idle ended
  holds := fun n => by
    have held := law.holds n
    rw [holdsOn_eq, draw] at held
    rw [releaseHold_holdCount, holdsOn_eq]
    dsimp only [releaseHold_re, releaseHold_lp]
    rw [held, ended, Option.any_some, Nat.add_sub_cancel_left, Option.any_none, flag, flag,
      if_neg Bool.false_ne_true, Nat.zero_add]

theorem flip_holdLaw (law : HoldLaw s) : HoldLaw (flip s) := by
  unfold flip
  split
  · next d _ draw =>
    have ended : ∀ x, HoldLaw (releaseHold d.snapshot.view.segment { s with su := x, re := endRender d s.re }) :=
      fun x => HoldLaw.released (s := { s with su := x }) ⟨law.job, law.holds⟩ draw rfl rfl
    have noticed := fun x => raiseNotice_holdLaw (.renderDone d.snapshot.view.segment d.outcome) (ended x)
    dsimp only
    split
    · refine startRender_holdLaw (noticed _) ?_
      rw [raiseNotice_frame (.renderDone d.snapshot.view.segment d.outcome) _ .re (by decide)]
      rfl
    · exact noticed _
  · exact law

theorem abortRender_holdLaw (law : HoldLaw s) : HoldLaw (abortRender s) := by
  unfold abortRender
  split
  · exact law
  · next d draw => exact law.released draw rfl rfl

theorem requestRender_holdLaw (law : HoldLaw s) : HoldLaw (requestRender s) := by
  unfold requestRender
  split
  · next idle => exact startRender_holdLaw law idle
  · exact ⟨law.job, law.holds⟩

theorem renderReads_holdLaw {d : Draw} {p : Nat} {use : Record → Draw} (law : HoldLaw s)
    (draw : s.re.draw = some d) (same : ∀ r, (use r).snapshot = d.snapshot)
    (h : renderReads d p use s = .next t) : HoldLaw t := by
  unfold renderReads at h
  dsimp only at h
  repeat' split at h
  all_goals cases h
  · exact overrun_holdLaw law draw rfl
  · exact continueDraw_holdLaw law draw (same _)

theorem renderRecordRead_holdLaw (law : HoldLaw s) (h : execRenderRecordRead s = .next t) : HoldLaw t := by
  unfold execRenderRecordRead at h
  dsimp only at h
  split at h
  · split at h
    · next d draw =>
      split at h
      · exact renderReads_holdLaw law draw (by exact fun _ => rfl) h
      · exact renderReads_holdLaw law draw (fun _ => forwardRead_snapshot _ _ _ _ _ _ _) h
      · cases h; exact law
    · cases h; exact law
  · cases h; exact law

theorem renderSymbolRead_holdLaw (law : HoldLaw s) (h : execRenderSymbolRead s = .next t) : HoldLaw t := by
  unfold execRenderSymbolRead at h
  dsimp only at h
  split at h
  · split at h
    · next d draw =>
      repeat' split at h
      all_goals cases h
      · exact overrun_holdLaw law draw rfl
      · exact continueDraw_holdLaw law draw (symbolRead_snapshot _ _ _ _ _ _)
      · exact law
    · cases h; exact law
  · cases h; exact law

theorem drawingComplete_holdLaw (law : HoldLaw s) (h : execDrawingComplete s = .next t) : HoldLaw t := by
  unfold execDrawingComplete at h
  repeat' split at h
  all_goals cases h
  case h_1 draw => exact law.drawing draw (completeDraw_snapshot _) rfl (by simp)
  all_goals exact law

/-! ### Readouts -/

/-- A readout that goes on for the same segment. -/
theorem HoldLaw.reading {r x : Readout} (law : HoldLaw s) (readout : s.lp.readout = some r)
    (same : x.segment = r.segment) : HoldLaw { s with lp.readout := some x } where
  job := law.job
  holds := fun n => by
    have held := law.holds n
    rw [holdsOn_eq] at held ⊢
    simpa [readout, same] using held

/-- A readout that ends releases its hold. -/
theorem HoldLaw.ended {r : Readout} (law : HoldLaw s) (readout : s.lp.readout = some r) :
    HoldLaw (releaseHold r.segment { s with lp.readout := none }) where
  job := law.job
  holds := fun n => by
    have held := law.holds n
    rw [holdsOn_eq, readout] at held
    rw [releaseHold_holdCount, holdsOn_eq]
    dsimp only [releaseHold_re, releaseHold_lp]
    rw [held, Option.any_some, Nat.add_sub_cancel]
    simp [flag]

theorem endReadout_holdLaw {r x : Readout} (law : HoldLaw s) (readout : s.lp.readout = some r)
    (same : x.segment = r.segment) : HoldLaw (endReadout x s) := by
  refine raiseNotice_holdLaw _ ?_
  rw [same]
  exact law.ended readout

theorem streamCellLeft_holdLaw {n : Nat} {r : Readout} (law : HoldLaw s) (readout : s.lp.readout = some r) :
    HoldLaw (streamCellLeft n r s) := by
  unfold streamCellLeft
  dsimp only
  split
  · exact endReadout_holdLaw law readout rfl
  · exact law.reading readout rfl

theorem cancelReadout_holdLaw {r : Readout} (law : HoldLaw s) (readout : s.lp.readout = some r) :
    HoldLaw (cancelReadout r s) := by
  unfold cancelReadout
  dsimp only
  split
  · exact law.reading readout rfl
  · exact endReadout_holdLaw law readout rfl

theorem dropReadout_holdLaw (law : HoldLaw s) : HoldLaw (dropReadout s) := by
  unfold dropReadout
  split
  · next r readout => exact law.ended readout
  · exact law

/-- A readout that begins with none in progress holds its segment. -/
theorem HoldLaw.begun (law : HoldLaw s) (none_now : s.lp.readout = none) (r : Readout) :
    HoldLaw (placeHold r.segment { s with lp.readout := some r }) where
  job := law.job
  holds := fun n => by
    have held := law.holds n
    rw [holdsOn_eq, none_now] at held
    rw [placeHold_holdCount, holdsOn_eq]
    dsimp only [placeHold_re, placeHold_lp]
    rw [held, Option.any_some]
    simp [flag]

theorem beginReadout_holdLaw {tag : Byte} {n : Fin 32} {k : ItemKind} {a b : Nat} (law : HoldLaw s)
    (none_now : s.lp.readout = none) : HoldLaw (beginReadout tag n k a b s) := by
  unfold beginReadout
  dsimp only
  split
  · exact endReadout_holdLaw (law.begun none_now _) rfl rfl
  · exact law.begun none_now { segment := n, .. }

theorem readoutOwner_holdLaw {c : LinkCell} (law : HoldLaw s) : HoldLaw (readoutOwner c s) := by
  have awake : HoldLaw (leaveStandby s) :=
    restsOn_holdLaw.of_frame (leaveStandby_frame s) (by decide) law
  unfold readoutOwner
  dsimp only
  split
  · split
    · exact putReply_holdLaw _ _ awake
    · next passed =>
      refine beginReadout_holdLaw (putReply_holdLaw _ _ awake) ?_
      unfold readoutRefusal at passed
      split at passed
      · cases passed
      · next free => simpa [readoutRuns] using free
  · exact putReply_holdLaw _ _ awake

/-! ### The rows -/

theorem endOperations_holdLaw (law : HoldLaw s) : HoldLaw (endOperations s) := by
  have captured := restsOn_holdLaw.of_frame (resetCapture_frame s) (by decide) law
  have redecoded := restsOn_holdLaw.of_frame (abortRedecode_frame _) (by decide) captured
  exact dropReadout_holdLaw (abortRender_holdLaw redecoded)

theorem linkReset_holdLaw (law : HoldLaw s) : HoldLaw (linkReset s) := by
  refine restsOn_holdLaw.of_frame (restartIdle_frame _) (by decide) ?_
  refine restsOn_holdLaw (endOperations s) _ (fun p hp => ?_) (endOperations_holdLaw law)
  simp only [List.mem_cons, List.not_mem_nil, or_false] at hp
  rcases hp with rfl | rfl | rfl
  · rfl
  · rfl
  · exact fun _ => rfl

/-- A dispatch keeps the law if the command's owner does. -/
theorem dispatch_holdLaw {row : Instr} {n : Option Nat} {b : Bool} {owner : LinkCell → State → State}
    (ho : ∀ c q, HoldLaw q → HoldLaw (owner c q)) (h : dispatch row n b s owner = .next t) :
    HoldLaw s → HoldLaw t :=
  dispatch_keeps (P := fun q r => HoldLaw q → HoldLaw r) (fun _ law => law)
    (fun first second law => second (first law))
    (fun _ _ frame => restsOn_holdLaw.of_frame frame (by decide)) (fun c q _ => ho c q) h

theorem readoutRead_holdLaw (law : HoldLaw s) (h : execReadoutRead s = .next t) : HoldLaw t := by
  unfold execReadoutRead at h
  dsimp only at h
  repeat' split at h
  all_goals cases h
  case h_1.isTrue.refl readout _ => exact law.reading readout rfl
  all_goals exact law

theorem sendStreamCell_holdLaw (law : HoldLaw s) (h : execSendStreamCell s = .next t) : HoldLaw t := by
  unfold execSendStreamCell at h
  dsimp only at h
  repeat' split at h
  all_goals cases h
  case h_1 r _ ready =>
    refine restsOn_holdLaw.of_frame (startCell_frame _ _) (by decide) ?_
    unfold streamReady at ready
    split at ready
    · next readout =>
      obtain ⟨_, _, same⟩ := Option.map_eq_some_iff.1 ready
      obtain ⟨rfl, _⟩ := Prod.mk.inj same
      exact law.reading readout rfl
    · cases ready
  all_goals exact law

theorem streamCellSent_holdLaw (law : HoldLaw s) (h : execStreamCellSent s = .next t) : HoldLaw t := by
  have sent : HoldLaw (cellSent s) := restsOn_holdLaw.of_frame (cellSent_frame s) (by decide) law
  unfold execStreamCellSent at h
  repeat' split at h
  all_goals cases h
  case h_1 readout => exact streamCellLeft_holdLaw sent readout
  all_goals first
    | exact sent
    | exact law

/-- Each row keeps the law that can touch the render job, the readout or a hold count. -/
theorem exec_holdLaw {i : Instr} (touched : touches i [.job, .readout, .holds] = true) (law : HoldLaw s)
    (h : exec i s = .next t) : HoldLaw t := by
  cases i
  case powerOnReset => cases h; exact coldReset_holdLaw _ _ _
  case pinReset => cases h; exact coldReset_holdLaw _ _ _
  case linkReset =>
    obtain rfl := Host.Outcome.next.inj h
    split
    · exact linkReset_holdLaw law
    · exact law
  case renderRecordRead => exact renderRecordRead_holdLaw law h
  case renderSymbolRead => exact renderSymbolRead_holdLaw law h
  case drawingComplete => exact drawingComplete_holdLaw law h
  case frameBoundary =>
    obtain rfl := Host.Outcome.next.inj h
    split
    · exact restsOn_holdLaw.of_frame (beginFrame_frame _) (by decide) (flip_holdLaw law)
    · exact law
  case readoutRead => exact readoutRead_holdLaw law h
  case sendStreamCell => exact sendStreamCell_holdLaw law h
  case streamCellSent => exact streamCellSent_holdLaw law h
  case render =>
    refine dispatch_holdLaw (fun c q law => putReply_holdLaw _ _ (requestRender_holdLaw ?_)) h law
    exact restsOn_holdLaw.of_frame (leaveStandby_frame q) (by decide) law
  case readout => exact dispatch_holdLaw (fun _ _ => readoutOwner_holdLaw) h law
  case cancel =>
    refine dispatch_holdLaw (fun c q law => putReply_holdLaw _ _ ?_) h law
    split
    · next readout => exact cancelReadout_holdLaw law readout
    · exact law
  all_goals exact absurd touched Bool.false_ne_true

/-- Settles O7: the law rests on the render job, the readout and the hold counts; what begins or ends a render
or a readout places or releases its hold. -/
theorem everyStepKeepsTheHoldLaw : Obligations.EveryStepKeepsTheHoldLaw := fun _ _ law h =>
  step_keeps restsOn_holdLaw (by decide) (fun _ _ _ => exec_holdLaw) law h

end Sys2Proof.Machine
end

section
/-! SUPPORT. The bounds of the queues (R20, R24, R83, R116, R121, R163): every row keeps them. -/

namespace Sys2Proof.Machine

variable {s t : State}

/-- The parts that hold the bounded queues. -/
def queueParts : List Part := [.queue, .ce, .ts, .lanes, .sm]

/-- An operation that leaves the bounded queues alone keeps their bounds. -/
theorem KeepsBounds.apart {ps : List Part} (h : ChangesOnly ps s t) (free : ∀ p ∈ queueParts, p ∉ ps) :
    KeepsBounds s t :=
  .of_frame h (free _ (by decide)) (free _ (by decide)) (free _ (by decide)) (free _ (by decide))
    (free _ (by decide))

theorem restsOn_queueLaw : RestsOn queueParts QueueLaw := by
  intro s t same law
  have queue : t.lp.queue = s.lp.queue := same .queue (by decide)
  have ce : t.ce = s.ce := same .ce (by decide)
  have ts : t.ts = s.ts := same .ts (by decide)
  have lanes : t.lanes = s.lanes := same .lanes (by decide)
  have sm : t.sm = s.sm := same .sm (by decide)
  exact {
    commands := by rw [queue]; exact law.commands
    records := by rw [ce]; exact law.records
    staged := by rw [ce]; exact law.staged
    history := by rw [ts]; exact law.history
    symbols := by rw [lanes]; exact law.symbols
    horizon := by rw [sm]; exact law.horizon }

theorem KeepsBounds.after {u : State} (k : KeepsBounds t u) (same : ∀ p ∈ queueParts, p.same s t) :
    KeepsBounds s u := fun law => k (restsOn_queueLaw s t same law)

theorem putReply_bounds (tag : Byte) (b : ReplyBody) (s : State) : KeepsBounds s (putReply tag b s) :=
  .apart (putReply_frame tag b s) (by decide)

theorem leaveStandby_bounds (s : State) : KeepsBounds s (leaveStandby s) :=
  .apart (leaveStandby_frame s) (by decide)

/-! ### The dispatch -/

/-- A command taken for dispatch leaves the queue one cell shorter. -/
theorem takeCommand_bounds {row : Instr} {c : LinkCell} (h : takeCommand row s = some (c, t)) :
    KeepsBounds s t := by
  obtain ⟨_, _, rest, queue, rfl⟩ := takeCommand_row h
  intro law
  have shorter := law.commands
  rw [queue, List.length_cons] at shorter
  have popped : QueueLaw { s with lp.queue := rest } :=
    ⟨Nat.le_of_succ_le shorter, law.records, law.staged, law.history, law.symbols, law.horizon⟩
  exact restsOn_queueLaw.of_frame (restartIdle_frame _) (by decide) popped

theorem dispatch_bounds {row : Instr} {n : Option Nat} {b : Bool} {owner : LinkCell → State → State}
    (ho : ∀ c q, KeepsBounds q (owner c q)) (h : dispatch row n b s owner = .next t) : KeepsBounds s t := by
  unfold dispatch at h
  split at h
  · obtain rfl := Host.Outcome.next.inj h
    exact .refl s
  · next c q taken =>
    have popped := takeCommand_bounds taken
    split at h
    · obtain rfl := Host.Outcome.next.inj h
      exact popped.trans (putReply_bounds _ _ _)
    · obtain rfl := Host.Outcome.next.inj h
      exact popped.trans (ho c q)

/-- The dispatch of a command whose owner leaves the bounded queues alone. -/
theorem dispatch_bounds_of_frame {row : Instr} {n : Option Nat} {b : Bool}
    {owner : LinkCell → State → State} {ps : List Part} (ho : ∀ c q, ChangesOnly ps q (owner c q))
    (free : ∀ p ∈ queueParts, p ∉ ps) (h : dispatch row n b s owner = .next t) : KeepsBounds s t :=
  dispatch_bounds (fun c q => .apart (ho c q) free) h

/-- The dispatch of a WRITE whose entries lie apart from the bounded queues. -/
theorem dispatch_bounds_of_store {row : Instr} {store : EntryStore} {done : LinkCell → State → State}
    {ps : List Part} (slot : .slot ∈ ps) (hs : ∀ k bs s t, store k bs s = .inr t → ChangesOnly ps s t)
    (hd : ∀ c s, ChangesOnly ps s (done c s)) (free : ∀ p ∈ queueParts, p ∉ ps)
    (h : dispatch row none false s (writeTable store done) = .next t) : KeepsBounds s t :=
  dispatch_bounds_of_frame (writeTable_frame slot hs hd) free h

theorem storePlain_bounds {n k : Nat} {bs : List Byte} (h : storePlain n k bs s = .inr t) :
    KeepsBounds s t := by
  intro law
  unfold storePlain at h
  split at h
  case h_9 => cases h; exact ⟨law.commands, law.records, law.staged, law.history, law.symbols, law.horizon⟩
  case h_10 => cases h; exact ⟨law.commands, law.records, law.staged, law.history, law.symbols, law.horizon⟩
  all_goals
    obtain ⟨v, _, rfl⟩ := storeRead_inr h
    exact ⟨law.commands, law.records, law.staged, law.history, law.symbols, law.horizon⟩

/-! ### Redecode, ARM and the link reset -/

theorem endReplay_bounds (s : State) : KeepsBounds s (endReplay s) := by
  unfold endReplay
  split
  · exact .ite (finishLanes_bounds _ s) (.refl s)
  · exact .refl s

theorem giveSamples_bounds (d : Nat) (v : Word) (k : Nat) (stamp : Time) (s : State) :
    KeepsBounds s (giveSamples d v k stamp s) := by
  induction k generalizing stamp s with
  | zero => exact .refl s
  | succ k ih =>
    have sampled := lanesSample_bounds d { stamp := stamp, levels := v } s
    unfold giveSamples
    generalize lanesSample d { stamp := stamp, levels := v } s = u at sampled
    exact (sampled.trans (bounds_noteStamp stamp u)).trans (ih _ _)

theorem update_redecode_bounds (x : Option Redecode) (s : State) :
    KeepsBounds s { s with redecode := x } := .apart (update_redecode s x) (by decide)

theorem replayRecord_bounds (r : Redecode) (s : State) : KeepsBounds s (replayRecord r s) := by
  unfold replayRecord
  dsimp only
  generalize samplesBefore r.divisor r.stamp _ = count
  have given := giveSamples_bounds r.divisor (readRecord s r.segment r.next).value count r.stamp s
  generalize giveSamples _ _ _ _ s = u at given
  exact (given.trans (update_redecode_bounds _ u)).trans (endReplay_bounds _)

theorem emptyHorizon_bounds (x : Option Redecode) (s : State) :
    KeepsBounds s { s with redecode := x, sm := { stamps := [] } } := fun law =>
  ⟨law.commands, law.records, law.staged, law.history, law.symbols, Nat.zero_le _⟩

theorem completeRedecode_bounds (r : Redecode) (s : State) : KeepsBounds s (completeRedecode r s) := by
  have closed : KeepsBounds s (modifySegment r.segment (fun g => { g with
      symbolStatus := some (if r.refused then .redecodedTruncated else .redecoded) }) s) :=
    .apart (modifySegment_frame _ _ _ fun _ => rfl) (by decide)
  exact (closed.trans (emptyHorizon_bounds none _)).trans (.apart (raiseNotice_frame _ _) (by decide))

theorem beginRedecode_bounds (n : Fin 32) (s : State) : KeepsBounds s (beginRedecode n s) := by
  have emptied : KeepsBounds s (modifySegment n emptiedSpan s) :=
    .apart (modifySegment_frame _ _ _ fun _ => rfl) (by decide)
  exact (((emptied.trans (startLanes_bounds .replaying _)).trans (emptyHorizon_bounds _ _)).trans
    (.apart (omitAnnotations_frame n _) (by decide))).trans (endReplay_bounds _)

theorem redecodeOwner_bounds (c : LinkCell) (s : State) : KeepsBounds s (redecodeOwner c s) := by
  unfold redecodeOwner
  dsimp only
  refine (leaveStandby_bounds s).trans ?_
  split
  · exact putReply_bounds _ _ _
  · exact (beginRedecode_bounds _ _).trans (putReply_bounds _ _ _)

theorem beginCapture_bounds (n : Fin 32) (s : State) : KeepsBounds s (beginCapture n s) :=
  (bounds_ce s { s.ce with sequence := s.ce.table.sequenceCount, done := 0 } id id).trans
    (startSegment_bounds n _)

theorem armOwner_bounds (c : LinkCell) (s : State) : KeepsBounds s (armOwner c s) := by
  unfold armOwner
  dsimp only
  refine (leaveStandby_bounds s).trans ?_
  split
  · exact putReply_bounds _ _ _
  · exact (beginCapture_bounds _ _).trans (putReply_bounds _ _ _)

theorem resetLanes_bounds (u : Ts) (l : Lp) (p : Pru) (hu : u.history = []) (hl : l.queue = []) (s : State) :
    KeepsBounds s { s with
      ts := u, lanes := Vector.replicate 4 idleLane, sm := { stamps := [] }, lp := l, pru := p } :=
  fun law => {
    commands := by simp [hl]
    records := law.records
    staged := law.staged
    history := by simp [hu]
    symbols := fun l => by simp [idleLane]
    horizon := Nat.zero_le _ }

theorem linkReset_bounds (s : State) : KeepsBounds s (linkReset s) := by
  have redecode : ∀ q, KeepsBounds q (abortRedecode q) := fun q =>
    .apart (abortRedecode_frame q) (by decide)
  have render : ∀ q, KeepsBounds q (abortRender q) := fun q => .apart (abortRender_frame q) (by decide)
  have readout : ∀ q, KeepsBounds q (dropReadout q) := fun q => .apart (dropReadout_frame q) (by decide)
  have ended : KeepsBounds s (endOperations s) :=
    (((resetCapture_bounds s).trans (redecode _)).trans (render _)).trans (readout _)
  unfold linkReset
  generalize endOperations s = q at ended
  have reset := resetLanes_bounds (offTs q.ts) (resetLp q.lp) { q.pru with cause := .link } rfl rfl q
  exact (ended.trans reset).trans (.apart (restartIdle_frame _) (by decide))

theorem arrive_bounds (c : LinkCell) (s : State) : KeepsBounds s (arrive c s) := by
  have awake : KeepsBounds s (restartIdle s) := .apart (restartIdle_frame s) (by decide)
  unfold arrive
  dsimp only
  generalize restartIdle s = q at awake
  split
  · next room =>
    refine awake.trans fun law => ?_
    refine ⟨?_, law.records, law.staged, law.history, law.symbols, law.horizon⟩
    simp only [Config.commandDepth] at room
    simp only [List.length_append, List.length_singleton]
    omega
  · refine awake.trans (.trans ?_ (.apart (raiseNotice_frame _ _) (by decide)))
    exact fun law => ⟨law.commands, law.records, law.staged, law.history, law.symbols, law.horizon⟩

/-! ### The rows -/

theorem counterExpiry_bounds {i : Fin 2} (h : execCounterExpiry i s = .next t) : KeepsBounds s t := by
  unfold execCounterExpiry expireEarly at h
  repeat' split at h
  all_goals cases h; exact bounds_ts s _ id

theorem gapDeadline_bounds {l : Fin 4} (h : execGapDeadline l s = .next t) : KeepsBounds s t := by
  have settled := settle_bounds s
  unfold execGapDeadline at h
  dsimp only at h
  generalize settle s = q at h settled
  repeat' split at h
  all_goals cases h
  all_goals first
    | exact .refl s
    | exact (settled.trans (bounds_lane l _ q id)).trans (emitSymbols_bounds _ _ _)

theorem stretchTimeout_bounds {l : Fin 4} (h : execStretchTimeout l s = .next t) : KeepsBounds s t := by
  have settled := settle_bounds s
  unfold execStretchTimeout at h
  dsimp only at h
  generalize settle s = q at h settled
  repeat' split at h
  all_goals cases h
  all_goals first
    | exact .refl s
    | exact settled.trans (bounds_lane l _ q id)

theorem writeQueueDrain_bounds (h : execWriteQueueDrain s = .next t) : KeepsBounds s t := by
  unfold execWriteQueueDrain at h
  repeat' split at h
  case h_1 queue => exact drainRecord_bounds queue h
  all_goals cases h; exact .refl s

theorem symbolWrite_bounds (h : execSymbolWrite s = .next t) : KeepsBounds s t := by
  unfold execSymbolWrite at h
  repeat' split at h
  case h_1 => exact mergeSymbol_bounds h
  all_goals cases h; exact .refl s

theorem closeComplete_bounds (h : execCloseComplete s = .next t) : KeepsBounds s t := by
  unfold execCloseComplete at h
  repeat' split at h
  case h_1 => cases h; exact completeClose_bounds _ _ s
  all_goals cases h; exact .refl s

theorem redecodeRecordRead_bounds (h : execRedecodeRecordRead s = .next t) : KeepsBounds s t := by
  unfold execRedecodeRecordRead at h
  repeat' split at h
  all_goals cases h
  case h_1.isTrue.refl => exact replayRecord_bounds _ s
  all_goals exact .refl s

theorem redecodeDone_bounds (h : execRedecodeDone s = .next t) : KeepsBounds s t := by
  unfold execRedecodeDone at h
  repeat' split at h
  case h_1 => cases h; exact completeRedecode_bounds _ s
  all_goals cases h; exact .refl s

theorem badCommand_bounds (h : execBadCommand s = .next t) : KeepsBounds s t := by
  unfold execBadCommand at h
  split at h
  · next taken => cases h; exact (takeCommand_bounds taken).trans (putReply_bounds _ _ _)
  · cases h; exact .refl s

theorem statusReply_bounds (c : LinkCell) (r : Option StatusReport) (s : State) :
    KeepsBounds s (statusReply c r s) := by
  unfold statusReply
  split <;> exact putReply_bounds _ _ s

/-- Each row that can touch a bounded queue keeps the bounds. -/
theorem exec_bounds {i : Instr} (touched : touches i queueParts = true) (h : exec i s = .next t) :
    KeepsBounds s t := by
  cases i
  case powerOnReset => cases h; exact fun _ => coldReset_queueLaw _ _ _
  case pinReset => cases h; exact fun _ => coldReset_queueLaw _ _ _
  case linkReset =>
    obtain rfl := Host.Outcome.next.inj h
    exact .ite (linkReset_bounds s) (.refl s)
  case sample =>
    obtain rfl := Host.Outcome.next.inj h
    exact .ite (sampleTick_bounds s) (.refl s)
  case counterExpiry i => exact counterExpiry_bounds (i := i) h
  case gapDeadline l => exact gapDeadline_bounds (l := l) h
  case stretchTimeout l => exact stretchTimeout_bounds (l := l) h
  case writeQueueDrain => exact writeQueueDrain_bounds h
  case symbolWrite => exact symbolWrite_bounds h
  case closeComplete => exact closeComplete_bounds h
  case redecodeRecordRead => exact redecodeRecordRead_bounds h
  case redecodeDone => exact redecodeDone_bounds h
  case commandCellArrival c =>
    simp only [exec, execCommandCellArrival] at h
    repeat' split at h
    all_goals cases h
    all_goals first
      | exact arrive_bounds _ s
      | exact .refl s
  case badCommand => exact badCommand_bounds h
  case write =>
    refine dispatch_bounds (fun c q => ?_) h
    exact writeTable_keeps .refl .trans putReply_bounds (fun _ _ _ _ => storePlain_bounds)
      (fun c => putReply_bounds c.tag _) c q
  case writePods =>
    exact dispatch_bounds_of_store (ps := [.podTable, .outputs, .slot]) (by decide)
      (fun k bs a b e => (storePod_frame k bs a b e).mono (by decide))
      (fun c q => (writeDone_frame c q).mono (by decide)) (by decide) h
  case writeGenerator =>
    exact dispatch_bounds_of_store (ps := [.genTable, .genOutputs, .loopCounter, .slot]) (by decide)
      (fun k bs a b e => (storeGen_frame k bs a b e).mono (by decide))
      (fun c q => (writeDone_frame c q).mono (by decide)) (by decide) h
  case writeRegions =>
    exact dispatch_bounds_of_store (ps := [.regions, .fill, .slot, .inProgress]) (by decide)
      (fun k bs a b e => (storeRegions_frame k bs a b e).mono (by decide))
      (fun c q => (fillReply_frame _ c q).mono (by decide)) (by decide) h
  case writeSegmentPlan =>
    exact dispatch_bounds_of_store (ps := [.plan, .segments, .slot]) (by decide)
      (fun k bs a b e => (storePlan_frame k bs a b e).mono (by decide))
      (fun c q => (writeDone_frame c q).mono (by decide)) (by decide) h
  case writeCursors =>
    exact dispatch_bounds_of_store (ps := [.cursors, .su, .re, .slot]) (by decide)
      (fun k bs a b e => (storeCursor_frame k bs a b e).mono (by decide))
      (fun c q => (writeDone_frame c q).mono (by decide)) (by decide) h
  case writePanel =>
    exact dispatch_bounds_of_store (ps := [.panel, .su, .slot, .inProgress]) (by decide)
      (fun k bs a b e => (storePanel_frame k bs a b e).mono (by decide))
      (fun c q => (fillReply_frame _ c q).mono (by decide)) (by decide) h
  case writePowerAndNotice =>
    exact dispatch_bounds_of_store (ps := [.powerTable, .idleStart, .slot]) (by decide)
      (fun k bs a b e => (storePower_frame k bs a b e).mono (by decide))
      (fun c q => (writeDone_frame c q).mono (by decide)) (by decide) h
  case read =>
    refine dispatch_bounds (fun c q => ?_) h
    exact .ite (putReply_bounds _ _ q) (.ite (putReply_bounds _ _ q) (putReply_bounds _ _ q))
  case arm => exact dispatch_bounds armOwner_bounds h
  case stop =>
    exact dispatch_bounds (fun c q => .trans (.ite (stopCapture_bounds q) (.refl q))
      (putReply_bounds _ _ _)) h
  case force =>
    exact dispatch_bounds (fun c q => .trans (.ite (forceCapture_bounds q) (.refl q))
      (putReply_bounds _ _ _)) h
  case redecode => exact dispatch_bounds redecodeOwner_bounds h
  case render =>
    exact dispatch_bounds (fun c q => ((leaveStandby_bounds q).trans
      (.apart (requestRender_frame _) (by decide))).trans (putReply_bounds _ _ _)) h
  case swap =>
    refine dispatch_bounds (fun c q => ?_) h
    exact fun law => ⟨law.commands, law.records, law.staged, law.history, law.symbols, law.horizon⟩
  case readout => exact dispatch_bounds_of_frame readoutOwner_frame (by decide) h
  case cancel =>
    refine dispatch_bounds (fun c q => .trans ?_ (putReply_bounds _ _ _)) h
    split
    · exact .apart (cancelReadout_frame _ q) (by decide)
    · exact .refl q
  case powerRun => exact dispatch_bounds_of_frame powerRunOwner_frame (by decide) h
  case powerStandby => exact dispatch_bounds_of_frame powerStandbyOwner_frame (by decide) h
  case powerSleep => exact dispatch_bounds_of_frame powerSleepOwner_frame (by decide) h
  case reset => exact dispatch_bounds_of_frame (fun c q => putReply_frame _ _ q) (by decide) h
  case statusDevice => exact dispatch_bounds (fun c q => statusReply_bounds c _ q) h
  case statusSegment => exact dispatch_bounds (fun c q => statusReply_bounds c _ q) h
  case statusLane => exact dispatch_bounds (fun c q => statusReply_bounds c _ q) h
  case statusSequencer => exact dispatch_bounds (fun c q => statusReply_bounds c _ q) h
  case statusRender => exact dispatch_bounds (fun c q => statusReply_bounds c _ q) h
  all_goals exact absurd touched Bool.false_ne_true

/-- Settles O8: every row that can touch a queue keeps its bound. -/
theorem everyStepKeepsTheQueueBounds : Obligations.EveryStepKeepsTheQueueBounds := fun _ _ law h =>
  step_keeps restsOn_queueLaw (by decide) (fun _ _ _ touched law h => exec_bounds touched h law) law h

end Sys2Proof.Machine
end

section
/-! SUPPORT. The acquisition-locked tables (R168): while a capture or a redecode runs, a WRITE of one of them is
refused Busy, and no other row but a cold reset touches them. -/

namespace Sys2Proof.Machine

variable {s t : State}

/-- The acquisition-locked tables (R168). -/
def lockedParts : List Part := [.acqTable, .podTable, .regions, .plan, .tsTables, .laneTable, .fieldMap]

/-- A capture or a redecode runs. -/
def acquiring (s : State) : Prop := s.ce.engine ≠ .idle ∨ s.redecode ≠ none

theorem acquisitionFree_of_acquiring (h : acquiring s) : acquisitionFree s = false := by
  rcases h with engine | redecode
  · simp [acquisitionFree, engineIdle, engine]
  · have running : s.redecode.isNone = false := by
      cases e : s.redecode
      · exact absurd e redecode
      · rfl
    simp [acquisitionFree, running]

theorem writable_of_acquiring {n : Nat} (h : acquiring s) (locked : n ∈ [0, 1, 3, 4, 5, 6, 7, 8, 9]) :
    writable s n = false := by
  have taken := acquisitionFree_of_acquiring h
  simp only [List.mem_cons, List.not_mem_nil, or_false] at locked
  rcases locked with rfl | rfl | rfl | rfl | rfl | rfl | rfl | rfl | rfl <;> simp [writable, taken]

/-- What a dispatch leaves in force of a capture or redecode that runs. -/
theorem acquiring_of_dispatch (h : ChangesOnly dispatchParts s t) (running : acquiring s) : acquiring t := by
  have ce : t.ce = s.ce := h .ce (by decide)
  have redecode : t.redecode = s.redecode := h .redecode (by decide)
  unfold acquiring
  rwa [ce, redecode]

/-- Two states with the same acquisition-locked tables. -/
def SameLocked (s t : State) : Prop := ∀ p ∈ lockedParts, p.same s t

theorem SameLocked.of_frame {ps : List Part} (h : ChangesOnly ps s t) (free : ∀ p ∈ lockedParts, p ∉ ps) :
    SameLocked s t := fun p hp => h p (free p hp)

/-- A WRITE keeps the locked tables while a capture or redecode runs, if its owner refuses the locked tables
and touches none of them otherwise. -/
theorem dispatch_sameLocked {row : Instr} {n : Option Nat} {b : Bool} {owner : LinkCell → State → State}
    (running : acquiring s) (ho : ∀ c q, commandRow c = row → acquiring q → SameLocked q (owner c q))
    (h : dispatch row n b s owner = .next t) : SameLocked s t := by
  unfold dispatch at h
  split at h
  · obtain rfl := Host.Outcome.next.inj h
    exact fun p _ => p.same_refl s
  · next c q taken =>
    have popped := takeCommand_frame taken
    split at h
    · obtain rfl := Host.Outcome.next.inj h
      exact .of_frame (popped.trans ((putReply_frame _ _ _).mono (by decide))) (by decide)
    · obtain rfl := Host.Outcome.next.inj h
      have first : SameLocked s q := .of_frame popped (by decide)
      have second := ho c q (takeCommand_row taken).2.1 (acquiring_of_dispatch popped running)
      exact fun p hp => Part.same_trans (first p hp) (second p hp)

theorem writeTable_sameLocked {store : EntryStore} {done : LinkCell → State → State} {c : LinkCell}
    (running : acquiring s) (locked : byteAt c.payload 0 ∈ [0, 1, 3, 4, 5, 6, 7, 8, 9]) :
    SameLocked s (writeTable store done c s) :=
  .of_frame (writeTable_locked c s (writable_of_acquiring running locked)) (by decide)

/-- A table without a row of its own is locked, or stored apart from the locked tables. -/
theorem storePlain_free {n k : Nat} {bs : List Byte} (free : n ∉ [0, 5, 6, 7, 8, 9])
    (h : storePlain n k bs s = .inr t) :
    ChangesOnly [.viewSets, .re, .palette, .glyphs, .su, .slot] s t := by
  simp only [List.mem_cons, List.not_mem_nil, or_false, not_or] at free
  unfold storePlain at h
  split at h
  case h_7 | h_8 =>
    obtain ⟨v, _, rfl⟩ := storeRead_inr h
    intro p hp
    cases p <;> first
      | rfl | exact ⟨rfl, rfl, rfl⟩ | exact fun _ => rfl | simp at hp
  case h_9 | h_10 =>
    cases h
    intro p hp
    cases p <;> first
      | rfl | exact ⟨rfl, rfl⟩ | exact ⟨rfl, rfl, rfl⟩ | exact fun _ => rfl | simp at hp
  all_goals simp at free

theorem write_sameLocked (running : acquiring s) (h : execWrite s = .next t) : SameLocked s t := by
  refine dispatch_sameLocked running (fun c q _ running => ?_) h
  by_cases locked : byteAt c.payload 0 ∈ [0, 1, 3, 4, 5, 6, 7, 8, 9]
  · exact writeTable_sameLocked running locked
  · have free : byteAt c.payload 0 ∉ [0, 5, 6, 7, 8, 9] := fun e => locked (by
      simp only [List.mem_cons, List.not_mem_nil, or_false] at e ⊢
      omega)
    exact .of_frame (writeTable_frame (by decide) (fun _ _ _ _ => storePlain_free free)
      (fun c q => (writeDone_frame c q).mono (by decide)) c q) (by decide)

/-- No row but a cold reset touches a locked table while a capture or redecode runs. -/
theorem exec_sameLocked {i : Instr} (running : acquiring s)
    (warm : ∀ d, i ≠ .powerOnReset d ∧ i ≠ .pinReset d) (h : exec i s = .next t) : SameLocked s t := by
  have ownRow : ∀ {row : Instr} {n : Nat} {store : EntryStore} {done : LinkCell → State → State},
      (row, n) ∈ [(Instr.writePods, 1), (.writeGenerator, 2), (.writeRegions, 3), (.writeSegmentPlan, 4),
        (.writeCursors, 12), (.writePanel, 15), (.writePowerAndNotice, 16)] →
      n ∈ [0, 1, 3, 4, 5, 6, 7, 8, 9] → dispatch row none false s (writeTable store done) = .next t →
      SameLocked s t := fun owned locked =>
    dispatch_sameLocked running fun c q row running =>
      writeTable_sameLocked running (writeRow_table row owned ▸ locked)
  by_cases touched : touches i lockedParts = true
  · cases i
    case powerOnReset d => exact absurd rfl (warm d).1
    case pinReset d => exact absurd rfl (warm d).2
    case write => exact write_sameLocked running h
    case writePods => exact ownRow (n := 1) (by simp) (by simp) h
    case writeRegions => exact ownRow (n := 3) (by simp) (by simp) h
    case writeSegmentPlan => exact ownRow (n := 4) (by simp) (by simp) h
    all_goals exact absurd touched Bool.false_ne_true
  · exact .of_frame (exec_frame h) (not_mem_of_not_touches touched)

/-- Settles O9. -/
theorem captureTablesAreLocked : Obligations.CaptureTablesAreLocked := fun _ _ _ running warm h =>
  exec_sameLocked running warm h

end Sys2Proof.Machine
end

section
/-! SUPPORT. Comparators, pods and the Signal Generator: what each operation does bit by bit and pod by pod
(R3 to R6, R14 to R17), and the cold resets (R179). -/

namespace Sys2Proof.Machine

/-- An entry of a table after one entry is set. -/
theorem set_getElem {α : Type} {n : Nat} (v : Vector α n) (i j : Fin n) (x : α) :
    (v.set i x)[j] = if j = i then x else v[j] := by
  by_cases same : j = i
  · subst same
    simp
  · have apart : i.val ≠ j.val := fun e => same (Fin.ext e.symm)
    simp [apart, same]

/-! ### Comparators (R2, R3) -/

/-- What the comparator of a channel decides, with or without its held state (R3). -/
def decided (fresh : Bool) (p : Pfe) (k : Fin 32) : Bool :=
  if fresh then comparatorStart p.table[podOf k] p.inputs[k]
  else comparatorOutput p.table[podOf k] (p.outputs.getLsbD k) p.inputs[k]

theorem decideChannel_output (fresh : Bool) (p : Pfe) (k i : Fin 32) :
    (decideChannel fresh p k).outputs.getLsbD i =
      if i = k then decided fresh p k else p.outputs.getLsbD i :=
  getLsbD_setBit _ _ _ _

theorem decided_decideChannel {fresh : Bool} {p : Pfe} {k i : Fin 32} (apart : i ≠ k) :
    decided fresh (decideChannel fresh p k) i = decided fresh p i := by
  unfold decided
  rw [decideChannel_output, if_neg apart]
  rfl

/-- Channels that decide one after another, each once: they take what they decide, the others stay. -/
theorem decideChannels_output (fresh : Bool) {xs : List (Fin 32)} (once : xs.Nodup) (p : Pfe) (i : Fin 32) :
    (xs.foldl (decideChannel fresh) p).outputs.getLsbD i =
      if i ∈ xs then decided fresh p i else p.outputs.getLsbD i := by
  induction xs generalizing p with
  | nil => rfl
  | cons x xs ih =>
    obtain ⟨fresh_x, once⟩ := List.nodup_cons.1 once
    rw [List.foldl_cons, ih once, decideChannel_output]
    by_cases first : i = x
    · subst first
      simp [fresh_x]
    · simp [first, decided_decideChannel first]

/-- The channels of a pod. -/
def podChannels (pod : Fin 4) : List (Fin 32) :=
  (List.finRange 8).map fun i => ⟨pod.val * 8 + i.val, by omega⟩

theorem podChannels_nodup (pod : Fin 4) : (podChannels pod).Nodup := by
  refine (List.nodup_finRange 8).map fun i j same => ?_
  have := congrArg Fin.val same
  exact Fin.ext (by simpa using this)

theorem mem_podChannels {pod : Fin 4} {k : Fin 32} : k ∈ podChannels pod ↔ podOf k = pod := by
  simp only [podChannels, List.mem_map, List.mem_finRange, true_and, podOf, Fin.ext_iff]
  constructor
  · rintro ⟨i, same⟩
    omega
  · intro same
    exact ⟨⟨k.val % 8, by omega⟩, by simp; omega⟩

theorem decidePod_eq (fresh : Bool) (pod : Fin 4) (p : Pfe) :
    decidePod fresh pod p = (podChannels pod).foldl (decideChannel fresh) p := by
  rw [decidePod, podChannels, List.foldl_map]

theorem decidePod_output (fresh : Bool) (pod : Fin 4) (p : Pfe) (k : Fin 32) :
    (decidePod fresh pod p).outputs.getLsbD k =
      if podOf k = pod then decided fresh p k else p.outputs.getLsbD k := by
  rw [decidePod_eq, decideChannels_output fresh (podChannels_nodup pod)]
  simp only [mem_podChannels]

theorem startComparators_output (p : Pfe) (k : Fin 32) :
    (startComparators p).outputs.getLsbD k = decided true p k := by
  rw [startComparators, decideChannels_output true (List.nodup_finRange 32), if_pos (List.mem_finRange k)]

/-! ### The cold resets (R179) -/

theorem resetPfe_keeps (p : Pfe) :
    (resetPfe p).inputs = p.inputs ∧ (resetPfe p).table = Vector.replicate 4 defaultPod ∧
      (resetPfe p).pods = (mapPods resetPod p).pods := by
  obtain ⟨table, inputs, pods⟩ := startComparators_keeps (mapPods resetPod { p with
    table := Vector.replicate 4 defaultPod, outputs := 0 })
  exact ⟨inputs, table, pods⟩

theorem resetPfe_pod (p : Pfe) (pod : Fin 4) : (resetPfe p).pods[pod] = resetPod p.pods[pod] := by
  rw [(resetPfe_keeps p).2.2]
  exact mapPods_getElem resetPod p pod

theorem resetPfe_output (p : Pfe) (k : Fin 32) :
    (resetPfe p).outputs.getLsbD k = decide (2 * 1400 < p.inputs[k]) := by
  unfold resetPfe
  rw [startComparators_output]
  simp [decided, comparatorStart, mapPods, defaultPod]

/-- Settles O11: either step is one `coldReset`, block by block the reset state's but for what the strap, the
cause and the pods decide. -/
theorem powerOnAndPinResetRestoreEveryBlock : Obligations.PowerOnAndPinResetRestoreEveryBlock := by
  intro strap s i cause which
  have reset : exec i s = .next (coldReset cause strap s) := by
    simp only [List.mem_cons, Prod.mk.injEq, List.not_mem_nil, or_false] at which
    rcases which with ⟨rfl, rfl⟩ | ⟨rfl, rfl⟩ <;> rfl
  refine ⟨_, reset, rfl, rfl, (resetPfe_keeps s.pfe).1, fun pod => ?_, resetPfe_output s.pfe⟩
  have table : (coldReset cause strap s).pfe.table = Vector.replicate 4 defaultPod :=
    (resetPfe_keeps s.pfe).2.1
  have pods : (coldReset cause strap s).pfe.pods[pod] = resetPod s.pfe.pods[pod] := resetPfe_pod s.pfe pod
  rw [table, pods]
  exact ⟨by simp [defaultPod], rfl, rfl, rfl⟩

/-! ### Changes of the pins (R3, R4, R183) -/

variable {s : State}

theorem watchChannels_sleep (sleep : s.pru.power = .sleep) (none_yet : s.pru.wake = none) :
    watchChannels s = { s with pru.changed := s.pru.changed ||| changedChannels s } :=
  if_pos ⟨sleep, by simp [none_yet]⟩

theorem watchChannels_awake (awake : s.pru.power ≠ .sleep ∨ s.pru.wake ≠ none) : watchChannels s = s :=
  if_neg fun ⟨sleep, none_yet⟩ => awake.elim (· sleep) (· (by simpa using none_yet))

/-- The wake logic leaves everything but its own latch of changes. -/
theorem watchChannels_eq (s : State) : watchChannels s = { s with pru := (watchChannels s).pru } := by
  unfold watchChannels
  split <;> rfl

theorem exec_comparatorOutputChange (k : Fin 32) (v : Int) (s : State) :
    exec (.comparatorOutputChange k v) s = .next (watchChannels { s with
      pfe := decideChannel false { s.pfe with inputs := s.pfe.inputs.set k v } k }) := rfl

theorem exec_presenceSenseChange (pod : Fin 4) (level : Bool) (s : State) :
    exec (.presenceSenseChange pod level) s = if s.pfe.pods[pod].sense = level then .next s
      else .next { s with
        pfe.pods := s.pfe.pods.set pod { s.pfe.pods[pod] with sense := level, filterStart := s.time } } := rfl

theorem comparator_decides (k : Fin 32) (v : Int) (s : State) :
    ∃ t, exec (.comparatorOutputChange k v) s = .next t ∧
      t.pfe.inputs = s.pfe.inputs.set k v ∧
      t.pfe.outputs.getLsbD k =
        (if 2 * s.pfe.table[podOf k].threshold + s.pfe.table[podOf k].hysteresis < v then true
          else if v ≤ 2 * s.pfe.table[podOf k].threshold - s.pfe.table[podOf k].hysteresis then false
          else s.pfe.outputs.getLsbD k) ∧
      (∀ j : Fin 32, j ≠ k → t.pfe.outputs.getLsbD j = s.pfe.outputs.getLsbD j) ∧
      (s.pru.power = .sleep → s.pru.wake = none →
        t.pru.changed = s.pru.changed ||| ((wakeLevels t.pfe ^^^ s.pru.recorded) &&& s.pru.mask)) ∧
      (s.pru.power ≠ .sleep ∨ s.pru.wake ≠ none → t.pru = s.pru) ∧
      ChangesOnly [.inputs, .outputs, .wakeLogic] s t := by
  have step := exec_comparatorOutputChange k v s
  have frame := exec_frame step
  refine ⟨_, step, ?inputs, ?output, ?others, ?sleep, ?awake, frame⟩
  case inputs => rw [watchChannels_eq]; rfl
  case output =>
    rw [watchChannels_eq]
    dsimp only
    rw [decideChannel_output, if_pos rfl]
    simp [decided, comparatorOutput]
  case others =>
    intro j apart
    rw [watchChannels_eq]
    dsimp only
    rw [decideChannel_output, if_neg apart]
  case sleep =>
    intro sleep none_yet
    have watched := watchChannels_sleep (s := { s with
      pfe := decideChannel false { s.pfe with inputs := s.pfe.inputs.set k v } k }) sleep none_yet
    rw [watched]
    rfl
  case awake =>
    intro awake
    have watched := watchChannels_awake (s := { s with
      pfe := decideChannel false { s.pfe with inputs := s.pfe.inputs.set k v } k }) awake
    rw [watched]

theorem presenceSense_restarts (pod : Fin 4) (level : Bool) (s : State) :
    ∃ t, exec (.presenceSenseChange pod level) s = .next t ∧
      (s.pfe.pods[pod].sense = level → t = s) ∧
      (s.pfe.pods[pod].sense ≠ level →
        t.pfe.pods[pod] = { s.pfe.pods[pod] with sense := level, filterStart := s.time }) ∧
      (∀ p : Fin 4, p ≠ pod → t.pfe.pods[p] = s.pfe.pods[p]) ∧ ChangesOnly [.pods] s t := by
  have step := exec_presenceSenseChange pod level s
  by_cases same : s.pfe.pods[pod].sense = level
  · rw [if_pos same] at step
    exact ⟨s, step, fun _ => rfl, fun differs => absurd same differs, fun _ _ => rfl, .refl _ s⟩
  · rw [if_neg same] at step
    refine ⟨_, step, fun e => absurd e same, fun _ => ?_, fun p apart => ?_, exec_frame step⟩
    · exact (set_getElem _ _ _ _).trans (if_pos rfl)
    · exact (set_getElem _ _ _ _).trans (if_neg apart)

/-- Settles O13. -/
theorem pinChangesDecideComparatorsAndFilters : Obligations.PinChangesDecideComparatorsAndFilters :=
  ⟨comparator_decides, presenceSense_restarts⟩

/-! ### Changes of Present (R4, R6) -/

/-- A pod is lost out of a segment's capture (R6). -/
def losesPod (pod : Fin 4) (n : Fin 32) (s : State) : Prop :=
  s.pfe.pods[pod].sense = false ∧ s.ce.segment = some n ∧
    (s.ce.engine = .preFill ∨ s.ce.engine = .armed ∨ s.ce.engine = .triggered) ∧
    s.ce.table.loop = false ∧ (s.ce.table.width = .wide ∨ pod.val < 2)

theorem capturedPod_iff (e : AcqEntry) (pod : Fin 4) :
    capturedPod e pod = true ↔ e.loop = false ∧ (e.width = .wide ∨ pod.val < 2) := by
  cases hw : e.width <;> simp [capturedPod, hw]

/-- PodLost is set in the segment being filled by a captured pod, and nothing else changes (R6). -/
theorem notePodLost_segment (pod : Fin 4) (s : State) (n : Fin 32) :
    (notePodLost pod s).segments[n] =
      if s.ce.segment = some n ∧ capturing s = true ∧ capturedPod s.ce.table pod = true then
        { s.segments[n] with podLost := true }
      else s.segments[n] := by
  unfold notePodLost
  split
  · next m current =>
    rw [current]
    split
    · next lost =>
      rw [modifySegment_segment]
      simp only [Option.some.injEq, lost, and_true]
    · next kept => simp only [kept, and_false, if_false]
  · next none_now => simp [none_now]

theorem exec_podPresentChange {pod : Fin 4} {s : State} (due : presenceDue s pod = true) :
    exec (.podPresentChange pod) s = .next (changePresent pod s) := if_pos due

/-- The Probe Front End of a pod whose Present has changed. -/
def presentPfe (pod : Fin 4) (p : Pfe) : Pfe :=
  let q := { p.pods[pod] with
    present := p.pods[pod].sense, changed := true, inserted := p.pods[pod].sense }
  if p.pods[pod].sense then decidePod true pod { p with pods := p.pods.set pod q }
  else { p with pods := p.pods.set pod q }

theorem changePresent_eq (pod : Fin 4) (s : State) : changePresent pod s =
    if s.pfe.pods[pod].sense then
      raiseNotice (.podChange pod s.pfe.pods[pod].sense) { s with pfe := presentPfe pod s.pfe }
    else notePodLost pod
      (raiseNotice (.podChange pod s.pfe.pods[pod].sense) { s with pfe := presentPfe pod s.pfe }) := rfl

theorem changePresent_pfe (pod : Fin 4) (s : State) :
    (changePresent pod s).pfe = presentPfe pod s.pfe := by
  have raise := raiseNotice_eq { s with pfe := presentPfe pod s.pfe } (.podChange pod s.pfe.pods[pod].sense)
  rw [changePresent_eq]
  split
  · rw [raise]
  · have lost : ∀ q : State, (notePodLost pod q).pfe = q.pfe := by
      intro q
      unfold notePodLost
      repeat' split
      all_goals rfl
    rw [lost, raise]

theorem presentPfe_pods (pod : Fin 4) (p : Pfe) : (presentPfe pod p).pods = p.pods.set pod
    { p.pods[pod] with present := p.pods[pod].sense, changed := true, inserted := p.pods[pod].sense } := by
  unfold presentPfe
  dsimp only
  split
  · exact (decidePod_keeps _ _ _).2.2
  · rfl

theorem presentPfe_output (pod : Fin 4) (p : Pfe) (k : Fin 32) :
    (presentPfe pod p).outputs.getLsbD k = if p.pods[pod].sense = true ∧ podOf k = pod then
      decide (2 * p.table[pod].threshold < p.inputs[k]) else p.outputs.getLsbD k := by
  unfold presentPfe
  dsimp only
  split
  · next inserted =>
    rw [decidePod_output]
    by_cases own : podOf k = pod
    · subst own
      rw [if_pos rfl, if_pos ⟨inserted, rfl⟩]
      rfl
    · rw [if_neg own, if_neg (own ·.2)]
  · next removed => rw [if_neg (removed ·.1)]

theorem changePresent_notices (pod : Fin 4) (s : State) :
    raised (.podChange pod s.pfe.pods[pod].sense) s (changePresent pod s) := by
  have notices := raiseNotice_notices s (.podChange pod s.pfe.pods[pod].sense)
    { s with pfe := presentPfe pod s.pfe } rfl rfl
  unfold raised
  rw [changePresent_eq]
  split
  · exact notices
  · rw [notePodLost_frame pod _ .notices (by decide)]
    exact notices

/-- The segments after a change of Present: PodLost for a pod lost out of the capture, else as before. -/
theorem changePresent_segment (pod : Fin 4) (s : State) (n : Fin 32) :
    (losesPod pod n s → (changePresent pod s).segments[n] = { s.segments[n] with podLost := true }) ∧
      (¬losesPod pod n s → (changePresent pod s).segments[n] = s.segments[n]) := by
  rw [changePresent_eq, raiseNotice_eq]
  split
  · next inserted =>
    exact ⟨fun lost => absurd (lost.1.symm.trans inserted) Bool.false_ne_true, fun _ => rfl⟩
  · next removed =>
    have condition : losesPod pod n s ↔ s.ce.segment = some n ∧ capturing s = true ∧
        capturedPod s.ce.table pod = true := by
      simp only [losesPod, capturing_iff, capturedPod_iff, Bool.eq_false_iff.2 removed, true_and]
    rw [notePodLost_segment]
    refine ⟨fun lost => ?_, fun kept => ?_⟩
    · exact if_pos (condition.1 lost)
    · exact if_neg fun h => kept (condition.2 h)

theorem presenceDue_of_held {pod : Fin 4} (differs : s.pfe.pods[pod].sense ≠ s.pfe.pods[pod].present)
    (held : 400000 ≤ timeDiff s.time s.pfe.pods[pod].filterStart) (awake : s.pru.power ≠ .sleep) :
    presenceDue s pod = true := by
  have ticks : Config.presenceTicks ≤ ticksAfter s.time s.pfe.pods[pod].filterStart := by
    simp only [Config.presenceTicks, ticksAfter]
    omega
  simp only [presenceDue, Bool.and_eq_true, bne_iff_ne, decide_eq_true_eq]
  exact ⟨⟨differs, ticks⟩, awake⟩

/-- Settles O14: the change that is due is `changePresent`, whose pods, comparators, notice and segments are
those stated. -/
theorem presentFollowsTheSenseAfterOneMillisecond :
    Obligations.PresentFollowsTheSenseAfterOneMillisecond := by
  intro pod s differs held awake
  have step := exec_podPresentChange (presenceDue_of_held differs held awake)
  refine ⟨_, step, ?present, ?changed, ?others, changePresent_notices pod s, ?outputs, ?inserted, ?lost, ?each,
    exec_frame step⟩
  case present => rw [changePresent_pfe, presentPfe_pods, set_getElem, if_pos rfl]
  case changed => rw [changePresent_pfe, presentPfe_pods, set_getElem, if_pos rfl]
  case others =>
    intro p apart
    rw [changePresent_pfe, presentPfe_pods, set_getElem, if_neg apart]
  case outputs =>
    intro k
    rw [changePresent_pfe, presentPfe_output]
  case inserted =>
    intro inserted
    rw [changePresent_eq, if_pos inserted, raiseNotice_eq]
  case lost =>
    intro removed n current running noLoop captured
    rw [(changePresent_segment pod s n).1 ⟨removed, current, running, noLoop, captured⟩]
  case each =>
    intro n lost same
    rw [same]
    exact changePresent_segment pod s n

/-! ### Half-periods (R14, R16, R17) -/

theorem setOutput_self (i : Fin 2) (o : GenOutput) (g : Gen) : (setOutput i o g).outputs[i] = o :=
  (set_getElem _ _ _ _).trans (if_pos rfl)

theorem setOutput_other {i j : Fin 2} (apart : j ≠ i) (o : GenOutput) (g : Gen) :
    (setOutput i o g).outputs[j] = g.outputs[j] := (set_getElem _ _ _ _).trans (if_neg apart)

theorem setOutput_loopCounter (i : Fin 2) (o : GenOutput) (g : Gen) : (setOutput i o g).loopCounter =
    if i = 0 ∧ g.outputs[i].level = false ∧ o.level = true then g.loopCounter + 1 else g.loopCounter := rfl

section

variable (e : GenEntry) {o : GenOutput}

theorem afterHalfPeriod_running (run : o.run = .running) :
    afterHalfPeriod e o = { o with level := !o.level, ticksLeft := e.half } := by
  simp [afterHalfPeriod, run]

theorem afterHalfPeriod_falls (run : o.run = .bursting) (high : o.level = true) :
    afterHalfPeriod e o = { o with level := false, ticksLeft := e.half } := by
  simp [afterHalfPeriod, run, high]

theorem afterHalfPeriod_rises (run : o.run = .bursting) (low : o.level = false) (more : 2 ≤ o.periodsLeft) :
    afterHalfPeriod e o =
      { o with level := true, ticksLeft := e.half, periodsLeft := o.periodsLeft - 1 } := by
  simp [afterHalfPeriod, run, low, Nat.not_le.2 more]

theorem afterHalfPeriod_ends (run : o.run = .bursting) (low : o.level = false) (last : o.periodsLeft = 1) :
    afterHalfPeriod e o =
      { level := false, run := if e.mode = .burstOnTrigger then .waiting else .held, ticksLeft := 0
        periodsLeft := 0 } := by
  simp [afterHalfPeriod, run, low, last]

end

theorem halfPeriodDue_of_ended {i : Fin 2} (ended : s.gen.outputs[i].ticksLeft = 0)
    (awake : s.pru.power ≠ .sleep)
    (run : s.gen.outputs[i].run = .running ∨ s.gen.outputs[i].run = .bursting) :
    halfPeriodDue s i = true := by
  simp only [halfPeriodDue, Bool.and_eq_true, Bool.or_eq_true, beq_iff_eq, bne_iff_ne]
  exact ⟨⟨run, ended⟩, awake⟩

theorem exec_halfPeriodEnd {i : Fin 2} (due : halfPeriodDue s i = true) :
    exec (.halfPeriodEnd i) s = .next { s with gen := endHalfPeriod i s.gen } := if_pos due

/-- Settles O15: the output takes `afterHalfPeriod`, case by case, and the other output stays. -/
theorem halfPeriodEndChangesTheLevel : Obligations.HalfPeriodEndChangesTheLevel := by
  intro i s ended awake run
  have step := exec_halfPeriodEnd (halfPeriodDue_of_ended ended awake run)
  have output : (endHalfPeriod i s.gen).outputs[i] = afterHalfPeriod s.gen.table[i] s.gen.outputs[i] :=
    setOutput_self _ _ _
  refine ⟨_, step, ?running, ?falls, ?rises, ?ends, ?others, ?counter, exec_frame step⟩
  all_goals dsimp only
  case running => exact fun running => output.trans (afterHalfPeriod_running _ running)
  case falls => exact fun burst high => output.trans (afterHalfPeriod_falls _ burst high)
  case rises => exact fun burst low more => output.trans (afterHalfPeriod_rises _ burst low more)
  case ends =>
    intro burst low last
    rw [output, afterHalfPeriod_ends _ burst low last]
    exact ⟨rfl, rfl⟩
  case others => exact fun j apart => setOutput_other apart _ _
  case counter =>
    rw [output]
    exact setOutput_loopCounter _ _ _

end Sys2Proof.Machine
end

section
/-! SUPPORT. The trim of a symbol span (R124), and a link reset of the part (R174). -/

namespace Sys2Proof.Machine

/-! ### The trim of a span (R124) -/

/-- A status record with another retained span, and otherwise the same. -/
def withSpan (first : Option Nat) (count : Nat) (g : SegmentStatus) : SegmentStatus :=
  { g with symbolFirst := first, symbolCount := count }

/-- Trim steps change the retained span of their segment and nothing else. -/
theorem trimAll_eq (n : Fin 32) (start stop : Time) (k : Nat) (s : State) :
    trimAll n start stop k s = { s with segments := (trimAll n start stop k s).segments } := by
  induction k generalizing s with
  | zero => rfl
  | succ k ih =>
    have step : trimStep n start stop s = { s with segments := (trimStep n start stop s).segments } := by
      unfold trimStep
      split <;> rfl
    rw [trimAll, ih, step]

/-- The span a trim step leaves, from the retained span as it stands. -/
theorem trimStep_segment (n m : Fin 32) (start stop : Time) (s : State) :
    ∃ first count, (trimStep n start stop s).segments[m] =
      if n = m then withSpan first count s.segments[m] else s.segments[m] := by
  unfold trimStep
  split
  · next e _ =>
    let left := removeSymbol (spanCapacity s.plan[n]) e s.segments[m]
    exact ⟨left.symbolFirst, left.symbolCount, modifySegment_segment n m _ s⟩
  · exact ⟨s.segments[m].symbolFirst, s.segments[m].symbolCount, by split <;> rfl⟩

theorem trimAll_segment (n m : Fin 32) (start stop : Time) (k : Nat) (s : State) :
    ∃ first count, (trimAll n start stop k s).segments[m] =
      if n = m then withSpan first count s.segments[m] else s.segments[m] := by
  induction k generalizing s with
  | zero => exact ⟨s.segments[m].symbolFirst, s.segments[m].symbolCount, by split <;> rfl⟩
  | succ k ih =>
    obtain ⟨first, count, next⟩ := ih (trimStep n start stop s)
    obtain ⟨_, _, step⟩ := trimStep_segment n m start stop s
    refine ⟨first, count, ?_⟩
    rw [trimAll, next, step]
    split <;> rfl

/-- What a trim against two times has left of a span so far: from its symbol `low` on, `count` symbols, those
before them ending before the first time and those after them after the second. -/
structure TrimmedSoFar (ends : Nat → Time) (start stop : Time) (first capacity total low : Nat)
    (g : SegmentStatus) : Prop where
  within : low + g.symbolCount ≤ total
  oldest : g.symbolFirst = if g.symbolCount = 0 then none else some ((first + low) % capacity)
  below : ∀ i < low, timeDiff (ends i) start < 0
  above : ∀ i, low + g.symbolCount ≤ i → i < total → timeDiff stop (ends i) < 0

/-- Nothing is left to trim of a span. -/
def trimSettled (ends : Nat → Time) (start stop : Time) (low : Nat) (g : SegmentStatus) : Prop :=
  1 ≤ g.symbolCount → 0 ≤ timeDiff (ends low) start ∧ 0 ≤ timeDiff stop (ends (low + g.symbolCount - 1))

theorem before_iff (a b : Time) : before a b = true ↔ timeDiff a b < 0 := decide_eq_true_iff

section

variable {ends : Nat → Time} {start stop : Time} {first capacity total low : Nat} {n : Fin 32} {s : State}

/-- The ends of the oldest and the newest symbol that a trim has left. -/
theorem spanEnds_of_trimmed (some_left : 1 ≤ s.segments[n].symbolCount)
    (so_far : TrimmedSoFar ends start stop first capacity total low s.segments[n])
    (cap : capacity = spanCapacity s.plan[n])
    (reads : ∀ i, ends i = symbolEnd (readSymbol s n ((first + i) % capacity))) :
    spanEnds s n = some (ends low, ends (low + s.segments[n].symbolCount - 1)) := by
  have oldest := so_far.oldest
  rw [if_neg (by omega)] at oldest
  have place : ((first + low) % capacity + s.segments[n].symbolCount - 1) % capacity =
      (first + (low + s.segments[n].symbolCount - 1)) % capacity := by
    rw [Nat.add_sub_assoc some_left, Nat.mod_add_mod, Nat.add_sub_assoc some_left, Nat.add_assoc]
  unfold spanEnds
  dsimp only
  rw [oldest, ← cap]
  dsimp only
  rw [if_neg (by omega), place, ← reads, ← reads]

/-- A trim step goes on trimming, or finds the span settled and leaves it. -/
theorem trimStep_trimmed (some_left : 1 ≤ s.segments[n].symbolCount)
    (so_far : TrimmedSoFar ends start stop first capacity total low s.segments[n])
    (cap : capacity = spanCapacity s.plan[n])
    (reads : ∀ i, ends i = symbolEnd (readSymbol s n ((first + i) % capacity))) :
    (trimSettled ends start stop low s.segments[n] ∧ trimStep n start stop s = s) ∨
      ∃ low', TrimmedSoFar ends start stop first capacity total low' (trimStep n start stop s).segments[n] ∧
        (trimStep n start stop s).segments[n].symbolCount + 1 = s.segments[n].symbolCount := by
  have oldest := so_far.oldest
  rw [if_neg (by omega)] at oldest
  have within := so_far.within
  unfold trimStep trimEnd
  rw [spanEnds_of_trimmed some_left so_far cap reads]
  dsimp only
  by_cases early : before (ends low) start = true
  · refine .inr ⟨low + 1, ?_⟩
    rw [if_pos early]
    dsimp only
    rw [modifySegment_segment, if_pos rfl]
    refine ⟨⟨?_, ?_, ?_, ?_⟩, ?_⟩
    · simp only [removeSymbol]; omega
    · simp only [removeSymbol, oldest, Option.map_some, ← cap, Nat.mod_add_mod, ← Nat.add_assoc]
      split_ifs <;> first | rfl | omega
    · intro i hi
      rcases Nat.lt_succ_iff_lt_or_eq.1 hi with hi | rfl
      · exact so_far.below i hi
      · exact (before_iff _ _).1 early
    · intro i hi bound
      exact so_far.above i (by simp only [removeSymbol] at hi; omega) bound
    · simp only [removeSymbol]; omega
  · rw [if_neg early]
    by_cases late : before stop (ends (low + s.segments[n].symbolCount - 1)) = true
    · refine .inr ⟨low, ?_⟩
      rw [if_pos late]
      dsimp only
      rw [modifySegment_segment, if_pos rfl]
      refine ⟨⟨?_, ?_, so_far.below, ?_⟩, ?_⟩
      · simp only [removeSymbol]; omega
      · simp only [removeSymbol, oldest]
        split_ifs <;> first | rfl | omega
      · intro i hi bound
        simp only [removeSymbol] at hi
        by_cases last : i = low + s.segments[n].symbolCount - 1
        · rw [last]
          exact (before_iff _ _).1 late
        · exact so_far.above i (by omega) bound
      · simp only [removeSymbol]; omega
    · refine .inl ⟨fun _ => ⟨?_, ?_⟩, ?_⟩
      · simpa [before_iff] using early
      · simpa [before_iff] using late
      · rw [if_neg late]

/-- Enough trim steps settle the span. -/
theorem trimAll_trimmed {k : Nat} (enough : s.segments[n].symbolCount ≤ k)
    (so_far : TrimmedSoFar ends start stop first capacity total low s.segments[n])
    (cap : capacity = spanCapacity s.plan[n])
    (reads : ∀ i, ends i = symbolEnd (readSymbol s n ((first + i) % capacity))) :
    ∃ low', TrimmedSoFar ends start stop first capacity total low' (trimAll n start stop k s).segments[n] ∧
      trimSettled ends start stop low' (trimAll n start stop k s).segments[n] := by
  induction k generalizing s low with
  | zero => exact ⟨low, so_far, fun some_left => absurd (show 1 ≤ s.segments[n].symbolCount from some_left) (by omega)⟩
  | succ k ih =>
    have same : trimStep n start stop s = { s with segments := (trimStep n start stop s).segments } :=
      trimAll_eq n start stop 1 s
    by_cases some_left : 1 ≤ s.segments[n].symbolCount
    · rcases trimStep_trimmed some_left so_far cap reads with ⟨settled, stays⟩ | ⟨low', next, fewer⟩
      · have kept : ∀ j, trimAll n start stop j s = s := by
          intro j
          induction j with
          | zero => rfl
          | succ j ihj => rw [trimAll, stays, ihj]
        rw [kept]
        exact ⟨low, so_far, settled⟩
      · rw [trimAll]
        refine ih (by omega) next ?_ ?_
        · rw [same]; exact cap
        · rw [same]; exact reads
    · have none_left : spanEnds s n = none := by
        unfold spanEnds
        dsimp only
        split
        · rfl
        · exact if_pos (by omega)
      have stays : trimStep n start stop s = s := by
        simp [trimStep, trimEnd, none_left]
      rw [trimAll, stays]
      exact ih (by omega) so_far cap reads

end

/-- The trim of a span by as many steps as it has symbols (R124). -/
theorem trimAll_spec {s : State} {n : Fin 32} (start stop : Time) :
    Trimmed s n start stop (trimAll n start stop s.segments[n].symbolCount s).segments[n] := by
  intro first capacity ends oldest cap inside reads some_left
  have so_far : TrimmedSoFar ends start stop first capacity s.segments[n].symbolCount 0 s.segments[n] := {
    within := by omega
    oldest := by rw [oldest, if_neg (by omega), Nat.add_zero, Nat.mod_eq_of_lt inside]
    below := fun i hi => absurd hi (Nat.not_lt_zero i)
    above := fun i hi bound => absurd hi (by omega) }
  obtain ⟨low, trimmed, settled⟩ := trimAll_trimmed (Nat.le_refl _) so_far cap reads
  exact ⟨low, trimmed.within, trimmed.oldest, trimmed.below, trimmed.above, settled⟩

/-! ### What a link reset ends (R42, R130, R138, R174) -/

variable {s : State}

theorem fifoTotal_eq (s : State) : fifoTotal s = s.lanes[0].fifo.length + s.lanes[1].fifo.length +
    s.lanes[2].fifo.length + s.lanes[3].fifo.length := by
  simp [fifoTotal, List.finRange, Nat.add_assoc]

/-- The status record of a segment that a link reset closes, before its trim (R42, R117). -/
def resetRecord (s : State) (g : SegmentStatus) : SegmentStatus :=
  discardedSymbols (fifoTotal s) (resetSegment s.time g)

theorem resetRecord_eq (s : State) (g : SegmentStatus) : resetRecord s g = { g with
    state := .closed, startTime := some (g.startTime.getD s.time)
    endTime := some (g.endTime.getD (g.startTime.getD s.time)), endReason := some .reset
    triggerTime := if g.triggerPosition.isSome then g.triggerTime else none
    triggerCause := if g.triggerPosition.isSome then g.triggerCause else none
    symbolLost := if fifoTotal s = 0 then g.symbolLost else min (g.symbolLost + fifoTotal s) 4294967295
    symbolStatus := if fifoTotal s = 0 then g.symbolStatus else some .truncated } := by
  by_cases none_lost : fifoTotal s = 0 <;>
    simp [resetRecord, resetSegment, discardedSymbols, none_lost, countLost, saturate32, Config.max32]

/-- A trim reads the DRAM, the plan and the span: any other change of the status records commutes with it. -/
theorem trimmed_of_modify {n : Fin 32} {start stop : Time} {f : SegmentStatus → SegmentStatus}
    {g : SegmentStatus} (span : ∀ x, (f x).symbolFirst = x.symbolFirst ∧ (f x).symbolCount = x.symbolCount)
    (h : Trimmed (modifySegment n f s) n start stop g) : Trimmed s n start stop g := by
  obtain ⟨same_first, same_count⟩ := span s.segments[n]
  have record : (modifySegment n f s).segments[n] = f s.segments[n] := by
    rw [modifySegment_segment, if_pos rfl]
  intro first capacity ends oldest cap inside reads some_left
  have trimmed := h first capacity ends (by rw [record, same_first]; exact oldest) cap inside reads
    (by rw [record, same_count]; exact some_left)
  rwa [record, same_count] at trimmed

/-- The segment that a link reset closes: its record reset and its span trimmed. -/
theorem resetCapture_current {n : Fin 32} (current : s.ce.segment = some n) :
    Trimmed s n (s.segments[n].startTime.getD s.time)
        (s.segments[n].endTime.getD (s.segments[n].startTime.getD s.time)) (resetCapture s).segments[n] ∧
      ∃ first count, (resetCapture s).segments[n] = withSpan first count (resetRecord s s.segments[n]) := by
  have record : (modifySegment n (resetRecord s) s).segments[n] = resetRecord s s.segments[n] := by
    rw [modifySegment_segment, if_pos rfl]
  have result : (resetCapture s).segments = (trimAll n (s.segments[n].startTime.getD s.time)
      (s.segments[n].endTime.getD (s.segments[n].startTime.getD s.time))
      (modifySegment n (resetRecord s) s).segments[n].symbolCount (modifySegment n (resetRecord s) s)).segments := by
    have times : (modifySegment n (resetRecord s) s).segments[n].startTime =
          some (s.segments[n].startTime.getD s.time) ∧
        (modifySegment n (resetRecord s) s).segments[n].endTime =
          some (s.segments[n].endTime.getD (s.segments[n].startTime.getD s.time)) := by
      rw [record, resetRecord_eq]
      exact ⟨rfl, rfl⟩
    unfold resetCapture
    rw [current]
    show (trimAll n ((modifySegment n (resetRecord s) s).segments[n].startTime.getD 0)
      ((modifySegment n (resetRecord s) s).segments[n].endTime.getD 0) _ _).segments = _
    rw [times.1, times.2]
    rfl
  rw [result]
  refine ⟨?_, ?_⟩
  · refine trimmed_of_modify (f := resetRecord s) (fun g => ?_) (trimAll_spec _ _)
    rw [resetRecord_eq]
    exact ⟨rfl, rfl⟩
  · obtain ⟨first, count, segment⟩ := trimAll_segment n n _ _ _ (modifySegment n (resetRecord s) s)
    exact ⟨first, count, by rw [segment, if_pos rfl, record]⟩

/-- A link reset's end of a capture leaves the other segments, and everything but engine and merger. -/
theorem resetCapture_other {m : Fin 32} (other : s.ce.segment ≠ some m) :
    (resetCapture s).segments[m] = s.segments[m] := by
  unfold resetCapture
  split
  · rfl
  · next n current =>
    have apart : n ≠ m := fun e => other (e ▸ current)
    dsimp only [idleEngine_segments]
    obtain ⟨_, _, segment⟩ := trimAll_segment n m _ _ _ (modifySegment n (resetRecord s) s)
    refine segment.trans ?_
    rw [if_neg apart, modifySegment_segment, if_neg apart]

theorem resetCapture_ce : (resetCapture s).ce =
    if s.ce.segment = none then s.ce else { idleCe with table := s.ce.table } := by
  unfold resetCapture
  split
  · next none_now => rw [if_pos none_now]
  · next n current =>
    have trimmed := (trimAll_frame n
      (((modifySegment n (resetRecord s) s).segments[n].startTime).getD 0)
      (((modifySegment n (resetRecord s) s).segments[n].endTime).getD 0)
      (modifySegment n (resetRecord s) s).segments[n].symbolCount (modifySegment n (resetRecord s) s)) .ce
      (by decide)
    rw [if_neg (by simp [current])]
    dsimp only [idleEngine_ce]
    exact congrArg (fun c : Ce => { idleCe with table := c.table }) trimmed

/-- The segment whose redecode a link reset aborts: Incomplete, and its span trimmed. -/
theorem abortRedecode_redecoded {r : Redecode} (running : s.redecode = some r) :
    Trimmed s r.segment (s.segments[r.segment].startTime.getD 0) (s.segments[r.segment].endTime.getD 0)
        (abortRedecode s).segments[r.segment] ∧
      ∃ first count, (abortRedecode s).segments[r.segment] =
        withSpan first count { s.segments[r.segment] with symbolStatus := some .incomplete } := by
  have result : (abortRedecode s).segments[r.segment] = abortedSpan (trimAll r.segment
      (s.segments[r.segment].startTime.getD 0) (s.segments[r.segment].endTime.getD 0)
      s.segments[r.segment].symbolCount s).segments[r.segment] := by
    unfold abortRedecode
    rw [running]
    exact (modifySegment_segment _ _ _ _).trans (if_pos rfl)
  rw [result]
  refine ⟨trimAll_spec (s := s) (n := r.segment) _ _, ?_⟩
  obtain ⟨first, count, segment⟩ := trimAll_segment r.segment r.segment
    (s.segments[r.segment].startTime.getD 0) (s.segments[r.segment].endTime.getD 0)
    s.segments[r.segment].symbolCount s
  exact ⟨first, count, by rw [segment, if_pos rfl]; rfl⟩

theorem abortRedecode_other {m : Fin 32} (other : ∀ r, s.redecode = some r → r.segment ≠ m) :
    (abortRedecode s).segments[m] = s.segments[m] := by
  unfold abortRedecode
  split
  · rfl
  · next r running =>
    have apart := other r running
    refine (modifySegment_segment _ _ _ _).trans ((if_neg apart).trans ?_)
    obtain ⟨_, _, segment⟩ := trimAll_segment r.segment m (s.segments[r.segment].startTime.getD 0)
      (s.segments[r.segment].endTime.getD 0) s.segments[r.segment].symbolCount s
    exact segment.trans (if_neg apart)

theorem abortRedecode_redecode (s : State) : (abortRedecode s).redecode = none := by
  unfold abortRedecode
  split
  · assumption
  · rfl

/-- The hold of an aborted render goes, and every status record is otherwise as it was. -/
theorem abortRender_segment (s : State) (n : Fin 32) : (abortRender s).segments[n] =
    { s.segments[n] with
      holdCount := s.segments[n].holdCount - flag (s.re.draw.any fun d => d.snapshot.view.segment == n) } := by
  unfold abortRender
  split
  · next none_now => simp [none_now, flag]
  · next d draw =>
    rw [draw]
    refine (modifySegment_segment _ _ _ _).trans ?_
    by_cases same : d.snapshot.view.segment = n <;> simp [same, flag]

theorem dropReadout_segment (s : State) (n : Fin 32) : (dropReadout s).segments[n] =
    { s.segments[n] with
      holdCount := s.segments[n].holdCount - flag (s.lp.readout.any fun r => r.segment == n) } := by
  unfold dropReadout
  split
  · next r readout =>
    rw [readout]
    refine (modifySegment_segment _ _ _ _).trans ?_
    by_cases same : r.segment = n <;> simp [same, flag]
  · next none_now => simp [none_now, flag]

theorem dropReadout_readout (s : State) : (dropReadout s).lp.readout = none := by
  unfold dropReadout
  split
  · rfl
  · assumption

theorem abortRender_re (s : State) : (s.re.draw = none → (abortRender s).re = s.re) ∧
    ∀ d, s.re.draw = some d → (abortRender s).re = { s.re with
      job := .idle, pending := false, draw := none, outcome := some .aborted, bounds := none
      readings := none } := by
  unfold abortRender
  split
  · next none_now => exact ⟨fun _ => rfl, fun d draw => by simp [none_now] at draw⟩
  · next d draw => exact ⟨fun none_now => by simp [none_now] at draw, fun _ _ => rfl⟩

/-- The segments after what a link reset ends: of capture and redecode, and without the holds that go. -/
theorem endOperations_segment (s : State) (n : Fin 32) : (endOperations s).segments[n] =
    { (abortRedecode (resetCapture s)).segments[n] with
      holdCount := s.segments[n].holdCount - holdsOn s n } := by
  have ended := resetCapture_frame s
  have aborted := abortRedecode_frame (resetCapture s)
  have rendered := abortRender_frame (abortRedecode (resetCapture s))
  have holds : (abortRedecode (resetCapture s)).segments[n].holdCount = s.segments[n].holdCount :=
    (aborted .holds (by decide) n).trans (ended .holds (by decide) n)
  have re : (abortRedecode (resetCapture s)).re = s.re :=
    (aborted .re (by decide)).trans (ended .re (by decide))
  have readout : (abortRender (abortRedecode (resetCapture s))).lp.readout = s.lp.readout :=
    (rendered .readout (by decide)).trans ((aborted .readout (by decide)).trans (ended .readout (by decide)))
  unfold endOperations
  rw [dropReadout_segment, abortRender_segment, readout, re, holds, holdsOn_eq, Nat.sub_sub]

/-! ### The link reset (R174) -/

theorem pru_eq {p q : Pru} (table : p.table = q.table) (power : p.power = q.power) (cause : p.cause = q.cause)
    (idle : p.idleStart = q.idleStart)
    (logic : p.mask = q.mask ∧ p.recorded = q.recorded ∧ p.changed = q.changed) (wake : p.wake = q.wake) :
    p = q := by
  obtain ⟨mask, recorded, changed⟩ := logic
  cases p
  cases q
  simp only [Pru.mk.injEq]
  exact ⟨table, power, cause, idle, mask, recorded, changed, wake⟩

theorem linkReset_eq (s : State) : linkReset s = { endOperations s with
    ts := offTs s.ts, lanes := Vector.replicate 4 idleLane, sm := { stamps := [] }
    lp := resetLp (endOperations s).lp
    pru := { s.pru with
      cause := .link, idleStart := if s.pru.power = .run then s.time else s.pru.idleStart } } := by
  have kept := endOperations_frame s
  have ts : (endOperations s).ts = s.ts := kept .ts (by decide)
  have time : (endOperations s).time = s.time := kept .time (by decide)
  have pru : (endOperations s).pru = s.pru := pru_eq (kept .powerTable (by decide)) (kept .power (by decide))
    (kept .cause (by decide)) (kept .idleStart (by decide)) (kept .wakeLogic (by decide)) (kept .wake (by decide))
  unfold linkReset
  dsimp only
  rw [restartIdle_eq]
  simp only [ts, time, pru]

/-- A trim reads the DRAM, the plan and the segment's record. -/
theorem trimmed_congr {s t : State} {n : Fin 32} {start stop : Time} {g : SegmentStatus}
    (dram : t.dram = s.dram) (plan : t.plan = s.plan) (segment : t.segments[n] = s.segments[n])
    (h : Trimmed t n start stop g) : Trimmed s n start stop g := by
  unfold Trimmed readSymbol at *
  rwa [dram, plan, segment] at h

/-- A trim is about the retained span of the record it leaves. -/
theorem trimmed_of_span {n : Fin 32} {start stop : Time} {g g' : SegmentStatus}
    (first : g'.symbolFirst = g.symbolFirst) (count : g'.symbolCount = g.symbolCount)
    (h : Trimmed s n start stop g) : Trimmed s n start stop g' := by
  unfold Trimmed at *
  rwa [first, count]

theorem linkReset_segment (s : State) (n : Fin 32) : (linkReset s).segments[n] =
    { (abortRedecode (resetCapture s)).segments[n] with
      holdCount := s.segments[n].holdCount - holdsOn s n } := by
  rw [linkReset_eq]
  exact endOperations_segment s n

/-- The segment that was Filling and that no redecode runs over. -/
theorem linkReset_filling {n : Fin 32} (current : s.ce.segment = some n)
    (apart : ∀ r, s.redecode = some r → r.segment ≠ n) :
    Trimmed s n (s.segments[n].startTime.getD s.time)
        (s.segments[n].endTime.getD (s.segments[n].startTime.getD s.time)) (linkReset s).segments[n] ∧
      ∃ first count holds, (linkReset s).segments[n] =
        { withSpan first count (resetRecord s s.segments[n]) with holdCount := holds } := by
  have same_redecode : (resetCapture s).redecode = s.redecode := resetCapture_frame s .redecode (by decide)
  have kept : (abortRedecode (resetCapture s)).segments[n] = (resetCapture s).segments[n] :=
    abortRedecode_other (fun r running => apart r (same_redecode ▸ running))
  obtain ⟨trimmed, first, count, record⟩ := resetCapture_current current
  rw [linkReset_segment, kept]
  exact ⟨trimmed_of_span rfl rfl trimmed, first, count, _, by rw [record]⟩

/-- The segment that was redecoded. -/
theorem linkReset_redecoded {r : Redecode} (running : s.redecode = some r) :
    (linkReset s).segments[r.segment].symbolStatus = some .incomplete ∧
      (s.ce.segment ≠ some r.segment →
        Trimmed s r.segment (s.segments[r.segment].startTime.getD 0)
          (s.segments[r.segment].endTime.getD 0) (linkReset s).segments[r.segment] ∧
        ∃ first count holds, (linkReset s).segments[r.segment] =
          { withSpan first count { s.segments[r.segment] with symbolStatus := some .incomplete } with
            holdCount := holds }) := by
  have still : (resetCapture s).redecode = some r :=
    (resetCapture_frame s .redecode (by decide)).trans running
  obtain ⟨trimmed, first, count, record⟩ := abortRedecode_redecoded still
  rw [linkReset_segment]
  refine ⟨by rw [record]; rfl, fun other => ?_⟩
  have kept := resetCapture_other (s := s) other
  rw [kept] at trimmed record
  have here := trimmed_congr (resetCapture_frame s .dram (by decide)) (resetCapture_frame s .plan (by decide))
    kept trimmed
  exact ⟨trimmed_of_span rfl rfl here, first, count, _, by rw [record]⟩

theorem linkReset_other {n : Fin 32} (other : s.ce.segment ≠ some n)
    (apart : ∀ r, s.redecode = some r → r.segment ≠ n) :
    ∃ holds, (linkReset s).segments[n] = { s.segments[n] with holdCount := holds } := by
  have same_redecode : (resetCapture s).redecode = s.redecode := resetCapture_frame s .redecode (by decide)
  have kept : (abortRedecode (resetCapture s)).segments[n] = s.segments[n] :=
    (abortRedecode_other (fun r running => apart r (same_redecode ▸ running))).trans (resetCapture_other other)
  rw [linkReset_segment, kept]
  exact ⟨_, rfl⟩

theorem linkReset_ce (s : State) : (linkReset s).ce =
    if s.ce.segment = none then s.ce else { idleCe with table := s.ce.table } := by
  have kept : (endOperations s).ce = (resetCapture s).ce :=
    (dropReadout_frame _ .ce (by decide)).trans ((abortRender_frame _ .ce (by decide)).trans
      (abortRedecode_frame _ .ce (by decide)))
  rw [linkReset_eq]
  exact kept.trans resetCapture_ce

theorem linkReset_redecode (s : State) : (linkReset s).redecode = none := by
  have kept : (endOperations s).redecode = (abortRedecode (resetCapture s)).redecode :=
    (dropReadout_frame _ .redecode (by decide)).trans (abortRender_frame _ .redecode (by decide))
  rw [linkReset_eq]
  exact kept.trans (abortRedecode_redecode _)

theorem linkReset_re (s : State) : (s.re.draw = none → (linkReset s).re = s.re) ∧
    ∀ d, s.re.draw = some d → (linkReset s).re = { s.re with
      job := .idle, pending := false, draw := none, outcome := some .aborted, bounds := none
      readings := none } := by
  have before_render : (abortRedecode (resetCapture s)).re = s.re :=
    (abortRedecode_frame _ .re (by decide)).trans (resetCapture_frame s .re (by decide))
  have after_render : (linkReset s).re = (abortRender (abortRedecode (resetCapture s))).re := by
    rw [linkReset_eq]
    exact dropReadout_frame _ .re (by decide)
  have ended := abortRender_re (abortRedecode (resetCapture s))
  rw [before_render] at ended
  rwa [after_render]

theorem exec_linkReset (due : s.lp.resetDue = true) : exec .linkReset s = .next (linkReset s) := by
  show Host.Outcome.next (if s.lp.resetDue then linkReset s else s) = _
  rw [if_pos due]

/-- Settles O12: what a link reset ends, the records it leaves, and its frame. -/
theorem linkResetEndsEveryOperation : Obligations.LinkResetEndsEveryOperation := by
  intro s due
  refine ⟨linkReset s, exec_linkReset due, ?cause, linkReset_redecode s, ?readout, ?queue, ?slot, ?inProgress,
    ?sending, ?resetDue, ?notices, ?ts, ?lanes, ?stamps, ?idleStart, ?ceKept, ?filling, ?redecoded, ?others,
    ?holds, ?noHolds, (linkReset_re s).1, (linkReset_re s).2, (linkReset_frame s).mono (by decide)⟩
  case readout =>
    rw [linkReset_eq]
    exact dropReadout_readout _
  case notices =>
    intro k
    rw [linkReset_eq]
    exact Vector.getElem_replicate _
  case lanes =>
    intro l
    rw [linkReset_eq]
    exact Vector.getElem_replicate _
  case ceKept => exact fun idle => (linkReset_ce s).trans (if_pos idle)
  case filling =>
    rintro n g start stop lost current rfl rfl rfl rfl
    refine ⟨(linkReset_ce s).trans (if_neg (by simp [current])), fun apart => ?_⟩
    obtain ⟨trimmed, first, count, holds, record⟩ := linkReset_filling current apart
    refine ⟨trimmed, ?_⟩
    rw [record, resetRecord_eq, fifoTotal_eq]
    rfl
  case redecoded =>
    intro r running
    obtain ⟨incomplete, span⟩ := linkReset_redecoded running
    refine ⟨incomplete, fun other => ?_⟩
    obtain ⟨trimmed, first, count, holds, record⟩ := span other
    refine ⟨trimmed, ?_⟩
    rw [record]
    rfl
  case others =>
    intro n other apart
    obtain ⟨holds, record⟩ := linkReset_other other apart
    rw [record]
  case holds => exact fun n => congrArg SegmentStatus.holdCount (linkReset_segment s n)
  case noHolds =>
    intro law n
    rw [linkReset_segment]
    exact Nat.sub_eq_zero_of_le (Nat.le_of_eq (law.holds n))
  all_goals
    rw [linkReset_eq] <;> rfl

end Sys2Proof.Machine
end

section
/-! SUPPORT. The Link Port (R162 to R164, R171 to R173): arrivals, cells that leave, the form of a command, and
the readout. -/

namespace Sys2Proof.Machine

/-! ### Notices -/

/-- A raise from a state with the slots and table 16 of another raises the notice over that other one. -/
theorem raised_of_same {n : NoticeSnapshot} {s t u : State} (after : t.lp.notices = (raiseNotice n u).lp.notices)
    (slots : u.lp.notices = s.lp.notices) (table : u.pru.table = s.pru.table) : raised n s t :=
  after.trans (raiseNotice_notices s n u slots table)

/-- A raise of an enabled notice takes its slot; a masked one is ignored (R175, R176). -/
theorem raiseNotice_slots (n : NoticeSnapshot) (s : State) : (raiseNotice n s).lp.notices =
    if s.pru.table.enables.getLsbD (noticeIndex (noticeKind n)) then
      s.lp.notices.set (noticeIndex (noticeKind n)) {
        pending := true
        count := if s.lp.notices[noticeIndex (noticeKind n)].pending then
          min (s.lp.notices[noticeIndex (noticeKind n)].count + 1) 255 else 1
        snapshot := some n }
    else s.lp.notices := by
  unfold raiseNotice noticeEnabled raiseSlot
  dsimp only
  split_ifs <;> rfl

/-! ### Arrival (R162, R163) -/

section

variable {c : LinkCell} {s : State}

theorem exec_arrival (whole : c.payload.length = min c.length.toNat 60) :
    exec (.commandCellArrival c) s = .next (if c.kind = 0 then arrive c s else s) := by
  have formed : c.wellFormed = true := by simp [LinkCell.wellFormed, LinkCell.payloadLength, Config.maxPayload, whole]
  show execCommandCellArrival c s = _
  unfold execCommandCellArrival
  rw [if_neg (by simp [formed])]
  split <;> rfl

theorem arrive_room (room : s.lp.queue.length < 8) :
    (arrive c s).lp = { s.lp with queue := s.lp.queue ++ [c] } := by
  unfold arrive
  rw [if_pos (show s.lp.queue.length < Config.commandDepth from room), restartIdle_eq]

theorem arrive_full (full : 8 ≤ s.lp.queue.length) : arrive c s =
    raiseNotice (.commandDropped c.tag (min (s.lp.dropped + 1) 4294967295))
      { restartIdle s with lp.dropped := min (s.lp.dropped + 1) 4294967295 } := by
  unfold arrive
  exact if_neg (show ¬s.lp.queue.length < Config.commandDepth from Nat.not_lt.2 full)

theorem arrive_idleStart : (arrive c s).pru.idleStart =
    if s.pru.power = .run then s.time else s.pru.idleStart := by
  by_cases room : s.lp.queue.length < 8
  · unfold arrive
    rw [if_pos (show s.lp.queue.length < Config.commandDepth from room), restartIdle_eq]
  · rw [arrive_full (Nat.not_lt.1 room), raiseNotice_eq, restartIdle_eq]

end

/-- Settles O44: the queue takes a command, or a full one drops and counts it. -/
theorem arrivalJoinsTheQueueOrIsDropped : Obligations.ArrivalJoinsTheQueueOrIsDropped := by
  intro c s whole
  refine ⟨_, exec_arrival whole, fun other => if_neg other, ?_, ?_⟩
  · intro command
    rw [if_pos command]
    refine ⟨arrive_idleStart, arrive_room, ?_⟩
    rintro full n rfl
    rw [arrive_full full]
    refine ⟨?_, ?_, ?_⟩
    · rw [raiseNotice_eq]
    · rw [raiseNotice_eq, restartIdle_eq]
    · rw [raiseNotice_slots, restartIdle_eq]
      rfl
  · exact .ite (arrive_frame c s) (.refl _ _)

/-! ### Cells that have left (R164, R166, R173) -/

theorem sends_iff {s : State} {c : UpCell} (sending : s.lp.sending = some c) (k : UpKind) :
    sends s k = true ↔ c.kind = k := by
  simp [sends, sending]

/-- A readout that ends gives up its hold. -/
theorem endReadout_segments (r : Readout) (s : State) : (endReadout r s).segments =
    s.segments.set r.segment { s.segments[r.segment] with
      holdCount := s.segments[r.segment].holdCount - 1 } := by
  unfold endReadout
  rw [raiseNotice_eq]
  rfl

theorem endReadout_lp (r : Readout) (s : State) : (endReadout r s).lp = { s.lp with
    readout := none
    notices := (raiseNotice (.readoutDone r.segment r.kind r.sent (r.sent == r.length)) s).lp.notices } := by
  unfold endReadout
  rw [raiseNotice_eq, raiseNotice_notices s _ _ (by rfl) (by rfl)]
  rfl

theorem endReadout_frame_exact (r : Readout) (s : State) :
    ChangesOnly [.readout, .segments, .holds, .notices] s (endReadout r s) :=
  (((update_readout s none).mono (by decide)).trans ((releaseHold_frame r.segment _).mono (by decide))).trans
    ((raiseNotice_frame _ _).mono (by decide))

/-- A stream cell that has left counts its items; its readout goes on, or ends. -/
theorem exec_streamCellSent {s : State} {c : UpCell} {r : Readout} (sending : s.lp.sending = some c)
    (stream : c.kind = .stream) (readout : s.lp.readout = some r) :
    exec .streamCellSent s = .next (streamCellLeft c.items r (cellSent s)) := by
  show execStreamCellSent s = _
  unfold execStreamCellSent
  rw [sending]
  dsimp only
  rw [if_pos stream, readout]

/-- Settles O46: each kind of cell that has left frees the link, with what else follows it. -/
theorem cellsThatHaveLeftFreeTheLink : Obligations.CellsThatHaveLeftFreeTheLink := by
  intro s c sending
  refine ⟨?reply, ?notice, ?fill, ?stream⟩
  case reply =>
    intro reply
    refine ⟨_, if_pos ((sends_iff sending _).2 reply), rfl, rfl, ?_, ?_⟩
    · show slotHoldsReset s = true ↔ _
      cases slot : s.lp.slot <;> simp [slotHoldsReset, slot]
    · intro p untouched
      cases p <;> first
        | rfl | exact ⟨rfl, rfl⟩ | exact ⟨rfl, rfl, rfl⟩ | exact fun _ => rfl | simp at untouched
  case notice =>
    exact fun notice => ⟨_, congrArg Host.Outcome.next (if_pos ((sends_iff sending _).2 notice)), rfl,
      cellSent_frame s⟩
  case fill =>
    exact fun fill => ⟨_, congrArg Host.Outcome.next (if_pos ((sends_iff sending _).2 fill)), rfl,
      cellSent_frame s⟩
  case stream =>
    intro stream
    cases readout : s.lp.readout with
    | none =>
      refine ⟨cellSent s, ?_, rfl, fun _ => cellSent_frame s, fun _ present => (nomatch present)⟩
      show execStreamCellSent s = _
      unfold execStreamCellSent
      rw [sending]
      dsimp only
      rw [if_pos stream, readout]
    | some r =>
      refine ⟨_, exec_streamCellSent sending stream readout, ?_, fun absent => (nomatch absent), ?_⟩
      · unfold streamCellLeft
        dsimp only
        split
        · rw [endReadout_lp]
          rfl
        · rfl
      · rintro _ ⟨⟩
        unfold streamCellLeft
        refine ⟨fun goes_on part => ?_, fun ends => ?_⟩
        · rw [if_neg (by simp [goes_on, part])]
          exact ⟨rfl, ((cellSent_frame s).mono (by decide)).trans ((update_readout _ _).mono (by decide))⟩
        · rw [if_pos ends]
          refine ⟨by rw [endReadout_lp], endReadout_segments _ _, ?_, ?_⟩
          · exact raised_of_same (by rw [endReadout_lp]; rfl) (by rfl) (by rfl)
          · exact ((cellSent_frame s).mono (by decide)).trans ((endReadout_frame_exact _ _).mono (by decide))

/-! ### The form of a command (R170, R181) -/

section

variable {c : LinkCell} {rest : List LinkCell} {s : State}

/-- A code that names a command has a row that dispatches it: by its code, the Length it takes, if it is fixed,
and whether Sleep refuses it. -/
theorem exec_commandRow (low : 1 ≤ c.code.toNat) (high : c.code.toNat ≤ 13) (s : State) :
    ∃ length inSleep owner, exec (commandRow c) s = dispatch (commandRow c) length inSleep s owner ∧
      (∀ k, (c.code.toNat, k) ∈ [(2, 3), (3, 1), (4, 0), (5, 0), (6, 1), (7, 0), (8, 0), (9, 10), (10, 0),
        (11, 2), (12, 1), (13, 0)] → length = some k) ∧
      (c.code.toNat = 1 → length = none) ∧ (c.code.toNat ≤ 10 → inSleep = false) := by
  unfold commandRow
  split
  case h_1 code =>
    unfold writeRow
    rw [code]
    split
    · exact ⟨_, _, _, rfl, by simp, fun _ => rfl, fun _ => rfl⟩
    · split <;> exact ⟨_, _, _, rfl, by simp, fun _ => rfl, fun _ => rfl⟩
  case h_11 code =>
    unfold statusRow
    rw [code]
    split
    · exact ⟨_, _, _, rfl, by simp, by simp, by simp⟩
    · split <;> exact ⟨_, _, _, rfl, by simp, by simp, by simp⟩
  case h_12 code =>
    unfold powerRow
    rw [code]
    split <;> exact ⟨_, _, _, rfl, by simp, by simp, by simp⟩
  case h_14 code others =>
    interval_cases named : c.code.toNat <;> simp_all
  all_goals
    next code =>
      rw [code]
      exact ⟨_, _, _, rfl, by simp, by simp, by simp⟩

theorem takeCommand_head (head : s.lp.queue = c :: rest) (may : mayDispatch s = true)
    (untied : waitsForTick c s = false) : takeCommand (commandRow c) s = some (c, popped rest s) := by
  unfold takeCommand
  rw [head]
  exact if_pos ⟨may, untied, rfl⟩

/-- A command whose form is refused, whole or not. -/
theorem refuses_of_form (head : s.lp.queue = c :: rest) (may : mayDispatch s = true)
    (untied : waitsForTick c s = false) {length : Option Nat} {inSleep : Bool}
    {owner : LinkCell → State → State} {code : RefusalCode}
    (row : exec (commandRow c) s = dispatch (commandRow c) length inSleep s owner)
    (form : formRefusal c length inSleep (popped rest s) = some code) :
    refuses (commandRow c) c rest code 0 s := by
  refine refuses_of_exec (row.trans ?_)
  unfold dispatch
  rw [takeCommand_head head may untied]
  dsimp only
  rw [form]

theorem commandRow_none (unnamed : c.code.toNat = 0 ∨ 13 < c.code.toNat) : commandRow c = .badCommand := by
  unfold commandRow
  split <;> first | rfl | omega

theorem refuses_badCommand (head : s.lp.queue = c :: rest) (may : mayDispatch s = true)
    (untied : waitsForTick c s = false) (unnamed : c.code.toNat = 0 ∨ 13 < c.code.toNat) :
    refuses .badCommand c rest .badCommand 0 s := by
  refine refuses_of_exec ?_
  show execBadCommand s = _
  unfold execBadCommand
  rw [← commandRow_none unnamed, takeCommand_head head may untied]

end

/-- Settles O47: the form checks, by the code of the command. -/
theorem formIsCheckedBeforeTheCommand : Obligations.FormIsCheckedBeforeTheCommand := by
  refine ⟨fun c rest s ready => ⟨?unnamed, ?named, ?asleep⟩,
    fun c rest s head slot free awake noReset untied long => ?_⟩
  case unnamed =>
    exact refuses_badCommand ready.head (mayDispatch_of_ready ready) ready.untied
  case named =>
    intro k row
    have bounds : 1 ≤ c.code.toNat ∧ c.code.toNat ≤ 13 := by
      simp only [List.mem_cons, Prod.mk.injEq, List.not_mem_nil, or_false] at row
      omega
    obtain ⟨length, inSleep, owner, dispatched, takes, _, sleeps⟩ := exec_commandRow bounds.1 bounds.2 s
    obtain rfl := takes k row
    refine ⟨fun other => ?_, fun fits command asleep => ?_⟩
    · exact refuses_of_form ready.head (mayDispatch_of_ready ready) ready.untied dispatched
        (formRefusal_length (by simpa using Ne.symm other))
    · obtain rfl := sleeps command
      exact refuses_of_form ready.head (mayDispatch_of_ready ready) ready.untied dispatched
        (formRefusal_asleep ready (by simp [fits]) (by simpa using asleep))
  case asleep =>
    intro write asleep
    obtain ⟨length, inSleep, owner, dispatched, _, takes, sleeps⟩ :=
      exec_commandRow (c := c) (by omega) (by omega) s
    obtain rfl := takes write
    obtain rfl := sleeps (by omega)
    exact refuses_of_form ready.head (mayDispatch_of_ready ready) ready.untied dispatched
      (formRefusal_asleep ready rfl (by simpa using asleep))
  have may : mayDispatch s = true := by simp [mayDispatch, slot, free, awake, noReset]
  refine ⟨fun low high => ?_, refuses_badCommand head may untied⟩
  obtain ⟨length, inSleep, owner, dispatched, _⟩ := exec_commandRow low high s
  exact refuses_of_form head may untied dispatched (if_pos long)

/-! ### The readout (R171 to R173) -/

section

variable {c : LinkCell} {rest : List LinkCell} {s : State}

theorem cancelReadout_ends (r : Readout) (quiet : ∀ u, s.lp.sending = some u → u.kind ≠ .stream) :
    cancelReadout r s = endReadout { r with ready := none, cancelled := true } s := by
  refine if_neg fun stream => ?_
  unfold sends at stream
  split at stream
  · next u sending => exact quiet u sending (by simpa using stream)
  · exact Bool.false_ne_true stream

theorem cancelReadout_waits (r : Readout) (busy : ∃ u, s.lp.sending = some u ∧ u.kind = .stream) :
    cancelReadout r s = { s with lp.readout := some { r with ready := none, cancelled := true } } := by
  obtain ⟨u, sending, stream⟩ := busy
  exact if_pos ((sends_iff sending _).2 stream)

/-- What the owner of a CANCEL leaves. -/
theorem exec_cancel (ready : Ready c rest s) (code : c.code = 10) (payload : c.payload = [])
    (awake : s.pru.power ≠ .sleep) : exec .cancel s = .next (putReply c.tag (.done [])
      (match s.lp.readout with
        | some r => cancelReadout r (popped rest s)
        | none => popped rest s)) := by
  refine (dispatch_owner ready (commandRow_cancel code) (by simp [payload]) (absurd · awake)).trans ?_
  rw [popped_lp] <;> rfl

end

/-- Settles O50: what CANCEL does to a readout. -/
theorem cancelEndsTheReadout : Obligations.CancelEndsTheReadout := by
  intro c rest s ready code payload awake
  have kept : (popped rest s).lp.sending = s.lp.sending := by rw [popped_lp]
  have start := popped_frame rest s
  refine ⟨_, exec_cancel ready code payload awake, ?_, ?_⟩
  · refine ⟨?_, rfl⟩
    rw [putReply_lp]
    split
    · next r _ =>
      unfold cancelReadout
      dsimp only
      split
      · exact popped_lp rest s ▸ rfl
      · rw [endReadout_lp, popped_lp]
    · rw [popped_lp]
  · cases readout : s.lp.readout with
    | none =>
      exact ⟨fun _ => (start.mono (by decide)).trans ((putReply_frame _ _ _).mono (by decide)),
        fun _ present => (nomatch present)⟩
    | some r =>
      refine ⟨fun absent => (nomatch absent), ?_⟩
      rintro _ ⟨⟩
      refine ⟨fun busy => ?_, fun quiet => ?_⟩
      · dsimp only
        rw [cancelReadout_waits r (kept ▸ busy)]
        exact ⟨rfl, (start.mono (by decide)).trans
          (((update_readout _ _).mono (by decide)).trans ((putReply_frame _ _ _).mono (by decide)))⟩
      · dsimp only
        rw [cancelReadout_ends r (kept ▸ quiet)]
        refine ⟨?_, ?_, ?_, ?_⟩
        · rw [putReply_lp, endReadout_lp]
        · rw [putReply_segments, endReadout_segments, popped_segments]
        · exact raised_of_same (by rw [putReply_lp, endReadout_lp]; rfl) (by rw [popped_lp]) (by rw [popped_pru])
        · exact (start.mono (by decide)).trans
            (((endReadout_frame_exact _ _).mono (by decide)).trans ((putReply_frame _ _ _).mono (by decide)))

/-- The state in which the owner of a command that works in Run acts: the head has left the queue, and from
Standby the part has returned to Run (R181). -/
def entered (rest : List LinkCell) (s : State) : State := leaveStandby (popped rest s)

section

variable (rest : List LinkCell) (s : State)

theorem entered_eq : entered rest s = { s with
    lp.queue := rest
    pru.power := if s.pru.power = .standby then .run else s.pru.power
    pru.idleStart := if s.pru.power = .sleep then s.pru.idleStart else s.time } := by
  unfold entered leaveStandby
  rw [popped_eq]
  cases power : s.pru.power <;> simp [enterRun, power]

theorem entered_frame : ChangesOnly [.queue, .power, .idleStart] s (entered rest s) :=
  ((popped_frame rest s).mono (by decide)).trans ((leaveStandby_frame _).mono (by decide))

variable {s}

theorem entered_power (awake : s.pru.power ≠ .sleep) : (entered rest s).pru.power = .run := by
  rw [entered_eq]
  cases power : s.pru.power <;> simp_all

end

section

variable {c : LinkCell} {rest : List LinkCell} {s : State}

theorem runLength_eq (items first count : Nat) : runLength items first count = min count (items - first) := by
  unfold runLength
  split <;> omega

/-- The arguments of a READOUT. -/
theorem readout_arguments {segment kind : Byte} {first count : Nat} (low : first < 4294967296)
    (small : count < 4294967296) (payload : c.payload = [segment, kind] ++ leBytes 4 first ++ leBytes 4 count) :
    byteAt c.payload 0 = segment.toNat ∧ byteAt c.payload 1 = kind.toNat ∧ numAt c.payload 2 4 = first ∧
      numAt c.payload 6 4 = count ∧ c.payload.length = 10 := by
  rw [payload]
  refine ⟨rfl, rfl, ?_, ?_, by simp⟩
  · exact leNat_leBytes 4 first low
  · exact leNat_leBytes 4 count small

/-- A READOUT whose arguments name a segment and a kind. -/
theorem readoutOwner_named {n : Fin 32} {k : ItemKind} {t : State} {segment kind : Nat}
    (at0 : byteAt c.payload 0 = segment) (at1 : byteAt c.payload 1 = kind) (segment_n : segment = n.val)
    (kind_k : kind = if k = .records then 0 else 1) : readoutOwner c t =
      match readoutRefusal n k (leaveStandby t) with
      | some code => putReply c.tag (.refused code 0) (leaveStandby t)
      | none => beginReadout c.tag n k (numAt c.payload 2 4) (numAt c.payload 6 4)
          (putReply c.tag .accepted (leaveStandby t)) := by
  have named : toFin 32 segment = some n := by
    subst segment_n
    exact dif_pos n.isLt
  have known : toItemKind kind = some k := by
    subst kind_k
    cases k <;> rfl
  unfold readoutOwner
  rw [at0, at1, named, known] <;> rfl

theorem readoutOwner_unnamed {t : State} (bad : 31 < byteAt c.payload 0 ∨ 1 < byteAt c.payload 1) :
    readoutOwner c t = putReply c.tag (.refused .badValue 0) (leaveStandby t) := by
  unfold readoutOwner
  dsimp only
  rcases bad with segment | kind
  · rw [show toFin 32 (byteAt c.payload 0) = none from dif_neg (by omega)]
  · rw [show toItemKind (byteAt c.payload 1) = none from by
      rw [toItemKind, if_neg (by omega), if_neg (by omega)]]
    cases toFin 32 (byteAt c.payload 0) <;> rfl

theorem redecodesSegment_iff {s : State} {n : Fin 32} :
    redecodesSegment s n = true ↔ ∃ r, s.redecode = some r ∧ r.segment = n := by
  unfold redecodesSegment
  split <;> simp_all

/-- A hold that is placed and released again leaves the segments as they were. -/
theorem releaseHold_placeHold (n : Fin 32) (s : State) : releaseHold n (placeHold n s) = s := by
  refine congrArg (fun g => { s with segments := g }) ?_
  simp only [placeHold_segments, Fin.getElem_fin, Vector.getElem_set_self, Vector.set_set, Nat.add_sub_cancel]
  exact Vector.set_getElem_self _

/-- A readout with an empty run ends at once, and holds nothing. -/
theorem beginReadout_empty {s : State} {tag : Byte} {n : Fin 32} {k : ItemKind} {first count : Nat}
    (free : s.lp.readout = none) (empty : runLength (itemCount s.segments[n] k) first count = 0) :
    beginReadout tag n k first count s = raiseNotice (.readoutDone n k 0 true) s := by
  unfold beginReadout
  dsimp only
  rw [if_pos empty, empty]
  have dropped : { s with lp.readout := none } = s := by rw [← free]
  exact congrArg (raiseNotice _) ((releaseHold_placeHold n { s with lp.readout := none }).trans dropped)

/-- A readout with items to read holds its segment. -/
theorem beginReadout_run {s : State} {tag : Byte} {n : Fin 32} {k : ItemKind} {first count : Nat}
    (some_items : runLength (itemCount s.segments[n] k) first count ≠ 0) :
    beginReadout tag n k first count s = placeHold n { s with lp.readout := some {
      tag := tag, segment := n, kind := k, next := first
      left := runLength (itemCount s.segments[n] k) first count
      length := runLength (itemCount s.segments[n] k) first count, sent := 0, ready := none
      cancelled := false } } :=
  if_neg some_items

end

/-- Settles O48: the checks of READOUT in their order, and the run it fixes. -/
theorem readoutChecksInOrderAndFixesItsRun : Obligations.ReadoutChecksInOrderAndFixesItsRun := by
  intro c rest s segment kind first count ready code awake low small payload
  obtain ⟨at0, at1, at2, at6, length10⟩ := readout_arguments low small payload
  have owned : exec .readout s = .next (readoutOwner c (popped rest s)) :=
    dispatch_owner ready (commandRow_readout code) (by simp [length10]) (absurd · awake)
  refine ⟨fun bad => ?_, ?_⟩
  · exact refusesInRun_of_exec awake (owned.trans (by rw [readoutOwner_unnamed (by rw [at0, at1]; exact bad)]))
  rintro n k items length hn hk rfl rfl
  have owner := readoutOwner_named (t := popped rest s) at0 at1 hn hk
  have refusal : ∀ code, readoutRefusal n k s = some code → refusesInRun .readout c rest code s := by
    intro code refused
    have same : readoutRefusal n k (entered rest s) = some code := by rw [entered_eq]; exact refused
    exact refusesInRun_of_exec awake (owned.trans (by rw [owner, show readoutRefusal n k (leaveStandby (popped rest s)) = _ from same]))
  refine ⟨fun busy => refusal _ ?_, fun free open_ => refusal _ ?_, fun free closed symbols busy => refusal _ ?_,
    fun free closed apart => ?_⟩
  · exact if_pos busy
  · rw [readoutRefusal, if_neg (by simp [readoutRuns, free]), if_pos open_]
  · rw [readoutRefusal, if_neg (by simp [readoutRuns, free]), if_neg (not_not.2 closed),
      if_pos ⟨symbols, redecodesSegment_iff.2 busy⟩]
  · have passes : readoutRefusal n k (entered rest s) = none := by
      rw [entered_eq]
      show readoutRefusal n k s = none
      rw [readoutRefusal, if_neg (by simp [readoutRuns, free]), if_neg (not_not.2 closed), if_neg]
      rintro ⟨symbols, busy⟩
      obtain ⟨r, running, same⟩ := redecodesSegment_iff.1 busy
      exact apart symbols r running same
    have owner_accepts : exec .readout s = .next
        (beginReadout c.tag n k first count (putReply c.tag .accepted (entered rest s))) := by
      rw [owned, owner, show readoutRefusal n k (leaveStandby (popped rest s)) = none from passes, at2, at6]
      rfl
    have run : runLength (itemCount (putReply c.tag .accepted (entered rest s)).segments[n] k) first count =
        min count ((if k = .records then s.segments[n].recordCount else s.segments[n].symbolCount) - first) := by
      rw [runLength_eq, entered_eq]
      cases k <;> rfl
    have readout_free : (putReply c.tag .accepted (entered rest s)).lp.readout = none := by
      rw [entered_eq]
      exact free
    have start := entered_frame rest s
    have reply := putReply_frame c.tag .accepted (entered rest s)
    generalize min count ((if k = .records then s.segments[n].recordCount else s.segments[n].symbolCount) - first)
      = length at *
    by_cases empty : length = 0
    · rw [beginReadout_empty readout_free (run.trans empty)] at owner_accepts
      refine ⟨_, owner_accepts, ?_, ?_, fun some => absurd empty some, fun _ => ⟨?_, ?_⟩⟩
      · rw [raiseNotice_eq, entered_eq]
        exact ⟨rfl, rfl⟩
      · rw [raiseNotice_eq]
        exact entered_power rest awake
      · exact raised_of_same rfl (by rw [entered_eq]; rfl) (by rw [entered_eq]; rfl)
      · exact (start.mono (by decide)).trans ((reply.mono (by decide)).trans
          ((raiseNotice_frame _ _).mono (by decide)))
    · rw [beginReadout_run (by rw [run]; exact empty), run] at owner_accepts
      refine ⟨_, owner_accepts, ?_, ?_, fun _ => ⟨rfl, ?_, ?_⟩, fun none => absurd none empty⟩
      · rw [entered_eq]
        exact ⟨rfl, rfl⟩
      · exact entered_power rest awake
      · rw [entered_eq]
        rfl
      · exact (start.mono (by decide)).trans ((reply.mono (by decide)).trans
          (((update_readout _ _).mono (by decide)).trans ((placeHold_frame _ _).mono (by decide))))

/-! ### The bytes of a stream cell (R172) -/

theorem memReadBytes_length (m : Memory) (a n : Nat) : (memReadBytes m a n).length = n := by
  induction n generalizing a with
  | zero => rfl
  | succ n ih => rw [memReadBytes, List.length_cons, ih]

theorem memReadBytes_getD {m : Memory} {a n b : Nat} (inside : b < n) :
    (memReadBytes m a n).getD b 0 = memRead m (a + b) := by
  induction n generalizing a b with
  | zero => omega
  | succ n ih =>
    cases b with
    | zero => rfl
    | succ b =>
      rw [memReadBytes, List.getD_cons_succ, ih (by omega)]
      congr 1
      omega

/-- Items of one size, laid end to end. -/
theorem flatMap_getD {f : Nat → List Byte} {size : Nat} (uniform : ∀ i, (f i).length = size) (n : Nat) :
    ((List.range n).flatMap f).length = n * size ∧ ∀ i < n, ∀ b < size,
      ((List.range n).flatMap f).getD (i * size + b) 0 = (f i).getD b 0 := by
  induction n with
  | zero => exact ⟨by simp, fun i inside => absurd inside (Nat.not_lt_zero i)⟩
  | succ n ih =>
    obtain ⟨total, item⟩ := ih
    rw [List.range_succ, List.flatMap_append, List.flatMap_singleton]
    refine ⟨by rw [List.length_append, total, uniform, Nat.succ_mul], fun i inside b bound => ?_⟩
    rcases Nat.lt_succ_iff_lt_or_eq.1 inside with inside | rfl
    · have before_end : i * size + b < n * size := by
        calc i * size + b < i * size + size := by omega
          _ = (i + 1) * size := (Nat.succ_mul i size).symm
          _ ≤ n * size := Nat.mul_le_mul_right _ inside
      rw [List.getD_append _ _ _ _ (by rw [total]; exact before_end), item i inside b bound]
    · rw [List.getD_append_right _ _ _ _ (by rw [total]; omega), total, Nat.add_sub_cancel_left]

theorem granted_iff {s : State} {r : Requester} : granted s r = true ↔ nextGrant s = some r := beq_iff_eq

/-- Settles O49: a readout's grant reads its next items. -/
theorem readoutReadMakesTheNextCellReady : Obligations.ReadoutReadMakesTheNextCellReady := by
  rintro s r items size address grant readout rfl rfl addresses inside
  have count : cellItems r.kind = if r.kind = .records then 7 else 3 := by cases r.kind <;> rfl
  have bytes : itemSize r.kind = if r.kind = .records then 8 else 16 := by cases r.kind <;> rfl
  have places : ∀ i, itemAddress s r (r.next + i) = address i := by
    intro i
    rw [addresses]
    unfold itemAddress
    dsimp only
    cases r.kind <;> rfl
  rw [← count, ← bytes] at inside ⊢
  have within : ((List.range (min r.left (cellItems r.kind))).all fun i =>
      inDram s (itemAddress s r (r.next + i)) (itemSize r.kind)) = true := by
    rw [List.all_eq_true]
    intro i item
    rw [places]
    exact decide_eq_true (inside i (List.mem_range.1 item))
  have taken : exec .readoutRead s = .next
      { s with lp.readout := some (readItems s r (min r.left (cellItems r.kind))) } := by
    show execReadoutRead s = _
    unfold execReadoutRead
    rw [if_pos (granted_iff.2 grant), readout]
    exact if_pos within
  obtain ⟨total, item⟩ := flatMap_getD (f := fun i =>
      memReadBytes s.dram (itemAddress s r (r.next + i)) (itemSize r.kind))
    (fun i => memReadBytes_length _ _ _) (min r.left (cellItems r.kind))
  refine ⟨_, _, taken, rfl, rfl, rfl, total, fun i inside_i b inside_b => ?_, update_readout s _⟩
  rw [← places, ← memReadBytes_getD inside_b]
  exact item i inside_i b inside_b

end Sys2Proof.Machine
end

section
/-! SUPPORT. Little-endian fields laid end to end (R185), the reports of STATUS (R178, R186), and the commands
STATUS and RESET. -/

namespace Sys2Proof.Machine

/-! ### Fields laid end to end (R185) -/

theorem leNat_leBytes_mod (k n : Nat) : leNat (leBytes k n) = n % 256 ^ k := by
  induction k generalizing n with
  | zero => simp [leBytes, leNat, Nat.mod_one]
  | succ k ih =>
    rw [leBytes, leNat, ih, BitVec.toNat_ofNat, Nat.pow_succ' (m := 256), Nat.mod_mul]

/-- A number read past the bytes of a field lies in what follows the field. -/
@[simp] theorem numAt_skip {j n a k : Nat} {rest : List Byte} (past : j ≤ a) :
    numAt (leBytes j n ++ rest) a k = numAt rest (a - j) k := by
  unfold numAt bytesAt
  rw [List.drop_append, leBytes_length, List.drop_eq_nil_of_le (by simp [past]), List.nil_append]

@[simp] theorem numAt_head (k n : Nat) (rest : List Byte) :
    numAt (leBytes k n ++ rest) 0 k = n % 256 ^ k := by
  unfold numAt bytesAt
  rw [List.drop_zero, List.take_left' (leBytes_length k n), leNat_leBytes_mod]

@[simp] theorem numAt_last (k n : Nat) : numAt (leBytes k n) 0 k = n % 256 ^ k := by
  have h := numAt_head k n []
  rwa [List.append_nil] at h

theorem byteAt_eq_numAt (bs : List Byte) (i : Nat) : byteAt bs i = numAt bs i 1 := by
  unfold byteAt numAt bytesAt
  rw [List.getD_eq_getElem?_getD, ← List.head?_drop]
  cases bs.drop i <;> simp [leNat]

theorem getLsbD_eq_testBit (bs : List Byte) (i j : Nat) :
    (bs.getD i 0).getLsbD j = (numAt bs i 1).testBit j :=
  congrArg (Nat.testBit · j) (byteAt_eq_numAt bs i)

theorem zeros_eq_leBytes : zeros 1 = leBytes 1 0 := rfl

/-- The bits of two groups of four flags in one byte. -/
theorem fourFlags_testBit (a b c d a' b' c' d' : Bool) :
    let byte := (fourFlags a b c d + 16 * fourFlags a' b' c' d') % 256
    decide ((fourFlags a b c d + 16 * fourFlags a' b' c' d') % 2 = 1) = a ∧ byte.testBit 1 = b ∧ byte.testBit 2 = c ∧ byte.testBit 3 = d ∧
      byte.testBit 4 = a' ∧ byte.testBit 5 = b' ∧ byte.testBit 6 = c' ∧ byte.testBit 7 = d' := by
  revert a b c d a' b' c' d'
  decide

theorem fourFlags_low (a b c d : Bool) : fourFlags a b c d % 256 = fourFlags a b c d ∧
    decide (fourFlags a b c d % 2 = 1) = a ∧ (fourFlags a b c d).testBit 1 = b ∧
      (fourFlags a b c d).testBit 2 = c ∧ (fourFlags a b c d).testBit 3 = d := by
  revert a b c d
  decide

theorem flag_eq_fourFlags (a : Bool) : flag a = fourFlags a false false false := by
  simp [fourFlags, flag]

@[simp] theorem time_lt (t : Time) : t.toNat < 281474976710656 := t.isLt

/-! ### The reports (R178, R186) -/

theorem segmentReport_layout (g : SegmentStatus) : SegmentReport g (segmentReport g) where
  length := by simp [segmentReport, optionalBytes, timeBytes]
  state := by
    rw [byteAt_eq_numAt]
    cases state : g.state <;> simp [segmentReport, state, segmentCode]
  presence := by
    simp only [getLsbD_eq_testBit]
    simp [segmentReport, fourFlags_low]
  ring := by simp [holdsOptional, segmentReport, optionalBytes]
  times := by simp [segmentReport, optionalBytes, timeBytes]
  trigger := by
    simp [holdsOptional, segmentReport, optionalBytes, timeBytes]
    rfl
  reason := by
    simp [holdsOptional, segmentReport, optionalBytes, timeBytes]
    rfl
  gaps := by simp [segmentReport, optionalBytes, timeBytes]
  flags := by
    simp only [getLsbD_eq_testBit]
    simp [segmentReport, optionalBytes, timeBytes, fourFlags_low]
  symbols := by simp [holdsOptional, segmentReport, optionalBytes, timeBytes]
  status := by
    simp [holdsOptional, segmentReport, optionalBytes, timeBytes]
    rfl
  holds := by simp [byteAt_eq_numAt, segmentReport, optionalBytes, timeBytes]

theorem deviceReport_layout (s : State) : DeviceReport s (deviceReport s) where
  length := by simp [deviceReport, optionalBytes]
  cause := by
    rw [byteAt_eq_numAt]
    cases cause : s.pru.cause <;> simp [deviceReport, cause, resetCode]
  power := by
    rw [byteAt_eq_numAt]
    cases power : s.pru.power <;> simp [deviceReport, power, powerCode]
  size := by
    rw [byteAt_eq_numAt]
    cases size : s.mp.size <;> simp [deviceReport, size, sizeCode]
  pods := by
    intro p
    simp only [getLsbD_eq_testBit]
    fin_cases p <;> simp [deviceReport, fourFlags_testBit]
  engine := by
    rw [byteAt_eq_numAt]
    cases engine : s.ce.engine <;> simp [deviceReport, engine, engineCode]
  segment := by simp [holdsOptional, deviceReport, optionalBytes]
  counts := by simp [deviceReport, optionalBytes]

theorem laneReport_layout (l : Lane) : LaneReport l (laneReport l) where
  length := by simp [laneReport, zeros]
  state := by
    rw [byteAt_eq_numAt]
    cases mode : l.mode <;> simp [laneReport, mode, laneCode]
  flags := by
    simp only [getLsbD_eq_testBit]
    simp [laneReport, fourFlags_low]
  words := by simp [laneReport, byteAt_eq_numAt]
  counters := by
    intro i n counter
    obtain ⟨bound, rfl⟩ := List.getElem?_eq_some_iff.1 counter
    simp only [List.length_cons, List.length_nil] at bound
    interval_cases i <;> simp [laneReport, zeros_eq_leBytes]

theorem sequencerReport_layout (u : Ts) : SequencerReport u (sequencerReport 0 u) where
  length := by simp [sequencerReport, optionalBytes, timeBytes]
  run := by
    rw [byteAt_eq_numAt]
    cases run : u.run <;> simp [sequencerReport, run, runCode]
  stage := by simp [holdsOptional, sequencerReport, optionalBytes]
  branches := by simp [sequencerReport, optionalBytes]
  counters := by
    intro c
    simp only [getLsbD_eq_testBit]
    fin_cases c <;> simp [sequencerReport, optionalBytes, fourFlags_low]
  trigger := by
    simp [sequencerReport, optionalBytes, timeBytes, byteAt_eq_numAt, flag]
    split <;> omega
  cause := by
    simp [holdsOptional, sequencerReport, optionalBytes, timeBytes]
    rfl
  history := by simp [sequencerReport, optionalBytes, timeBytes, byteAt_eq_numAt]

theorem renderReport_layout (r : Re) : RenderReport r (renderReport r) where
  length := by simp [renderReport, optionalBytes, timeBytes]
  job := by
    rw [byteAt_eq_numAt]
    cases job : r.job <;> simp [renderReport, job, jobCode]
  flags := by
    simp only [getLsbD_eq_testBit]
    cases active : r.active <;> simp [renderReport, fourFlags_low, active]
  segment := by simp [holdsOptional, renderReport, optionalBytes]
  outcome := by
    simp [holdsOptional, renderReport, optionalBytes]
    rfl
  clipped := by simp [holdsOptional, renderReport, optionalBytes]
  columns := by simp [holdsOptional, renderReport, optionalBytes]
  presence := by
    simp only [getLsbD_eq_testBit]
    simp [renderReport, optionalBytes, flag_eq_fourFlags, fourFlags_testBit]
  times := by simp [renderReport, optionalBytes, timeBytes]
  counts := by simp [holdsOptional, renderReport, optionalBytes, timeBytes]
  values := by simp [holdsOptional, renderReport, optionalBytes, timeBytes]
  interval := by simp [renderReport, optionalBytes, timeBytes]

/-- Entries of one size, laid end to end and then read. -/
theorem numAt_flatMap {α : Type} {f : α → List Byte} {size : Nat} (uniform : ∀ x, (f x).length = size)
    (xs : List α) : (xs.flatMap f).length = size * xs.length ∧
      ∀ (i : Nat) (x : α), xs[i]? = some x → ∀ a k, a + k ≤ size →
        numAt (xs.flatMap f) (size * i + a) k = numAt (f x) a k := by
  induction xs with
  | nil => exact ⟨by simp, fun i x h => by simp at h⟩
  | cons y ys ih =>
    obtain ⟨total, entry⟩ := ih
    rw [List.flatMap_cons]
    refine ⟨by rw [List.length_append, uniform, total, List.length_cons, Nat.mul_succ, Nat.add_comm], ?_⟩
    intro i x at_i a k inside
    cases i with
    | zero =>
      obtain rfl : y = x := Option.some.inj at_i
      unfold numAt bytesAt
      rw [Nat.mul_zero, Nat.zero_add, List.drop_append_of_le_length (by rw [uniform]; omega),
        List.take_append_of_le_length (by rw [List.length_drop, uniform]; omega)]
    | succ i =>
      rw [← entry i x at_i a k inside]
      unfold numAt bytesAt
      rw [List.drop_append, List.drop_eq_nil_of_le (by rw [uniform, Nat.mul_succ]; omega), List.nil_append,
        uniform, show size * (i + 1) + a - size = size * i + a by rw [Nat.mul_succ]; omega]

theorem historyBytes_length (h : HistoryEntry) : (historyBytes h).length = 7 := by simp [historyBytes]

theorem historyBytes_layout (h : HistoryEntry) :
    numAt (historyBytes h) 0 1 = h.stage.val + (if h.secondary then 8 else 0) + 16 * (match h.target with
        | .stage n => n.val
        | .fire => 8
        | .stay => 9) ∧
      numAt (historyBytes h) 1 6 = h.time.toNat := by
  have small : targetCode h.target ≤ 9 := by
    unfold targetCode
    split
    · omega
    all_goals decide
  have code : targetCode h.target = (match h.target with
      | .stage n => n.val
      | .fire => 8
      | .stay => 9) := by
    cases h.target <;> rfl
  rw [← code]
  constructor
  · have bits : h.stage.val + 8 * flag h.secondary + 16 * targetCode h.target < 256 := by
      unfold flag
      split <;> omega
    rw [historyBytes, numAt_head, Nat.mod_eq_of_lt (by simpa using bits)]
    unfold flag
    split <;> rfl
  · simp [historyBytes]

theorem sequencerReport_history {part : Fin 3} (u : Ts) (history : part ≠ 0) : sequencerReport part u =
    leBytes 1 u.history.length ++
      (if part = 1 then u.history.take 8 else u.history.drop 8).flatMap historyBytes :=
  if_neg history

/-- The two edge reports: sixteen channels each. -/
theorem edgeReport_layout (second : Bool) (r : Re) (interval : Option (Nat × List Nat))
    (reading : interval = r.readings.bind (·.interval)) :
    (edgeReport second r).length = 33 ∧ byteAt (edgeReport second r) 0 = (if interval.isSome then 1 else 0) ∧
      ∀ i < 16, numAt (edgeReport second r) (1 + 2 * i) 2 =
        ((interval.bind fun q => q.2[i + 16 * flag second]?).getD 65535) % 65536 := by
  subst reading
  obtain ⟨total, entry⟩ := numAt_flatMap (size := 2)
    (f := fun i => optionalBytes 2 ((r.readings.bind (·.interval)).bind fun q => q.2[i + 16 * flag second]?))
    (fun i => leBytes_length _ _) (List.range 16)
  refine ⟨?_, ?_, fun i inside => ?_⟩
  · rw [edgeReport, List.length_append, leBytes_length, total, List.length_range]
  · rw [byteAt_eq_numAt, edgeReport, numAt_head]
    unfold flag
    split <;> rfl
  · rw [edgeReport, numAt_skip (by omega), Nat.add_sub_cancel_left]
    refine (entry i i (by simp [inside]) 0 2 (by omega)).trans ?_
    rw [optionalBytes, numAt_last]
    rfl

theorem sequencerReport_entries {part : Fin 3} (u : Ts) (history : part ≠ 0) (held : List HistoryEntry)
    (hheld : held = if part = 1 then u.history.take 8 else u.history.drop 8) :
    (sequencerReport part u).length = 1 + 7 * held.length ∧
      byteAt (sequencerReport part u) 0 = u.history.length % 256 ∧
      ∀ (i : Nat) (h : HistoryEntry), held[i]? = some h →
        byteAt (sequencerReport part u) (1 + 7 * i) =
          h.stage.val + (if h.secondary then 8 else 0) + 16 * (match h.target with
            | .stage n => n.val
            | .fire => 8
            | .stay => 9) ∧
        numAt (sequencerReport part u) (2 + 7 * i) 6 = h.time.toNat := by
  obtain ⟨total, entry⟩ := numAt_flatMap historyBytes_length held
  rw [sequencerReport_history u history, ← hheld]
  refine ⟨?_, ?_, fun i h at_i => ?_⟩
  · rw [List.length_append, leBytes_length, total]
  · rw [byteAt_eq_numAt, numAt_head, Nat.pow_one]
  · obtain ⟨code, time⟩ := historyBytes_layout h
    rw [byteAt_eq_numAt, numAt_skip (by omega), numAt_skip (by omega),
      show 1 + 7 * i - 1 = 7 * i + 0 by omega, show 2 + 7 * i - 1 = 7 * i + 1 by omega,
      entry i h at_i 0 1 (by omega), entry i h at_i 1 6 (by omega)]
    exact ⟨code, time⟩

/-! ### The commands STATUS and RESET (R174, R178) -/

section

variable {c : LinkCell} {rest : List LinkCell} {s : State}

/-- A command whose owner places one reply, and nothing else. -/
theorem answers_of_exec {i : Instr} {body : ReplyBody}
    (placed : exec i s = .next (putReply c.tag body (popped rest s))) :
    ∃ t, exec i s = .next t ∧ answered c rest body t ∧ ChangesOnly dispatchParts s t := by
  refine ⟨_, placed, ⟨by rw [putReply_lp, popped_lp], rfl⟩, ?_⟩
  exact ((popped_frame rest s).mono (by decide)).trans ((putReply_frame _ _ _).mono (by decide))

theorem toFin_of_lt {n k : Nat} (inside : k < n) : toFin n k = some ⟨k, inside⟩ := dif_pos inside

theorem toFin_of_le {n k : Nat} (outside : n ≤ k) : toFin n k = none := dif_neg (Nat.not_lt.2 outside)

/-- The reply body of a STATUS whose arguments name a report, or none. -/
def statusBody : Option StatusReport → ReplyBody
  | some q => .status q
  | none => .refused .badValue 0

theorem exec_status {row : Instr} (ready : Ready c rest s) (code : c.code = 11) (two : c.payload.length = 2)
    (named : statusRow c.payload = row) {report : LinkCell → Option StatusReport}
    (rowed : exec row s = dispatch row (some 2) true s fun c t => statusReply c (report c) t) :
    exec row s = .next (putReply c.tag (statusBody (report c)) (popped rest s)) := by
  rw [rowed, dispatch_owner ready ((commandRow_status code).trans named) (by simp [two]) (fun _ => rfl)]
  unfold statusReply
  cases report c <;> rfl

/-- A STATUS row that takes a number answers each number it has, and refuses the others. -/
theorem status_numbered {row : Instr} {k : Nat} {q : Fin k → StatusReport} (ready : Ready c rest s)
    (code : c.code = 11) (two : c.payload.length = 2) (named : statusRow c.payload = row)
    (rowed : exec row s = dispatch row (some 2) true s fun c t =>
      statusReply c ((toFin k (byteAt c.payload 1)).map q) t) :
    (∀ n : Fin k, byteAt c.payload 1 = n.val →
      ∃ t, exec row s = .next t ∧ answered c rest (.status (q n)) t ∧ ChangesOnly dispatchParts s t) ∧
    (k ≤ byteAt c.payload 1 → refuses row c rest .badValue 0 s) := by
  have done := exec_status ready code two named rowed
  refine ⟨fun n number => ?_, fun outside => ?_⟩
  · rw [number, toFin_of_lt n.isLt] at done
    exact answers_of_exec done
  · rw [toFin_of_le outside] at done
    exact answers_of_exec done

end

/-- Settles O57: the answers of STATUS and RESET, and the layouts of the reports. -/
theorem statusAndResetAreAnswered : Obligations.StatusAndResetAreAnswered := by
  refine ⟨?_, fun s => ⟨deviceReport_layout s, fun n => segmentReport_layout _, fun l => laneReport_layout _,
    sequencerReport_layout _, fun part held hheld history => sequencerReport_entries s.ts history held hheld,
    renderReport_layout _, ?_⟩⟩
  · intro c rest s selector number answers ready answers_iff
    refine ⟨fun code payload => ?_, fun code payload => ?_⟩
    · rw [answers_iff]
      exact answers_of_exec (dispatch_owner ready (commandRow_reset code) (by simp [payload]) (fun _ => rfl))
    have two : c.payload.length = 2 := by rw [payload]; rfl
    have row : ∀ row, statusRow [selector, number] = row → statusRow c.payload = row := fun _ h => payload ▸ h
    have at0 : byteAt c.payload 0 = selector.toNat := by rw [payload]; rfl
    have at1 : byteAt c.payload 1 = number.toNat := by rw [payload]; rfl
    simp only [answers_iff]
    have segment (h : selector = 1) := status_numbered (row := .statusSegment) ready code two
      (row _ (by rw [h]; rfl)) rfl
    have lane (h : selector = 2) := status_numbered (row := .statusLane) ready code two
      (row _ (by rw [h]; rfl)) rfl
    have sequencer (h : selector = 3) := status_numbered (row := .statusSequencer) ready code two
      (row _ (by rw [h]; rfl)) rfl
    have render (h : selector = 4) := status_numbered (row := .statusRender) ready code two
      (row _ (by rw [h]; rfl)) rfl
    rw [at1] at segment lane sequencer render
    refine ⟨?device, ?unnamed, fun n h => (segment h).1 n, fun h => (segment h).2, fun n h => (lane h).1 n,
      fun h => (lane h).2, fun n h => (sequencer h).1 n, fun h => (sequencer h).2, fun n h => (render h).1 n,
      fun h => (render h).2⟩
    case device =>
      rintro rfl
      have done := exec_status (row := .statusDevice) ready code two (row _ rfl) rfl
      rw [at0] at done
      exact answers_of_exec done
    case unnamed =>
      intro outside
      have device : statusRow [selector, number] = .statusDevice := by
        unfold statusRow
        rw [if_neg (by simp), show byteAt [selector, number] 0 = selector.toNat from rfl]
        split <;> first | rfl | omega
      have done := exec_status (row := .statusDevice) ready code two (row _ device) rfl
      rw [at0, if_neg (by omega)] at done
      exact answers_of_exec done
  · intro part interval edges reading
    have bytes : reportBytes s (.render part) = edgeReport (part == 2) s.re := if_neg edges
    have offset : 16 * flag (part == 2) = if part = 2 then 16 else 0 := by
      by_cases second : part = 2 <;> simp [second, flag]
    obtain ⟨length, presence, counts⟩ := edgeReport_layout (part == 2) s.re interval reading
    rw [bytes]
    rw [offset] at counts
    exact ⟨length, presence, counts⟩

end Sys2Proof.Machine
end

section
/-! SUPPORT. The power states: POWER, the idle timer and the wake (R18, R180 to R183). -/

namespace Sys2Proof.Machine

/-! ### The channels of the pods -/

/-- The byte of channels of each pod whose test is true. -/
theorem podBytes_getLsbD (test : Fin 4 → Bool) (k : Fin 32) :
    ((List.finRange 4).foldl
      (fun (w : Word) i => if test i then w ||| (0xFF#32 <<< (8 * i.val)) else w) 0).getLsbD k =
      test (podOf k) := by
  have four : test = ![test 0, test 1, test 2, test 3] := by
    funext i
    fin_cases i <;> rfl
  rw [four]
  generalize test 0 = a, test 1 = b, test 2 = c, test 3 = d
  revert a b c d k
  decide

theorem podMask_getLsbD (test : PodState → Bool) (p : Pfe) (k : Fin 32) :
    (podMask test p).getLsbD k = test p.pods[podOf k] :=
  podBytes_getLsbD (fun i => test p.pods[i]) k

/-! ### Moves between the power states (R180 to R182) -/

section

variable {c : LinkCell} {rest : List LinkCell} {s : State}

theorem busy_iff (s : State) : busy s = false ↔
    s.ce.engine = .idle ∧ s.re.job = .idle ∧ s.redecode = none ∧ s.lp.readout = none := by
  simp [busy, engineIdle, readoutRuns, and_assoc]

/-- A POWER is carried out by the row of its target (R181). -/
theorem exec_power {target : Byte} (ready : Ready c rest s) (code : c.code = 12) (payload : c.payload = [target]) :
    (target.toNat ≠ 1 → target.toNat ≠ 2 →
      exec .powerRun s = .next (powerRunOwner c (popped rest s))) ∧
    (target = 1 → exec .powerStandby s = .next (powerStandbyOwner c (popped rest s))) ∧
    (target = 2 → exec .powerSleep s = .next (powerSleepOwner c (popped rest s))) := by
  have one : (some 1).any (fun k => k != c.payload.length) = false := by simp [payload]
  have row := commandRow_power code
  rw [payload] at row
  refine ⟨fun not_standby not_sleep => ?_, ?_, ?_⟩
  · refine dispatch_owner ready (row.trans ?_) one (fun _ => rfl)
    unfold powerRow
    rw [show byteAt [target] 0 = target.toNat from rfl]
    split <;> first | rfl | omega
  · rintro rfl
    exact dispatch_owner ready row one (fun _ => rfl)
  · rintro rfl
    exact dispatch_owner ready row one (fun _ => rfl)

theorem popped_busy (rest : List LinkCell) (s : State) : busy (popped rest s) = busy s := by
  rw [popped_eq]
  rfl

/-- A move that is checked is refused while the part is busy. -/
theorem refuses_of_busy {i : Instr} {move : State → State} (at_work : busy s = true)
    (owned : exec i s = .next (checkedMove move c (popped rest s))) : refuses i c rest .busy 0 s :=
  refuses_of_exec (owned.trans (congrArg Host.Outcome.next (if_pos ((popped_busy rest s).trans at_work))))

/-- A move that is checked is made while the part is idle. -/
theorem checkedMove_idle {move : State → State} (idle : busy s = false) :
    checkedMove move c (popped rest s) = putReply c.tag (.done []) (move (popped rest s)) :=
  if_neg (by rw [popped_busy, idle]; exact Bool.false_ne_true)

theorem sleepGenerator_outputs (g : Gen) (i : Fin 2) :
    (sleepGenerator g).outputs[i] = { g.outputs[i] with level := false } := by
  fin_cases i <;> rfl

theorem wakeLevels_getLsbD (p : Pfe) (k : Fin 32) :
    (wakeLevels p).getLsbD k = (p.outputs.getLsbD k && p.pods[podOf k].present) := by
  rw [wakeLevels, BitVec.getLsbD_and, podMask_getLsbD]

/-- In Sleep a POWER to Run or Standby starts a wake, and the idle timer does not run. -/
theorem powerWake_effect {i : Instr} {target : PowerState} (asleep : s.pru.power = .sleep)
    (owned : exec i s = .next (powerWake target c (popped rest s))) :
    ∃ t, exec i s = .next t ∧ t.lp.queue = rest ∧ t.lp.inProgress = some (.wake c.tag) ∧
      t.pru.wake = some { cause := .link, target := target } ∧
      ChangesOnly [.queue, .inProgress, .wake] s t := by
  refine ⟨_, owned, ?_, rfl, rfl, ?_⟩
  · rw [popped_eq]
    rfl
  · rw [popped_eq, if_neg (by simp [asleep])]
    exact ((update_queue s rest).mono (by decide)).trans
      (((update_inProgress _ _).mono (by decide)).trans ((startWake_frame _ _ _).mono (by decide)))

end

/-- Settles O58: POWER by current state and target, and the idle timer. -/
theorem powerMovesBetweenTheStates : Obligations.PowerMovesBetweenTheStates := by
  refine ⟨fun c rest s target idle ready code payload idle_iff => ?_, ?_⟩
  · obtain ⟨toRun, toStandby, toSleep⟩ := exec_power ready code payload
    have at0 : byteAt c.payload 0 = target.toNat := by rw [payload]; rfl
    have power : (popped rest s).pru.power = s.pru.power := by rw [popped_pru]
    have working : ¬idle → busy s = true := by
      rw [idle_iff, ← busy_iff]
      simp
    have resting : idle → busy s = false := by rw [idle_iff, ← busy_iff]; exact id
    have start := popped_frame rest s
    refine ⟨?unnamed, ?run, ?standbyBusy, ?standby, ?sleepBusy, ?sleep, ?asleep, ?wake⟩
    case unnamed =>
      intro unnamed
      refine refuses_of_exec ((toRun (by omega) (by omega)).trans (congrArg Host.Outcome.next ?_))
      exact if_pos (by omega)
    case run =>
      rintro rfl awake
      have owned := toRun (by decide) (by decide)
      have move : powerRunOwner c (popped rest s) = powerDone c (entered rest s) := by
        unfold powerRunOwner entered leaveStandby
        rw [if_neg (by simp [at0]), power]
        cases now : s.pru.power <;> simp_all
      rw [move] at owned
      refine ⟨_, owned, ?_, entered_power rest awake, ?_, ?_⟩
      · rw [entered_eq]
        exact ⟨rfl, rfl⟩
      · rw [entered_eq]
        exact if_neg awake
      · exact ((entered_frame rest s).mono (by decide)).trans ((putReply_frame _ _ _).mono (by decide))
    case standbyBusy =>
      intro standby running active
      refine refuses_of_busy (move := enterStandby) (working active) ((toStandby standby).trans ?_)
      unfold powerStandbyOwner
      rw [power, running]
    case standby =>
      rintro standby (⟨running, inactive⟩ | already)
      · have owned := toStandby standby
        unfold powerStandbyOwner at owned
        rw [power, running] at owned
        dsimp only at owned
        rw [checkedMove_idle (resting inactive)] at owned
        refine ⟨_, owned, ⟨?_, rfl⟩, rfl, ?_⟩
        · rw [popped_eq]
          rfl
        · exact (start.mono (by decide)).trans (((enterStandby_frame _).mono (by decide)).trans
            ((putReply_frame _ _ _).mono (by decide)))
      · have owned := toStandby standby
        unfold powerStandbyOwner at owned
        rw [power, already] at owned
        obtain ⟨t, taken, answer, frame⟩ := answers_of_exec owned
        exact ⟨t, taken, answer, (frame .power (by decide)).trans already, frame.mono (by decide)⟩
    case sleepBusy =>
      intro sleep awake active
      refine refuses_of_busy (move := enterSleep) (working active) ((toSleep sleep).trans ?_)
      unfold powerSleepOwner
      rw [power]
      cases now : s.pru.power <;> simp_all
    case sleep =>
      intro sleep awake inactive
      have owned := toSleep sleep
      have move : powerSleepOwner c (popped rest s) = putReply c.tag (.done []) (enterSleep (popped rest s)) := by
        rw [← checkedMove_idle (resting inactive)]
        unfold powerSleepOwner
        rw [power]
        cases now : s.pru.power <;> simp_all
      rw [move] at owned
      refine ⟨_, owned, ⟨?_, rfl⟩, rfl, ?_, rfl, fun k => ?_, fun i => ?_, ?_⟩
      · rw [popped_eq]
        rfl
      · rw [popped_eq]
        rfl
      · rw [← wakeLevels_getLsbD, popped_eq]
        rfl
      · rw [← sleepGenerator_outputs, popped_eq]
        rfl
      · exact (start.mono (by decide)).trans (((enterSleep_frame _).mono (by decide)).trans
          ((putReply_frame _ _ _).mono (by decide)))
    case asleep =>
      intro sleep already
      refine answers_of_exec ((toSleep sleep).trans ?_)
      unfold powerSleepOwner
      rw [power, already]
      rfl
    case wake =>
      rintro i next already (⟨rfl, rfl, rfl⟩ | ⟨rfl, rfl, rfl⟩)
      · refine powerWake_effect already ((toRun (by decide) (by decide)).trans ?_)
        unfold powerRunOwner
        rw [if_neg (by simp [at0]), power, already]
      · refine powerWake_effect already ((toStandby rfl).trans ?_)
        unfold powerStandbyOwner
        rw [power, already]
  · intro s running timed engine job redecode readout free expired
    have quiet := (busy_iff s).2 ⟨engine, job, redecode, readout⟩
    have out : idleExpired s = true := by
      simp [idleExpired, running, timed, quiet, free, idleTicks, ticksAfter, Config.ticksPerMs, expired]
    exact ⟨_, congrArg Host.Outcome.next (if_pos out), rfl, enterStandby_frame s⟩

/-! ### The wake (R183) -/

theorem find?_lowest {n : Nat} {test : Fin n → Bool} {k : Fin n} (yes : test k = true)
    (none_below : ∀ j : Fin n, j < k → test j = false) : (List.finRange n).find? test = some k := by
  rw [List.find?_eq_some_iff_getElem]
  refine ⟨yes, k.val, by simp, by simp, fun j below => ?_⟩
  rw [List.getElem_finRange]
  exact Bool.not_eq_true' _ ▸ (none_below ⟨j, by omega⟩ below)

theorem wakeOutput_other {g : Gen} {i j : Fin 2} (apart : j ≠ i) : (wakeOutput g i).outputs[j] = g.outputs[j] := by
  unfold wakeOutput
  split <;> exact setOutput_other apart _ g

theorem wakeOutput_self (g : Gen) (i : Fin 2) : (wakeOutput g i).outputs[i] =
    match g.table[i].mode with
    | .square | .burstOnTrigger => restartedOutput g.table[i]
    | _ => heldOutput := by
  unfold wakeOutput
  cases g.table[i].mode <;> exact setOutput_self i _ g

/-- Each output takes up its entry's mode at a wake (R18). -/
theorem wakeGenerator_output (g : Gen) (i : Fin 2) : (wakeGenerator g).outputs[i] =
    match g.table[i].mode with
    | .square | .burstOnTrigger => restartedOutput g.table[i]
    | _ => heldOutput := by
  unfold wakeGenerator
  match i with
  | 0 => rw [wakeOutput_other (by decide), wakeOutput_self]
  | 1 => rw [wakeOutput_self, wakeOutput_table]

theorem beginFrame_quiet {s : State} (whole : s.su.resizing = false) :
    beginFrame s = { s with su := takeUp s.time s.su } := by
  unfold beginFrame applyResize
  rw [if_neg (by simp [whole])]

/-- The state a wake leads to, before its notice and its reply. -/
def awakened (w : WakeProgress) (s : State) : State :=
  { s with
    pfe := wakePods s.time s.pfe, gen := wakeGenerator s.gen, su := takeUp s.time s.su
    pru := { s.pru with
      mask := 0, recorded := 0, changed := 0, wake := none
      power := if w.target = .standby then .standby else .run
      idleStart := if w.target = .standby then s.pru.idleStart else s.time } }

theorem awaken_eq {w : WakeProgress} {s : State} (whole : s.su.resizing = false) :
    awaken w s = replyToWake (raiseNotice (.wake w.cause) (awakened w s)) := by
  unfold awaken
  dsimp only
  rw [beginFrame_quiet (by exact whole)]
  cases target : w.target <;> simp [enterAwake, enterStandby, enterRun, awakened, target]

theorem replyToWake_of_power {s : State} {tag : Byte} (power : s.lp.inProgress = some (.wake tag)) :
    replyToWake s = putReply tag (.done []) { s with lp.inProgress := none } := by
  unfold replyToWake
  rw [power]

theorem replyToWake_of_other {s : State} (other : ∀ tag, s.lp.inProgress ≠ some (.wake tag)) :
    replyToWake s = s := by
  unfold replyToWake
  split
  · next tag power => exact absurd power (other tag)
  · rfl

/-- The reply to the POWER that began a wake changes the reply slot and the command carried out. -/
theorem replyToWake_eq (s : State) : replyToWake s = { s with
    lp.slot := (replyToWake s).lp.slot, lp.inProgress := (replyToWake s).lp.inProgress } := by
  unfold replyToWake
  split <;> rfl

/-- Settles O59: where a wake starts, and what its end restores. -/
theorem wakeStartsAtAChangeAndRestoresTheBlocks : Obligations.WakeStartsAtAChangeAndRestoresTheBlocks := by
  refine ⟨fun s k asleep none_yet changed lowest => ?_, fun s w waking whole => ?_⟩
  · have channel : wakeChannel s = some k := by
      unfold wakeChannel
      rw [if_pos ⟨asleep, by simp [none_yet]⟩]
      exact find?_lowest changed lowest
    refine ⟨startWake (.activity k) .run s, ?_, rfl, startWake_frame _ _ _⟩
    show execWakeActivity s = _
    unfold execWakeActivity
    rw [channel]
  · have done : exec .wakeComplete s = .next (awaken w s) := by
      show execWakeComplete s = _
      unfold execWakeComplete
      rw [waking]
    have noticed := raiseNotice_eq (awakened w s) (.wake w.cause)
    refine ⟨_, done, ?_⟩
    rw [awaken_eq whole]
    refine ⟨?wake, ?power, ?idle, ?mask, ?recorded, ?changed, ?raised, ?frame, ?applied, ?palette, ?cursors,
      ?view, ?front, ?pods, ?outputs, ?answered, ?unanswered, ?frames⟩
    case idle =>
      intro run
      rw [replyToWake_eq, noticed]
      exact if_neg run
    case raised =>
      rw [replyToWake_eq]
      exact raised_of_same rfl rfl rfl
    case pods =>
      intro p
      rw [replyToWake_eq, noticed]
      exact mapPods_getElem _ _ p
    case outputs =>
      intro i
      rw [replyToWake_eq, noticed, show (awakened w s).gen = wakeGenerator s.gen from rfl, wakeGenerator_output]
      refine ⟨fun square => ?_, fun burst => ?_, fun other => ?_⟩
      · unfold restartedOutput
        rw [square]
        exact ⟨rfl, rfl, rfl⟩
      · unfold restartedOutput
        rw [burst]
        exact ⟨rfl, rfl⟩
      · rcases other with off | burst
        · rw [off]
          exact ⟨rfl, rfl⟩
        · rw [burst]
          exact ⟨rfl, rfl⟩
    case answered =>
      intro tag power
      rw [replyToWake_of_power (tag := tag) (by rw [noticed]; exact power)]
      exact ⟨rfl, rfl⟩
    case unanswered =>
      intro other
      rw [replyToWake_of_other (by rw [noticed]; exact other), noticed]
      exact ⟨rfl, rfl⟩
    case frames =>
      rw [replyToWake_eq, noticed]
      intro p untouched
      cases p <;> first
        | rfl | exact ⟨rfl, rfl⟩ | exact ⟨rfl, rfl, rfl⟩ | exact fun _ => rfl | exact wakeGenerator_table s.gen
        | simp at untouched
    all_goals
      rw [replyToWake_eq, noticed]
      rfl

end Sys2Proof.Machine
end

section
/-! SUPPORT. The upstream arbiter (R166): which cell begins to be sent, and the bytes of a cell (R162, R186). -/

namespace Sys2Proof.Machine

/-! ### The choice of the next cell (R166) -/

theorem nextUpCell_busy {s : State} (busy : s.lp.sending.isSome) : nextUpCell s = none := by
  obtain ⟨c, sending⟩ := Option.isSome_iff_exists.1 busy
  simp [nextUpCell, linkFree, sending]

/-- With the link free the next cell is the reply, else a notice, else a stream cell, else a Fill cell. -/
theorem nextUpCell_free {s : State} (noReset : s.lp.resetDue = false) (free : s.lp.sending = none) :
    nextUpCell s = some (if s.lp.slot.isSome then .reply else if (firstPending s).isSome then .notice
      else if (streamReady s).isSome then .stream else .fill) := by
  unfold nextUpCell
  rw [if_neg (by simp [linkFree, free, noReset])]
  split_ifs <;> rfl

/-- The kind of cell that a send row begins. -/
def sendKind : Instr → Option UpKind
  | .sendReply => some .reply
  | .sendNotice => some .notice
  | .sendStreamCell => some .stream
  | .sendFill => some .fill
  | _ => none

/-- A send row whose cell is not the arbiter's choice changes nothing (assumption 3). -/
theorem exec_send_other {s : State} {i : Instr} {k : UpKind} (send : sendKind i = some k)
    (other : nextUpCell s ≠ some k) : exec i s = .next s := by
  cases i <;> cases send
  case sendReply => exact if_neg other
  case sendNotice => exact if_neg other
  case sendStreamCell => exact if_neg other
  case sendFill => exact congrArg Host.Outcome.next (if_neg other)

/-- With one kind of cell chosen, the three other sends do not occur. -/
theorem others_of_next {s : State} {k : UpKind} (next : nextUpCell s = some k) {is : List Instr}
    (others : ∀ i ∈ is, ∃ j, sendKind i = some j ∧ j ≠ k) : ∀ i ∈ is, exec i s = .next s := by
  intro i listed
  obtain ⟨j, send, apart⟩ := others i listed
  exact exec_send_other send (by rw [next]; simpa using Ne.symm apart)

theorem firstPending_none {s : State} (quiet : ∀ j : Fin 10, s.lp.notices[j].pending = false) :
    firstPending s = none := by
  unfold firstPending
  rw [List.find?_eq_none]
  intro j _
  rw [quiet j]
  exact Bool.false_ne_true

theorem takeReply_pods (b : ReplyBody) (s : State) (p : Fin 4) : (takeReply b s).pfe.pods[p] =
    if b = .status .device then { s.pfe.pods[p] with changed := false } else s.pfe.pods[p] := by
  unfold takeReply takeReport
  split
  · split
    · rw [if_pos rfl]
      match p with
      | 0 => rfl
      | 1 => rfl
      | 2 => rfl
      | 3 => rfl
    · next r other => rw [if_neg (by simpa using other)]
  · next other => rw [if_neg (by simpa using other .device)]

/-- Taking a report leaves all but the pods' Changed flags. -/
theorem takeReply_lp (b : ReplyBody) (s : State) : (takeReply b s).lp = s.lp := by
  unfold takeReply takeReport
  split
  · split <;> rfl
  · rfl

theorem takeReply_frame_exact (b : ReplyBody) (s : State) : ChangesOnly [.pods] s (takeReply b s) := by
  unfold takeReply takeReport
  split
  · split
    · intro p untouched
      cases p <;> first
        | rfl | exact ⟨rfl, rfl⟩ | exact ⟨rfl, rfl, rfl⟩ | exact fun _ => rfl | simp at untouched
    · exact .refl _ _
  · exact .refl _ _

/-- The cell that carries a reply. -/
def replyCell (s : State) (r : Reply) : UpCell :=
  { kind := .reply, tag := r.tag, code := outcomeByte r.body, payload := replyPayload s r.body, items := 0 }

theorem exec_sendReply {s : State} {r : Reply} (next : nextUpCell s = some .reply) (slot : s.lp.slot = some r) :
    exec .sendReply s = .next (startCell (replyCell s r) (takeReply r.body s)) := by
  show execSendReply s = _
  unfold execSendReply
  rw [if_pos next, slot]
  rfl

theorem exec_sendNotice {s : State} {i : Fin 10} (next : nextUpCell s = some .notice)
    (first : firstPending s = some i) : exec .sendNotice s = .next (sendNoticeOf i s) := by
  show execSendNotice s = _
  unfold execSendNotice
  rw [if_pos next, first]

theorem exec_sendStream {s : State} {r : Readout} {d : StreamCell} (next : nextUpCell s = some .stream)
    (ready : streamReady s = some (r, d)) : exec .sendStreamCell s = .next (startCell
      { kind := .stream, tag := r.tag, code := BitVec.ofNat 8 (itemKindCode r.kind)
        payload := leBytes 4 d.ordinal ++ d.data, items := d.items }
      { s with lp.readout := some { r with ready := none } }) := by
  show execSendStreamCell s = _
  unfold execSendStreamCell
  rw [if_pos next, ready]

/-! ### The bytes of a field (R185) -/

theorem leBytes_byteAt (k n i : Nat) (inside : i < k) : byteAt (leBytes k n) i = n / 256 ^ i % 256 := by
  induction k generalizing n i with
  | zero => omega
  | succ k ih =>
    cases i with
    | zero => simp [leBytes, byteAt]
    | succ i =>
      rw [Nat.pow_succ', ← Nat.div_div_eq_div_mul, ← ih (n / 256) i (by omega)]
      rfl

@[simp] theorem bytesAt_skip {j n a k : Nat} {rest : List Byte} (past : j ≤ a) :
    bytesAt (leBytes j n ++ rest) a k = bytesAt rest (a - j) k := by
  unfold bytesAt
  rw [List.drop_append, leBytes_length, List.drop_eq_nil_of_le (by simp [past]), List.nil_append]

@[simp] theorem bytesAt_head (k n : Nat) (rest : List Byte) :
    bytesAt (leBytes k n ++ rest) 0 k = leBytes k n := by
  unfold bytesAt
  rw [List.drop_zero, List.take_left' (leBytes_length k n)]

@[simp] theorem bytesAt_last (k n : Nat) : bytesAt (leBytes k n) 0 k = leBytes k n := by
  have h := bytesAt_head k n []
  rwa [List.append_nil] at h

theorem fin_mod_256 {n : Nat} (k : Fin n) (small : n ≤ 256) : k.val % 256 = k.val := by omega

/-- The segment, time and cause of a Triggered notice (R186). -/
theorem triggered_layout (n : Fin 32) (t : Time) (c : Cause) (b : List Byte)
    (hb : b = snapshotBytes (.triggered n t c)) : b.length = 8 ∧ byteAt b 0 = n ∧
      bytesAt b 1 6 = leBytes 6 t.toNat ∧ (∀ k : Fin 8, c = .stage k → byteAt b 7 = k) ∧
      (c = .forced → byteAt b 7 = 8) := by
  subst hb
  simp only [byteAt_eq_numAt, snapshotBytes]
  refine ⟨by simp, by simp [fin_mod_256], by simp, ?_, ?_⟩
  · rintro k rfl
    simp [causeCode, fin_mod_256]
  · rintro rfl
    simp [causeCode]

/-- The bytes of each other kind of snapshot. -/
theorem captureClosed_layout (n : Fin 32) (reason : EndReason) (count : Nat) (b : List Byte)
    (hb : b = snapshotBytes (.captureClosed n reason count)) :
    b.length = 6 ∧ byteAt b 0 = n ∧ bytesAt b 2 4 = leBytes 4 count ∧
      (reason, byteAt b 1) ∈ [(EndReason.postComplete, 0), (.memoryLimit, 1), (.stalled, 2), (.stopped, 3),
        (.reset, 4)] := by
  subst hb
  simp only [byteAt_eq_numAt, snapshotBytes]
  refine ⟨by simp, by simp [fin_mod_256], by simp, ?_⟩
  cases reason <;> simp [endReasonCode]

theorem redecodeDone_layout (n : Fin 32) (status : SymbolStatus) (count lost : Nat) (b : List Byte)
    (hb : b = snapshotBytes (.redecodeDone n status count lost)) :
    b.length = 10 ∧ byteAt b 0 = n ∧ bytesAt b 2 4 = leBytes 4 count ∧ bytesAt b 6 4 = leBytes 4 lost ∧
      (status, byteAt b 1) ∈ [(SymbolStatus.complete, 0), (.truncated, 1), (.redecoded, 2),
        (.redecodedTruncated, 3), (.incomplete, 4)] := by
  subst hb
  simp only [byteAt_eq_numAt, snapshotBytes]
  refine ⟨by simp, by simp [fin_mod_256], by simp, by simp, ?_⟩
  cases status <;> simp [symbolStatusCode]

theorem renderDone_layout (n : Fin 32) (outcome : RenderOutcome) (b : List Byte)
    (hb : b = snapshotBytes (.renderDone n outcome)) :
    b.length = 2 ∧ byteAt b 0 = n ∧
      (outcome, byteAt b 1) ∈ [(RenderOutcome.done, 0), (.noData, 1), (.overrun, 2), (.aborted, 3),
        (.annotationsOmitted, 4)] := by
  subst hb
  simp only [byteAt_eq_numAt, snapshotBytes]
  refine ⟨by simp, by simp [fin_mod_256], ?_⟩
  cases outcome <;> simp [outcomeCode]

theorem readoutDone_layout (n : Fin 32) (kind : ItemKind) (items : Nat) (complete : Bool) (b : List Byte)
    (hb : b = snapshotBytes (.readoutDone n kind items complete)) :
    b.length = 7 ∧ byteAt b 0 = n ∧ byteAt b 1 = (if kind = .records then 0 else 1) ∧
      bytesAt b 2 4 = leBytes 4 items ∧ byteAt b 6 = if complete then 0 else 1 := by
  subst hb
  simp only [byteAt_eq_numAt, snapshotBytes]
  refine ⟨by simp, by simp [fin_mod_256], ?_, by simp, ?_⟩
  · cases kind <;> simp [itemKindCode]
  · cases complete <;> simp [flag]

/-- Settles O45: the cell that the arbiter sends, its bytes, and the layouts of codes and snapshots. -/
theorem sendsFollowTheArbitersOrder : Obligations.SendsFollowTheArbitersOrder := by
  refine ⟨fun s noReset => ⟨?busy, fun free => ⟨?reply, ?notice, ?stream, ?fill⟩⟩, ?cells, ?codes,
    fun k n i => ⟨leBytes_length k n, leBytes_byteAt k n i⟩, ?snapshots⟩
  case busy =>
    intro busy i listed
    have none_next := nextUpCell_busy busy
    simp only [List.mem_cons, List.not_mem_nil, or_false] at listed
    rcases listed with rfl | rfl | rfl | rfl <;> exact exec_send_other rfl (by simp [none_next])
  case reply =>
    intro r slot
    have next : nextUpCell s = some .reply := by rw [nextUpCell_free noReset free, if_pos (by simp [slot])]
    refine ⟨others_of_next next (by simp [sendKind]), _, replyCell s r, exec_sendReply next slot, ?_, rfl, rfl, ?_, ?_, ?_,
      ?_, ?_, ?_, ?_⟩
    · rw [startCell_lp, takeReply_lp]
    · intro data body
      rw [replyCell, body]
      exact ⟨rfl, rfl⟩
    · intro q body
      rw [replyCell, body]
      exact ⟨rfl, rfl⟩
    · intro body
      rw [replyCell, body]
      exact ⟨rfl, rfl⟩
    · intro body
      rw [replyCell, body]
      exact ⟨rfl, rfl⟩
    · intro code index body
      rw [replyCell, body]
      exact ⟨rfl, rfl⟩
    · exact takeReply_pods r.body s
    · exact ((takeReply_frame_exact _ _).mono (by decide)).trans ((startCell_frame _ _).mono (by decide))
  case notice =>
    intro i slot pending first
    have found : firstPending s = some i := find?_lowest pending first
    have next : nextUpCell s = some .notice := by
      rw [nextUpCell_free noReset free, if_neg (by simp [slot]), if_pos (by simp [found])]
    refine ⟨others_of_next next (by simp [sendKind]), _, _, exec_sendNotice next found, rfl, rfl, rfl, ?_, ?_⟩
    · unfold noticePayload
      cases s.lp.notices[i].snapshot <;> rfl
    · exact (sendNoticeOf_frame i s).mono (by decide)
  case stream =>
    intro r d slot quiet readout ready
    have waits : streamReady s = some (r, d) := by simp [streamReady, readout, ready]
    have next : nextUpCell s = some .stream := by
      rw [nextUpCell_free noReset free, if_neg (by simp [slot]), if_neg (by simp [firstPending_none quiet]),
        if_pos (by simp [waits])]
    refine ⟨others_of_next next (by simp [sendKind]), _, exec_sendStream next waits, ?_, ?_⟩
    · cases r.kind <;> simp [itemKindCode]
    · exact ((update_readout s _).mono (by decide)).trans ((startCell_frame _ _).mono (by decide))
  case fill =>
    intro slot quiet idle
    have waits : streamReady s = none := by
      unfold streamReady
      split
      · next r readout => rw [idle r readout, Option.map_none]
      · rfl
    have next : nextUpCell s = some .fill := by
      rw [nextUpCell_free noReset free, if_neg (by simp [slot]), if_neg (by simp [firstPending_none quiet]),
        if_neg (by simp [waits])]
    exact ⟨others_of_next next (by simp [sendKind]), _, congrArg Host.Outcome.next (if_pos next), rfl,
      startCell_frame _ _⟩
  case cells =>
    intro c
    refine ⟨_, rfl, ?_, ?_, ?_, ?_⟩ <;> intro kind <;> rw [kind] <;> rfl
  case codes =>
    intro c i at_i
    obtain ⟨bound, rfl⟩ := List.getElem?_eq_some_iff.1 at_i
    simp only [List.length_cons, List.length_nil] at bound
    interval_cases i <;> rfl
  case snapshots =>
    rintro q b rfl
    refine ⟨?dropped, fun n t c h => triggered_layout n t c _ (h ▸ rfl),
      fun n r k h => captureClosed_layout n r k _ (h ▸ rfl), ?ended, ?lost, ?pod,
      fun n st k l h => redecodeDone_layout n st k l _ (h ▸ rfl), fun n o h => renderDone_layout n o _ (h ▸ rfl),
      fun n k i c h => readoutDone_layout n k i c _ (h ▸ rfl), ?activity, ?link⟩
    case dropped =>
      rintro tag count rfl
      exact ⟨by simp [snapshotBytes], rfl, bytesAt_last 4 count⟩
    case ended =>
      rintro done reason rfl
      simp only [byteAt_eq_numAt, snapshotBytes]
      refine ⟨by simp, by simp, ?_⟩
      cases reason <;> simp [sequenceEndCode]
    case lost =>
      rintro l rfl
      simp only [byteAt_eq_numAt, snapshotBytes]
      exact ⟨by simp, by simp [fin_mod_256]⟩
    case pod =>
      rintro pod present rfl
      simp only [byteAt_eq_numAt, snapshotBytes]
      refine ⟨by simp, by simp [fin_mod_256], ?_⟩
      cases present <;> simp [flag]
    case activity =>
      rintro k rfl
      simp only [byteAt_eq_numAt, snapshotBytes]
      exact ⟨by simp, by simp, by simp [fin_mod_256]⟩
    case link =>
      rintro rfl
      exact ⟨rfl, rfl, rfl⟩

end Sys2Proof.Machine
end

section
/-! SUPPORT. The commands WRITE: the checks of a WRITE as a whole (R167), the stores of single entries, and the
reply. -/

namespace Sys2Proof.Machine

section

variable {c : LinkCell} {rest : List LinkCell} {s : State}

/-! ### The checks of a WRITE as a whole (R167, R168) -/

/-- Each WRITE row stores the entries of its table in one way. -/
theorem exec_write_row (ready : Ready c rest s) (code : c.code = 1) (awake : s.pru.power ≠ .sleep) :
    ∃ store done, exec (commandRow c) s = .next (writeTable store done c (popped rest s)) := by
  obtain ⟨row, named⟩ : ∃ row, commandRow c = row := ⟨_, rfl⟩
  have written := (commandRow_write code).symm.trans named
  rw [named]
  unfold writeRow at written
  split at written
  · subst written
    exact ⟨_, _, dispatch_owner ready named rfl (absurd · awake)⟩
  · split at written
    all_goals
      subst written
      exact ⟨_, _, dispatch_owner ready named rfl (absurd · awake)⟩

theorem writeTable_refused {store : EntryStore} {done : LinkCell → State → State} {t : State}
    {r : RefusalCode × Nat} (refused : wholeRefusal c t = some r) :
    writeTable store done c t = refuseAt c.tag r t := by
  unfold writeTable
  rw [refused]

theorem wholeRefusal_popped : wholeRefusal c (popped rest s) = wholeRefusal c s := by
  rw [popped_eq]
  rfl

theorem refuses_of_whole (ready : Ready c rest s) (code : c.code = 1) (awake : s.pru.power ≠ .sleep)
    {refusal : RefusalCode} {index : Nat} (refused : wholeRefusal c s = some (refusal, index)) :
    refuses (commandRow c) c rest refusal (BitVec.ofNat 8 index) s := by
  obtain ⟨store, done, row⟩ := exec_write_row ready code awake
  refine refuses_of_exec (row.trans (congrArg Host.Outcome.next ?_))
  exact writeTable_refused (wholeRefusal_popped.trans refused)

theorem acquisitionFree_iff (s : State) : acquisitionFree s = true ↔ s.ce.engine = .idle ∧ s.redecode = none := by
  simp [acquisitionFree, engineIdle]

end

/-- Settles O51: the checks of a WRITE before its entries, in their order. -/
theorem writeIsCheckedBeforeItsEntries : Obligations.WriteIsCheckedBeforeItsEntries := by
  intro c rest s ready code awake
  refine ⟨fun short => refuses_of_whole ready code awake (if_pos short), ?_⟩
  rintro table first bytes size entries free payload rfl rfl free_iff
  have at0 : byteAt c.payload 0 = table.toNat := by rw [payload]; rfl
  have at1 : byteAt c.payload 1 = first.toNat := by rw [payload]; rfl
  have length : c.payload.length - 2 = bytes.length := by rw [payload]; rfl
  have long : ¬c.payload.length < 2 := by rw [payload]; simp
  have free_acquisition : ¬free → acquisitionFree s = false := by
    rw [free_iff, ← acquisitionFree_iff]
    simp
  have first_byte : BitVec.ofNat 8 first.toNat = first := by simp
  have whole : wholeRefusal c s =
      if 16 < table.toNat then some (.badTable, 0)
      else if bytes.length % entrySize table.toNat ≠ 0 then some (.badLength, 0)
      else if tableEntries table.toNat ≤ first.toNat ∨
          tableEntries table.toNat < first.toNat + bytes.length / entrySize table.toNat then some (.badIndex, 0)
      else if !writable s table.toNat then some (.busy, first.toNat) else none := by
    unfold wholeRefusal
    rw [at0, at1, length]
    exact if_neg long
  have refuse : ∀ {refusal index}, wholeRefusal c s = some (refusal, index) →
      refuses (commandRow c) c rest refusal (BitVec.ofNat 8 index) s := refuses_of_whole ready code awake
  refine ⟨fun above => refuse (whole.trans (if_pos above)), fun known => ⟨fun part => ?_, fun entire => ⟨fun past => ?_,
    fun inside fits => ?_⟩⟩⟩
  · exact refuse (whole.trans ((if_neg (by omega)).trans (if_pos part)))
  · exact refuse (whole.trans ((if_neg (by omega)).trans ((if_neg (not_not.2 entire)).trans (if_pos past))))
  · have locked : writable s table.toNat = false → refuses (commandRow c) c rest .busy first s := by
      intro locked
      have busy := refuse (whole.trans ((if_neg (by omega)).trans ((if_neg (not_not.2 entire)).trans
        ((if_neg (not_or.2 ⟨Nat.not_le.2 inside, Nat.not_lt.2 fits⟩)).trans (if_pos (by simp [locked]))))))
      rwa [first_byte] at busy
    refine ⟨fun acquisition busy => locked ?_, fun regions busy => locked ?_, fun setA active => locked ?_,
      fun setB active => locked ?_, fun shown drawing => locked ?_⟩
    · have none_free := free_acquisition busy
      simp only [List.mem_cons, List.not_mem_nil, or_false] at acquisition
      rcases acquisition with h | h | h | h | h | h | h | h <;> rw [h] <;> exact none_free
    · rw [regions]
      show (acquisitionFree s && s.re.job == .idle && !readoutRuns s) = false
      rcases busy with busy | job | reads
      · simp [free_acquisition busy]
      · simp [job]
      · simp [readoutRuns, reads]
    · rw [setA]
      simp [writable, active]
    · rw [setB]
      simp [writable, active]
    · rcases shown with h | h <;> rw [h] <;> simp [writable, drawing]

/-! ### A WRITE of one entry (R167) -/

/-- A WRITE of one entry of a table whose write condition holds: its table, its index and its bytes. -/
structure OneEntry (c : LinkCell) (s : State) (table : Byte) (k : Nat) (e : List Byte) : Prop where
  payload : c.payload = table :: BitVec.ofNat 8 k :: e
  known : table.toNat ≤ 16
  index : k < tableEntries table.toNat
  bytes : e.length = entrySize table.toNat
  free : writable s table.toNat = true

section

variable {c : LinkCell} {rest : List LinkCell} {s t : State} {table : Byte} {k : Nat} {e : List Byte}

theorem entrySize_pos {n : Nat} : 0 < entrySize n := by
  by_cases known : n ≤ 16
  · interval_cases n <;> decide
  · rw [show entrySize n = 1 from List.getD_eq_default _ _ (Nat.not_le.1 known)]
    exact Nat.one_pos

theorem tableEntries_le (n : Nat) : tableEntries n ≤ 256 := by
  by_cases known : n ≤ 16
  · interval_cases n <;> decide
  · rw [show tableEntries n = 0 from List.getD_eq_default _ _ (Nat.not_le.1 known)]
    exact Nat.zero_le _

theorem OneEntry.whole (one : OneEntry c s table k e) : wholeRefusal c s = none ∧ byteAt c.payload 0 = table.toNat ∧
    byteAt c.payload 1 = k ∧ (c.payload.length - 2) / entrySize table.toNat = 1 ∧ c.payload.drop 2 = e := by
  obtain ⟨payload, known, index, bytes, free⟩ := one
  have small := tableEntries_le table.toNat
  have at0 : byteAt c.payload 0 = table.toNat := by rw [payload]; rfl
  have at1 : byteAt c.payload 1 = k := by
    rw [payload]
    exact (BitVec.toNat_ofNat k 8).trans (Nat.mod_eq_of_lt (by omega))
  have length : c.payload.length - 2 = entrySize table.toNat := by rw [payload, ← bytes]; rfl
  have long : ¬c.payload.length < 2 := by rw [payload]; simp
  have part : entrySize table.toNat / entrySize table.toNat = 1 := Nat.div_self entrySize_pos
  refine ⟨?_, at0, at1, by rw [length, part], by rw [payload]; rfl⟩
  unfold wholeRefusal
  dsimp only
  rw [at0, at1, length, part, if_neg long]
  rw [if_neg (by omega), if_neg (by simp), if_neg (by omega), if_neg (by simp [free])]

theorem storeEntries_one {store : EntryStore} {size : Nat} (whole : e.length = size) :
    storeEntries store size 1 k e t = match store k e t with
      | .inl code => (t, some (code, k))
      | .inr u => (u, none) := by
  rw [storeEntries, List.take_of_length_le (Nat.le_of_eq whole)]
  cases store k e t <;> rfl

theorem writeTable_one_stored {store : EntryStore} {done : LinkCell → State → State} {u : State}
    (one : OneEntry c t table k e) (stores : store k e t = .inr u) : writeTable store done c t = done c u := by
  obtain ⟨whole, at0, at1, single, rest_bytes⟩ := one.whole
  have step : storeEntries store (entrySize table.toNat) 1 k e t = (u, none) := by
    rw [storeEntries_one one.bytes, stores]
  unfold writeTable
  rw [whole]
  dsimp only
  rw [at0, at1, single, rest_bytes, step]

theorem writeTable_one_refused {store : EntryStore} {done : LinkCell → State → State} {code : RefusalCode}
    (one : OneEntry c t table k e) (refused : store k e t = .inl code) :
    writeTable store done c t = refuseAt c.tag (code, k) t := by
  obtain ⟨whole, at0, at1, single, rest_bytes⟩ := one.whole
  have step : storeEntries store (entrySize table.toNat) 1 k e t = (t, some (code, k)) := by
    rw [storeEntries_one one.bytes, refused]
  unfold writeTable
  rw [whole]
  dsimp only
  rw [at0, at1, single, rest_bytes, step]

theorem writable_popped (n : Nat) : writable (popped rest s) n = writable s n := by
  rw [popped_eq]
  rfl

theorem OneEntry.popped (one : OneEntry c s table k e) : OneEntry c (popped rest s) table k e :=
  { one with free := (writable_popped _).trans one.free }

/-- The row of a WRITE of a table, with the way the table's entries are stored. -/
theorem exec_write_entry {row : Instr} {store : EntryStore} {done : LinkCell → State → State}
    (ready : Ready c rest s) (awake : s.pru.power ≠ .sleep) (named : commandRow c = row)
    (rowed : exec row s = dispatch row none false s (writeTable store done)) (one : OneEntry c s table k e) :
    (∀ u, store k e (popped rest s) = .inr u → exec row s = .next (done c u)) ∧
      (∀ code, store k e (popped rest s) = .inl code → refuses row c rest code (BitVec.ofNat 8 k) s) := by
  have owned : exec row s = .next (writeTable store done c (Machine.popped rest s)) :=
    rowed.trans (dispatch_owner ready named rfl (absurd · awake))
  refine ⟨fun u stores => ?_, fun code refused => ?_⟩
  · rw [owned, writeTable_one_stored one.popped stores]
  · refine refuses_of_exec (owned.trans ?_)
    rw [writeTable_one_refused one.popped refused]
    rfl

end

end Sys2Proof.Machine
end

section
/-! SUPPORT. The WRITEs that act at once, that move the frame buffers, and that plan segments (R1, R15, R46, R50,
R153, R158, R177). -/

namespace Sys2Proof.Machine

/-! ### Signed fields (R185) -/

theorem leNat_lt (bs : List Byte) : leNat bs < 256 ^ bs.length := by
  induction bs with
  | nil => exact Nat.one_pos
  | cons b bs ih =>
    have byte : b.toNat < 256 := b.isLt
    rw [leNat, List.length_cons, Nat.pow_succ]
    omega

/-- A signed field is the two's complement of its bytes. -/
theorem leInt_eq_toInt {bs : List Byte} {w : Nat} (width : w = 8 * bs.length) :
    leInt bs = (BitVec.ofNat w (leNat bs)).toInt := by
  have bound := leNat_lt bs
  have size : 256 ^ bs.length = 2 ^ w := by rw [width, Nat.pow_mul]
  rw [size] at bound
  rw [leInt, BitVec.toInt_eq_toNat_cond, BitVec.toNat_ofNat, Nat.mod_eq_of_lt bound, size]

theorem bytesAt_length {bs : List Byte} {a n : Nat} (inside : a + n ≤ bs.length) : (bytesAt bs a n).length = n := by
  rw [bytesAt, List.length_take, List.length_drop]
  omega

/-! ### What a WRITE that is stored leaves -/

section

variable {c : LinkCell} {rest : List LinkCell} {s : State}

theorem write_done {u : State} {parts : List Part} (other : .queue ∉ parts)
    (stored : ChangesOnly parts (popped rest s) u) : answered c rest (.done []) (writeDone c u) ∧
      ChangesOnly (withDispatch parts) s (writeDone c u) := by
  have queue : u.lp.queue = rest := (stored .queue other).trans (by rw [popped_lp])
  refine ⟨⟨queue, rfl⟩, ?_⟩
  refine ((popped_frame rest s).mono ?_).trans ((stored.mono ?_).trans ((putReply_frame _ _ _).mono ?_))
  · intro p
    simp only [withDispatch, dispatchParts, List.mem_append, List.mem_cons, List.not_mem_nil, or_false]
    tauto
  · exact fun p listed => List.mem_append_left _ listed
  · intro p
    simp only [withDispatch, dispatchParts, List.mem_append, List.mem_cons, List.not_mem_nil, or_false]
    tauto

theorem fin_ofNat_val {n : Nat} [NeZero n] (i : Fin n) : Fin.ofNat n i.val = i :=
  Fin.ext (Nat.mod_eq_of_lt i.isLt)

theorem byte_val {n k : Nat} (inside : k < n) (small : n ≤ 256) : (BitVec.ofNat 8 k).toNat = k :=
  (BitVec.toNat_ofNat k 8).trans (Nat.mod_eq_of_lt (by omega))

theorem commandRow_of_payload (code : c.code = 1) {table : Byte} {k : Nat} {e : List Byte} {row : Instr}
    (payload : c.payload = table :: BitVec.ofNat 8 k :: e) (named : writeRow (table :: BitVec.ofNat 8 k :: e) = row) :
    commandRow c = row := by
  rw [commandRow_write code, payload, named]

/-! ### Pods, the generator, cursors, power and notices -/

theorem storePod_output (i : Fin 4) (e : List Byte) (t : State) (k : Fin 32) :
    (decidePod false i { t.pfe with table := t.pfe.table.set i (readPod e) }).outputs.getLsbD k =
      if podOf k ≠ i then t.pfe.outputs.getLsbD k
      else if 2 * (readPod e).threshold + (readPod e).hysteresis < t.pfe.inputs[k] then true
      else if t.pfe.inputs[k] ≤ 2 * (readPod e).threshold - (readPod e).hysteresis then false
      else t.pfe.outputs.getLsbD k := by
  rw [decidePod_output]
  by_cases here : podOf k = i
  · rw [if_pos here, if_neg (not_not.2 here)]
    unfold decided
    rw [if_neg Bool.false_ne_true]
    dsimp only
    rw [set_getElem, if_pos here]
    rfl
  · rw [if_neg here, if_pos here]

/-- A WRITE of one pod entry (R1, R2, R3). -/
theorem writePods_one {e : List Byte} (ready : Ready c rest s) (code : c.code = 1) (awake : s.pru.power ≠ .sleep)
    (i : Fin 4) (payload : c.payload = 1 :: BitVec.ofNat 8 i :: e) (four : e.length = 4)
    (free : writable s 1 = true) :
    exec .writePods s = .next (writeDone c { popped rest s with
      pfe := decidePod false i { s.pfe with table := s.pfe.table.set i (readPod e) } }) := by
  have one : OneEntry c s 1 i e := ⟨payload, by decide, i.isLt, four, free⟩
  refine (exec_write_entry ready awake (commandRow_of_payload code payload rfl) rfl one).1 _ ?_
  simp only [storePod, fin_ofNat_val, popped_pfe]

theorem readPod_threshold {e : List Byte} {mv : Int} (four : e.length = 4)
    (hmv : mv = (BitVec.ofNat 16 (numAt e 0 2)).toInt) :
    (readPod e).threshold = (max (-5000) (min 5000 mv)).tdiv 10 * 10 := by
  have length : (bytesAt e 0 2).length = 2 := bytesAt_length (by omega)
  rw [hmv]
  exact congrArg storedThreshold (leInt_eq_toInt (by rw [length]))

/-- A generator mode is its code's, and no other code has one (R15). -/
theorem toGenMode_code (k : Nat) : (3 < k → toGenMode k = none) ∧
    ∀ m ∈ [(0, GenMode.off), (1, .square), (2, .burst), (3, .burstOnTrigger)], k = m.1 → toGenMode k = some m.2 := by
  refine ⟨fun above => ?_, ?_⟩
  · unfold toGenMode
    rw [if_neg (by omega), if_neg (by omega), if_neg (by omega), if_neg (by omega)]
  · simp only [List.mem_cons, List.not_mem_nil, or_false, forall_eq_or_imp, forall_eq]
    exact ⟨fun h => h ▸ rfl, fun h => h ▸ rfl, fun h => h ▸ rfl, fun h => h ▸ rfl⟩

theorem writeGenerator_one {e : List Byte} (ready : Ready c rest s) (code : c.code = 1)
    (awake : s.pru.power ≠ .sleep) (i : Fin 2) (payload : c.payload = 2 :: BitVec.ofNat 8 i :: e)
    (eight : e.length = 8) :
    (∀ v, readGen e = some v → exec .writeGenerator s = .next (writeDone c { popped rest s with
      gen := restartOutput i { s.gen with table := s.gen.table.set i v } })) ∧
    (readGen e = none → refuses .writeGenerator c rest .badValue (BitVec.ofNat 8 i) s) := by
  have one : OneEntry c s 2 i e := ⟨payload, by decide, i.isLt, eight, rfl⟩
  obtain ⟨stored, refused⟩ := exec_write_entry ready awake (commandRow_of_payload code payload rfl) rfl one
  refine ⟨fun v read => stored _ ?_, fun none_read => refused _ ?_⟩
  · simp only [storeGen, read, storeRead, fin_ofNat_val, popped_gen]
  · simp only [storeGen, none_read, storeRead]

end

/-- What a restart in an entry's mode sets (R15). -/
theorem restartOutput_effect (i : Fin 2) (v : GenEntry) (g : Gen) :
    (restartOutput i { g with table := g.table.set i v }).outputs[i] = restartedOutput v ∧
      (∀ j : Fin 2, j ≠ i → (restartOutput i { g with table := g.table.set i v }).outputs[j] = g.outputs[j]) ∧
      (restartOutput i { g with table := g.table.set i v }).loopCounter =
        if i = 0 ∧ g.outputs[i].level = false ∧
            (restartOutput i { g with table := g.table.set i v }).outputs[i].level = true then g.loopCounter + 1
        else g.loopCounter := by
  have entry : (g.table.set i v)[i] = v := (set_getElem _ _ _ _).trans (if_pos rfl)
  refine ⟨?_, fun j other => setOutput_other other _ _, ?_⟩
  · refine (setOutput_self i _ _).trans ?_
    dsimp only
    rw [entry]
  · unfold restartOutput
    exact (setOutput_loopCounter _ _ _).trans (if_congr (by rw [setOutput_self]) rfl rfl)

theorem readGen_of_mode {e : List Byte} {m : GenMode} (mode : toGenMode (byteAt e 0) = some m) :
    readGen e = some { mode := m, half := max 1 (min 16777216 (numAt e 4 4)), burst := max 1 (numAt e 2 2) } := by
  rw [readGen, mode]
  rfl

/-- A cursor's offset: its six bytes as a signed number, at most so far before the trigger (R158). -/
theorem readCursor_eq {e : List Byte} (eight : e.length = 8) : readCursor e = {
    enabled := (e.getD 0 0).getLsbD 0, colour := e.getD 1 0
    offset := max (-140737488355327) (BitVec.ofNat 48 (numAt e 2 6)).toInt } := by
  have length : (bytesAt e 2 6).length = 6 := bytesAt_length (by omega)
  have value : leInt (bytesAt e 2 6) = (BitVec.ofNat 48 (numAt e 2 6)).toInt := leInt_eq_toInt (by rw [length])
  have bound : (BitVec.ofNat 48 (numAt e 2 6)).toInt ≤ 140737488355327 := by
    have := BitVec.toInt_lt (x := BitVec.ofNat 48 (numAt e 2 6))
    omega
  rw [readCursor, value, clampInt, maxOffset, min_eq_right bound]
  rfl

section

variable {c : LinkCell} {rest : List LinkCell} {s : State}

theorem writeCursors_one {e : List Byte} (ready : Ready c rest s) (code : c.code = 1)
    (awake : s.pru.power ≠ .sleep) {k : Nat} (inside : k < 3) (payload : c.payload = 12 :: BitVec.ofNat 8 k :: e)
    (eight : e.length = 8) : exec .writeCursors s = .next (writeDone c { popped rest s with
      su.cursors := setCursor k e s.su.cursors
      re.stale := s.re.stale || (decide (k < 2) && s.re.segment.isSome) }) := by
  have one : OneEntry c s 12 k e := ⟨payload, by decide, inside, eight, rfl⟩
  refine (exec_write_entry ready awake (commandRow_of_payload code payload rfl) rfl one).1 _ ?_
  simp only [storeCursor, popped_su, popped_re]

theorem writePower_one {e : List Byte} (ready : Ready c rest s) (code : c.code = 1)
    (awake : s.pru.power ≠ .sleep) (payload : c.payload = 16 :: 0 :: e) (eight : e.length = 8) :
    exec .writePowerAndNotice s =
      .next (writeDone c (restartIdle { popped rest s with pru.table := readPower e })) := by
  have one : OneEntry c s 16 0 e := ⟨payload, by decide, by decide, eight, rfl⟩
  exact (exec_write_entry ready awake (commandRow_of_payload (k := 0) code payload rfl) rfl one).1 _ rfl

end

/-- Settles O53: a WRITE of one pod, generator, cursor or power entry. -/
theorem writesThatActAtOnce : Obligations.WritesThatActAtOnce := by
  intro c rest s e ready code awake
  refine ⟨?pods, ?generator, ?cursors, ?power⟩
  case pods =>
    intro i mv payload four idle free hmv
    have writable : writable s 1 = true := (acquisitionFree_iff s).2 ⟨idle, free⟩
    have frame : ChangesOnly [.podTable, .outputs] (popped rest s) { popped rest s with
        pfe := decidePod false i { s.pfe with table := s.pfe.table.set i (readPod e) } } := by
      refine storePod_frame i e _ _ ?_
      simp only [storePod, fin_ofNat_val, popped_pfe]
    obtain ⟨answer, frame⟩ := write_done (c := c) (by decide) frame
    refine ⟨_, readPod e, writePods_one ready code awake i payload four writable, answer, ?_,
      (decidePod_keeps _ _ _).1, storePod_output i e s, frame⟩
    rw [← readPod_threshold four hmv]
    rfl
  case generator =>
    intro i payload eight
    obtain ⟨stored, refused⟩ := writeGenerator_one ready code awake i payload eight
    obtain ⟨no_mode, modes⟩ := toGenMode_code (byteAt e 0)
    refine ⟨fun above => refused (by rw [readGen, no_mode above]; rfl), fun known => ?_⟩
    obtain ⟨m, named, coded⟩ : ∃ m, toGenMode (byteAt e 0) = some m ∧
        (byteAt e 0, m) ∈ [(0, GenMode.off), (1, .square), (2, .burst), (3, .burstOnTrigger)] := by
      interval_cases code : byteAt e 0
      · exact ⟨_, rfl, by simp⟩
      · exact ⟨_, rfl, by simp⟩
      · exact ⟨_, rfl, by simp⟩
      · exact ⟨_, rfl, by simp⟩
    have read := readGen_of_mode named
    obtain ⟨output, others, counter⟩ := restartOutput_effect i
      { mode := m, half := max 1 (min 16777216 (numAt e 4 4)), burst := max 1 (numAt e 2 2) } s.gen
    have frame : ChangesOnly [.genTable, .genOutputs, .loopCounter] (popped rest s) { popped rest s with
        gen := restartOutput i { s.gen with table := s.gen.table.set i {
          mode := m, half := max 1 (min 16777216 (numAt e 4 4)), burst := max 1 (numAt e 2 2) } } } := by
      refine storeGen_frame i e (popped rest s) _ ?_
      simp only [storeGen, read, storeRead, fin_ofNat_val, popped_gen]
    obtain ⟨answer, frame⟩ := write_done (c := c) (by decide) frame
    refine ⟨_, _, stored _ read, answer, rfl, rfl, rfl, ?_, others, ?_, frame⟩
    · rintro o rfl
      dsimp only [writeDone, putReply_gen]
      rw [output]
      simp only [List.mem_cons, Prod.mk.injEq, List.not_mem_nil, or_false] at coded
      rcases coded with ⟨code, rfl⟩ | ⟨code, rfl⟩ | ⟨code, rfl⟩ | ⟨code, rfl⟩ <;>
        simp [code, restartedOutput, heldOutput]
    · exact counter
  case cursors =>
    intro k inside payload eight
    have frame : ChangesOnly [.cursors, .su, .re] (popped rest s) { popped rest s with
        su.cursors := setCursor k e s.su.cursors
        re.stale := s.re.stale || (decide (k < 2) && s.re.segment.isSome) } := by
      refine storeCursor_frame k e (popped rest s) _ ?_
      simp only [storeCursor, popped_su, popped_re]
    obtain ⟨answer, frame⟩ := write_done (c := c) (by decide) frame
    refine ⟨_, writeCursors_one ready code awake inside payload eight, answer, ?_, ?_, frame⟩
    · rintro u rfl
      rw [← readCursor_eq eight]
      refine ⟨?_, ?_, ?_⟩ <;> rintro rfl <;> simp only [writeDone, putReply_su, popped_su, setCursor]
    · simp only [writeDone, putReply_re, popped_re]
      by_cases low : k < 2 <;> simp [low]
  case power =>
    intro payload eight
    have frame := storePower_frame 0 e (popped rest s) _ rfl
    obtain ⟨answer, frame⟩ := write_done (c := c) (by decide) frame
    refine ⟨_, writePower_one ready code awake payload eight, answer, ?_, ?_, frame.mono (by decide)⟩
    · rw [restartIdle_eq]
      rfl
    · intro running
      rw [restartIdle_eq]
      simp only [writeDone, putReply_pru, popped_pru, popped_time, running, if_true]

end Sys2Proof.Machine
end

section
/-! SUPPORT. The WRITEs of regions, panel and segment plan (R46, R50, R153). -/

namespace Sys2Proof.Machine

section

variable {c : LinkCell} {rest : List LinkCell} {s : State} {e : List Byte}

/-! ### Regions (R46, R47) -/

/-- What a WRITE of the region entry does. -/
theorem writeRegions_one (ready : Ready c rest s) (code : c.code = 1) (awake : s.pru.power ≠ .sleep)
    (payload : c.payload = 3 :: 0 :: e) (four : e.length = 4) (free : writable s 3 = true) :
    (regionRefusal (readRegions e) s = none → exec .writeRegions s =
      .next (fillReply (fun t => t.mp.fill.isSome) c (moveRegions (readRegions e) (popped rest s)))) ∧
    (∀ refusal, regionRefusal (readRegions e) s = some refusal →
      refuses .writeRegions c rest refusal 0 s) := by
  have one : OneEntry c s 3 0 e := ⟨payload, by decide, by decide, four, free⟩
  have same : regionRefusal (readRegions e) (popped rest s) = regionRefusal (readRegions e) s := by
    rw [popped_eq]
    rfl
  obtain ⟨stored, refused⟩ :=
    exec_write_entry ready awake (commandRow_of_payload (k := 0) code payload rfl) rfl one
  refine ⟨fun passes => stored _ ?_, fun refusal fails => refused _ ?_⟩
  · rw [storeRegions, same, passes]
  · rw [storeRegions, same, fails]

/-- Check 3 of R46: a planned segment has a span outside its region. -/
theorem spansOutside_iff (r : Regions) : s.plan.toList.any (fun p => p.planned && !spansWithin r p) = true ↔
    ∃ n : Fin 32, s.plan[n].planned = true ∧
      (r.captureEnd < s.plan[n].captureFirst + s.plan[n].captureCount ∨ s.plan[n].symbolCount ≠ 0 ∧
        (s.plan[n].symbolFirst < r.captureEnd ∨
          r.symbolEnd < s.plan[n].symbolFirst + s.plan[n].symbolCount)) := by
  have outside : ∀ p : PlanEntry, spansWithin r p = false ↔
      (r.captureEnd < p.captureFirst + p.captureCount ∨ p.symbolCount ≠ 0 ∧
        (p.symbolFirst < r.captureEnd ∨ r.symbolEnd < p.symbolFirst + p.symbolCount)) := by
    intro p
    rw [← Bool.not_eq_true, spansWithin_iff]
    omega
  simp only [List.any_eq_true, Vector.mem_toList_iff, Vector.mem_iff_getElem, Bool.and_eq_true, Bool.not_eq_true']
  constructor
  · rintro ⟨_, ⟨i, hi, rfl⟩, planned, within⟩
    exact ⟨⟨i, hi⟩, planned, (outside _).1 within⟩
  · rintro ⟨n, planned, within⟩
    exact ⟨_, ⟨n.val, n.isLt, rfl⟩, planned, (outside _).2 within⟩

theorem framesFit_eq_false_iff (symbolEnd width height : Nat) : framesFit s symbolEnd width height = false ↔
    totalBlocks s.mp.size - symbolEnd < 2 * ((width * height + 65535) / 65536) := by
  rw [← Bool.not_eq_true, framesFit_iff, Nat.not_le]
  rfl

theorem writeRegions_effect (r : Regions) (idle : s.mp.fill = none) (slot : s.lp.slot = none) :
    ∃ t, fillReply (fun t => t.mp.fill.isSome) c (moveRegions r (popped rest s)) = t ∧ t.lp.queue = rest ∧
      t.mp.regions = r ∧
      (r.symbolEnd = s.mp.regions.symbolEnd → answered c rest (.done []) t ∧
        ChangesOnly (withDispatch [.regions]) s t) ∧
      (r.symbolEnd ≠ s.mp.regions.symbolEnd → t.lp.slot = none ∧ t.lp.inProgress = some (.fill c.tag) ∧
        t.mp.fill = some {
          kind := .region, next := r.symbolEnd
          left := 2 * ((s.su.panel.width * s.su.panel.height + 65535) / 65536) } ∧
        ChangesOnly (withDispatch [.regions, .fill, .inProgress]) s t) := by
  have start := popped_frame rest s
  by_cases same : r.symbolEnd = s.mp.regions.symbolEnd
  · have moved : moveRegions r (popped rest s) = { popped rest s with mp.regions := r } := by
      unfold moveRegions
      exact if_pos (by rw [popped_mp]; exact same)
    have replied : fillReply (fun t => t.mp.fill.isSome) c { popped rest s with mp.regions := r } =
        writeDone c { popped rest s with mp.regions := r } := by
      unfold fillReply
      exact if_neg (by simp [idle])
    have frame : ChangesOnly [.regions] (popped rest s) { popped rest s with mp.regions := r } := by
      intro p untouched
      cases p <;> first
        | rfl | exact ⟨rfl, rfl⟩ | exact ⟨rfl, rfl, rfl⟩ | exact fun _ => rfl | simp at untouched
    obtain ⟨answer, frame⟩ := write_done (c := c) (by decide) frame
    rw [moved, replied]
    exact ⟨_, rfl, answer.1, rfl, fun _ => ⟨answer, frame⟩, fun moves => absurd same moves⟩
  · have moved : moveRegions r (popped rest s) = { popped rest s with
        mp := { s.mp with
          regions := r
          fill := some {
            kind := .region, next := r.symbolEnd
            left := 2 * ((s.su.panel.width * s.su.panel.height + 65535) / 65536) } } } := by
      unfold moveRegions
      refine (if_neg (by rw [popped_mp]; exact same)).trans ?_
      simp only [fillBoth, popped_mp, popped_su, bufferBlocks]
    rw [moved]
    refine ⟨_, rfl, ?_, ?_, fun stays => absurd stays same, fun _ => ⟨?_, rfl, rfl, ?_⟩⟩
    · simp [fillReply]
    · simp [fillReply]
    · simp [fillReply, slot]
    · refine (start.mono (by decide)).trans ?_
      intro p untouched
      cases p <;> first
        | rfl | exact ⟨rfl, rfl⟩ | exact ⟨rfl, rfl, rfl⟩ | exact fun _ => rfl
        | exact absurd (by decide) untouched | simp [Part.same, fillReply]

/-! ### The panel (R152, R153) -/

theorem resizes_iff (p : Panel) (s : State) :
    resizes p s = true ↔ p.width ≠ s.su.panel.width ∨ p.height ≠ s.su.panel.height := by
  simp [resizes]

theorem writePanel_one (ready : Ready c rest s) (code : c.code = 1) (awake : s.pru.power ≠ .sleep)
    (payload : c.payload = 15 :: 0 :: e) (sixteen : e.length = 16) (free : writable s 15 = true) :
    (readPanel e = none → refuses .writePanel c rest .badValue 0 s) ∧
    (∀ p, readPanel e = some p →
      (panelRefusal p s = none → exec .writePanel s =
        .next (fillReply (fun t => t.su.resizing) c (setPanel p (popped rest s)))) ∧
      (∀ refusal, panelRefusal p s = some refusal → refuses .writePanel c rest refusal 0 s)) := by
  have one : OneEntry c s 15 0 e := ⟨payload, by decide, by decide, sixteen, free⟩
  have same : ∀ p, panelRefusal p (popped rest s) = panelRefusal p s := by
    intro p
    rw [popped_eq]
    rfl
  obtain ⟨stored, refused⟩ :=
    exec_write_entry ready awake (commandRow_of_payload (k := 0) code payload rfl) rfl one
  refine ⟨fun unread => refused _ ?_, fun p read => ⟨fun passes => stored _ ?_, fun refusal fails => refused _ ?_⟩⟩
  · rw [storePanel, unread]
  · rw [storePanel, read]
    dsimp only
    rw [same, passes]
  · rw [storePanel, read]
    dsimp only
    rw [same, fails]

theorem setPanel_effect (p : Panel) (settled : s.su.resizing = false) (slot : s.lp.slot = none) :
    ∃ t, fillReply (fun t => t.su.resizing) c (setPanel p (popped rest s)) = t ∧ t.lp.queue = rest ∧
      t.su.panel = p ∧
      (resizes p s = false → answered c rest (.done []) t ∧ t.su = { s.su with panel := p } ∧
        ChangesOnly (withDispatch [.panel, .su]) s t) ∧
      (resizes p s = true → t.lp.slot = none ∧ t.lp.inProgress = some (.fill c.tag) ∧
        t.su = { s.su with panel := p, resizing := true } ∧
        ChangesOnly (withDispatch [.panel, .su, .inProgress]) s t) := by
  have start := popped_frame rest s
  have su : (setPanel p (popped rest s)).su = { s.su with panel := p, resizing := resizes p s } := by
    rw [setPanel_su, popped_su, settled, Bool.false_or]
    rw [popped_eq]
    rfl
  have frame : ChangesOnly [.panel, .su] (popped rest s) (setPanel p (popped rest s)) := by
    intro p untouched
    cases p <;> first
      | rfl | exact ⟨rfl, rfl⟩ | exact ⟨rfl, rfl, rfl⟩ | exact fun _ => rfl | simp at untouched
  cases resized : resizes p s with
  | false =>
    have replied : fillReply (fun t => t.su.resizing) c (setPanel p (popped rest s)) =
        writeDone c (setPanel p (popped rest s)) := by
      unfold fillReply
      exact if_neg (by dsimp only; rw [su, resized]; exact Bool.false_ne_true)
    obtain ⟨answer, frame⟩ := write_done (c := c) (by decide) frame
    rw [replied]
    refine ⟨_, rfl, answer.1, ?_, fun _ => ⟨answer, ?_, frame⟩, fun resizes => (nomatch resizes)⟩
    · rw [writeDone, putReply_su, su]
    · rw [writeDone, putReply_su, su, resized, ← settled]
  | true =>
    have replied : fillReply (fun t => t.su.resizing) c (setPanel p (popped rest s)) =
        { setPanel p (popped rest s) with lp.inProgress := some (.fill c.tag) } := by
      unfold fillReply
      exact if_pos (by dsimp only; rw [su, resized])
    rw [replied]
    refine ⟨_, rfl, ?_, ?_, fun resizes => (nomatch resizes), fun _ => ⟨?_, rfl, ?_, ?_⟩⟩
    · simp only [setPanel_lp, popped_lp]
    · exact congrArg Su.panel su
    · simp only [setPanel_lp, popped_lp, slot]
    · rw [← resized]
      exact su
    · exact (start.mono (by decide)).trans ((frame.mono (by decide)).trans
        ((update_inProgress _ _).mono (by decide)))

/-- The panel entries that are refused, and what is stored of the others (R152, R187). -/
theorem readPanel_none : readPanel e = none ↔ 1 < byteAt e 0 := by
  unfold readPanel toFlag
  split_ifs <;> simp <;> omega

theorem readPanel_stored {p : Panel} (read : readPanel e = some p) : PanelStored e p := by
  unfold readPanel at read
  obtain ⟨enabled, flagged, ⟨⟩⟩ := Option.bind_eq_some_iff.1 read
  have on : enabled = decide (byteAt e 0 = 1) := by
    unfold toFlag at flagged
    split_ifs at flagged <;> simp_all
  exact ⟨on, ⟨rfl, rfl⟩, ⟨rfl, rfl⟩, ⟨rfl, rfl, rfl⟩, ⟨rfl, rfl, rfl⟩, rfl⟩

end

/-- Settles O54: the WRITEs of regions and panel, their refusals in order, and the fill they wait for. -/
theorem writesThatMoveTheFrameBuffers : Obligations.WritesThatMoveTheFrameBuffers := by
  intro c rest s e ready code awake
  refine ⟨?regions, ?panel⟩
  case regions =>
    rintro capture symbol outside payload four idle free job readout unfilled rfl rfl outside_iff
    have writable : writable s 3 = true := by
      show (acquisitionFree s && s.re.job == .idle && !readoutRuns s) = true
      rw [(acquisitionFree_iff s).2 ⟨idle, free⟩, job]
      simp [readoutRuns, readout]
    have checks := spansOutside_iff (s := s) (readRegions e)
    obtain ⟨stored, refused⟩ := writeRegions_one ready code awake payload four writable
    refine ⟨fun bad => refused _ (if_pos bad), fun low order high => ⟨fun fails => refused _ ?_, fun inside fits => ?_⟩⟩
    · have bounds : ¬((readRegions e).captureEnd < 1 ∨ (readRegions e).symbolEnd < (readRegions e).captureEnd ∨
          totalBlocks s.mp.size < (readRegions e).symbolEnd) := by
        simp only [readRegions]
        omega
      unfold regionRefusal
      rw [if_neg bounds]
      split_ifs with spans frames
      · rfl
      · rfl
      · rcases fails with fails | fails
        · exact absurd (checks.2 (outside_iff.1 fails)) spans
        · simp only [Bool.not_eq_true', Bool.not_eq_false] at frames
          exact absurd ((framesFit_iff _ _ _ _).1 frames) (Nat.not_le.2 fails)
    · have passes : regionRefusal (readRegions e) s = none := by
        unfold regionRefusal
        rw [if_neg (by simp only [readRegions]; omega), if_neg (fun spans => inside (outside_iff.2 (checks.1 spans))),
          if_neg]
        simp only [Bool.not_eq_true', Bool.not_eq_false]
        exact (framesFit_iff _ _ _ _).2 fits
      obtain ⟨t, effect, queue, regions, stays, moves⟩ :=
        writeRegions_effect (c := c) (rest := rest) (readRegions e) unfilled ready.slot
      exact ⟨t, effect ▸ stored passes, queue, regions, stays, moves⟩
  case panel =>
    intro payload sixteen job settled
    have writable : writable s 15 = true := by simp [writable, job]
    obtain ⟨unread, stored⟩ := writePanel_one ready code awake payload sixteen writable
    refine ⟨unread, readPanel_none, fun p => readPanel_stored, fun p resized read resized_iff => ?_⟩
    obtain ⟨passes, fails⟩ := stored p read
    rw [← resizes_iff] at resized_iff
    have not_resized : ¬resized → resizes p s = false := by rw [resized_iff]; simp
    have not_busy : ¬resized ∨ s.re.job = .idle → ¬(resizes p s = true ∧ s.re.job = .waitFlip) := by
      rw [resized_iff]
      rintro (same | idle) ⟨resizes, waits⟩
      · exact same resizes
      · rw [idle] at waits
        cases waits
    refine ⟨fun resizes waits => fails _ (if_pos ⟨resized_iff.1 resizes, waits⟩), fun free small => fails _ ?_,
      fun free fits => ?_⟩
    · rw [panelRefusal, if_neg (not_busy free), if_pos]
      rw [(framesFit_eq_false_iff _ _ _).2 small]
      rfl
    · have none_refused : panelRefusal p s = none := by
        rw [panelRefusal, if_neg (not_busy free), if_neg]
        rw [(framesFit_iff _ _ _ _).2 fits]
        exact Bool.false_ne_true
      obtain ⟨t, effect, queue, panel, stays, waits⟩ :=
        setPanel_effect (c := c) (rest := rest) p settled ready.slot
      exact ⟨t, effect ▸ passes none_refused, queue, panel, fun same => stays (not_resized same),
        fun resizes => waits (resized_iff.1 resizes)⟩

end Sys2Proof.Machine
end

section
/-! SUPPORT. The WRITEs of the segment plan (R49 to R51). -/

namespace Sys2Proof.Machine

section

variable {c : LinkCell} {rest : List LinkCell} {s : State} {k : Fin 32} {e : List Byte} {p : PlanEntry}

/-! ### The checks of a plan entry (R50) -/

/-- The plan entry of some bytes (R48, R187). -/
def planOf (e : List Byte) : PlanEntry :=
  { planned := decide (byteAt e 0 = 1), captureFirst := numAt e 2 2, captureCount := numAt e 4 2
    symbolFirst := numAt e 6 2, symbolCount := numAt e 8 2 }

theorem readPlan_eq (flagged : byteAt e 0 ≤ 1) : readPlan e = some (planOf e) := by
  unfold readPlan toFlag planOf
  rcases Nat.le_one_iff_eq_zero_or_eq_one.1 flagged with zero | one
  · rw [if_pos zero, zero]
    rfl
  · rw [if_neg (by omega), if_pos one, one]
    rfl

/-- A plan entry that is read is stored by the checks of R50. -/
theorem storePlan_read {t : State} (read : readPlan e = some p) :
    (∀ code, planRefusal k p t = some code → storePlan k e t = .inl code) ∧
      (planRefusal k p t = none → storePlan k e t = .inr (writePlan k p t)) := by
  simp only [storePlan, fin_ofNat_val, read]
  by_cases held : t.segments[k].holdCount ≠ 0
  · rw [if_pos held]
    have refused : planRefusal k p t = some .held := if_pos held
    rw [refused]
    exact ⟨fun code h => by rw [Option.some.inj h], fun h => (nomatch h)⟩
  · rw [if_neg held]
    refine ⟨fun code refused => ?_, fun passes => ?_⟩
    · rw [refused]
    · rw [passes]

/-- Two runs of blocks share one (R48, R50). -/
theorem sharesBlock_iff (a m b n : Nat) :
    sharesBlock a m b n = true ↔ ∃ x, a ≤ x ∧ x < a + m ∧ b ≤ x ∧ x < b + n := by
  rw [sharesBlock, decide_eq_true_iff]
  constructor
  · rintro ⟨some_first, some_second, left, right⟩
    exact ⟨max a b, le_max_left _ _, max_lt (by omega) right, le_max_right _ _, max_lt left (by omega)⟩
  · rintro ⟨x, from_a, to_a, from_b, to_b⟩
    omega

theorem overlapsPlan_iff : overlapsPlan k p s = true ↔ ∃ m : Fin 32, m ≠ k ∧ s.plan[m].planned = true ∧
    ((∃ b, p.captureFirst ≤ b ∧ b < p.captureFirst + p.captureCount ∧
        s.plan[m].captureFirst ≤ b ∧ b < s.plan[m].captureFirst + s.plan[m].captureCount) ∨
      ∃ b, p.symbolFirst ≤ b ∧ b < p.symbolFirst + p.symbolCount ∧
        s.plan[m].symbolFirst ≤ b ∧ b < s.plan[m].symbolFirst + s.plan[m].symbolCount) := by
  simp only [overlapsPlan, spansShare, List.any_eq_true, List.mem_finRange, true_and, Bool.and_eq_true,
    Bool.or_eq_true, sharesBlock_iff, bne_iff_ne, and_assoc]

theorem spansWithin_eq_false_iff (r : Regions) : spansWithin r p = false ↔
    r.captureEnd < p.captureFirst + p.captureCount ∨ p.symbolCount ≠ 0 ∧
      (p.symbolFirst < r.captureEnd ∨ r.symbolEnd < p.symbolFirst + p.symbolCount) := by
  rw [← Bool.not_eq_true, spansWithin_iff]
  omega

/-- The checks of R50 in their order. -/
theorem planRefusal_checks {outside overlaps : Prop} (outside_iff : outside ↔ spansWithin s.mp.regions p = false)
    (overlaps_iff : overlaps ↔ overlapsPlan k p s = true) :
    (s.segments[k].holdCount ≠ 0 → planRefusal k p s = some .held) ∧
    (s.segments[k].holdCount = 0 → p.planned = true →
      (p.captureCount = 0 → planRefusal k p s = some .badValue) ∧
      (p.captureCount ≠ 0 → outside → planRefusal k p s = some .outOfRegion) ∧
      (p.captureCount ≠ 0 → ¬outside → overlaps → planRefusal k p s = some .overlap)) ∧
    (s.segments[k].holdCount = 0 → p.planned = false ∨ p.captureCount ≠ 0 ∧ ¬outside ∧ ¬overlaps →
      planRefusal k p s = none) := by
  have inside : ¬outside → spansWithin s.mp.regions p = true := by rw [outside_iff]; simp
  unfold planRefusal
  refine ⟨fun held => if_pos held, fun free planned => ⟨fun empty => ?_, fun some_blocks out => ?_,
    fun some_blocks ins shared => ?_⟩, fun free passes => ?_⟩
  · rw [if_neg (not_not.2 free), if_neg (by simp [planned]), if_pos empty]
  · rw [if_neg (not_not.2 free), if_neg (by simp [planned]), if_neg some_blocks,
      if_pos (by rw [outside_iff.1 out]; rfl)]
  · rw [if_neg (not_not.2 free), if_neg (by simp [planned]), if_neg some_blocks,
      if_neg (by rw [inside ins]; exact Bool.false_ne_true), if_pos (overlaps_iff.1 shared)]
  · rw [if_neg (not_not.2 free)]
    rcases passes with unplanned | ⟨some_blocks, ins, apart⟩
    · rw [if_pos (by rw [unplanned]; rfl)]
    · rw [if_neg some_blocks, if_neg (c := (!spansWithin s.mp.regions p) = true) (by simp [inside ins]),
        if_neg (fun shared => apart (overlaps_iff.2 shared)), ite_self]

theorem planRefusal_popped (k : Fin 32) (p : PlanEntry) :
    planRefusal k p (popped rest s) = planRefusal k p s := by
  rw [popped_eq]
  rfl

theorem writePlan_popped (k : Fin 32) (p : PlanEntry) :
    (writePlan k p (popped rest s)).plan = s.plan.set k p ∧ (writePlan k p (popped rest s)).segments =
      s.segments.set k (emptySegment s.segments[k].holdCount) := by
  unfold writePlan
  rw [popped_eq]
  exact ⟨rfl, rfl⟩

/-! ### A WRITE of two entries -/

/-- A WRITE of two plan entries of which the second is refused: the first stays written. -/
theorem writePlan_two {f : List Byte} {n : Fin 32} {code : RefusalCode} {u : State} (ready : Ready c rest s)
    (write : c.code = 1) (awake : s.pru.power ≠ .sleep) (free : writable s 4 = true)
    (payload : c.payload = 4 :: BitVec.ofNat 8 k :: (e ++ f)) (ten : e.length = 10) (ten' : f.length = 10)
    (next : n.val = k.val + 1) (first : storePlan k e (popped rest s) = .inr u)
    (second : storePlan n f u = .inl code) :
    exec .writeSegmentPlan s = .next (putReply c.tag (.refused code (BitVec.ofNat 8 n)) u) := by
  have named : commandRow c = .writeSegmentPlan := commandRow_of_payload write payload rfl
  have at0 : byteAt c.payload 0 = 4 := by rw [payload]; rfl
  have at1 : byteAt c.payload 1 = k.val := by
    rw [payload]
    exact byte_val k.isLt (by decide)
  have length : c.payload.length - 2 = 20 := by rw [payload]; simp [ten, ten']
  have drop : c.payload.drop 2 = e ++ f := by rw [payload]; rfl
  have whole : wholeRefusal c (popped rest s) = none := by
    unfold wholeRefusal
    dsimp only
    rw [at0, at1, length, if_neg (by omega), if_neg (by decide), if_neg (by decide), if_neg, if_neg]
    · rw [writable_popped, free]
      exact Bool.false_ne_true
    · have inside := n.isLt
      simp [tableEntries, entrySize]
      omega
  have stores : storeEntries storePlan 10 2 k (e ++ f) (popped rest s) = (u, some (code, n.val)) := by
    rw [storeEntries, List.take_left' ten, first]
    dsimp only
    rw [storeEntries, List.drop_left' ten, List.take_of_length_le (Nat.le_of_eq ten'), ← next, second]
  refine (dispatch_owner ready named rfl (absurd · awake)).trans (congrArg Host.Outcome.next ?_)
  unfold writeTable
  rw [whole]
  dsimp only
  rw [at0, at1, length, drop, show entrySize 4 = 10 from rfl, show 20 / 10 = 2 from rfl, stores]
  rfl

theorem refused_frame {u : State} {body : ReplyBody} (stored : ChangesOnly [.plan, .segments] (popped rest s) u) :
    answered c rest body (putReply c.tag body u) ∧
      ChangesOnly (withDispatch [.plan, .segments]) s (putReply c.tag body u) := by
  have queue : u.lp.queue = rest := (stored .queue (by decide)).trans (by rw [popped_lp])
  exact ⟨⟨queue, rfl⟩, ((popped_frame rest s).mono (by decide)).trans ((stored.mono (by decide)).trans
    ((putReply_frame _ _ _).mono (by decide)))⟩

end

/-- Settles O55: the checks of a plan WRITE, entry by entry. -/
theorem planWriteChecksEachEntry : Obligations.PlanWriteChecksEachEntry := by
  intro c rest s k e p outside overlaps ready code awake idle free ten flagged hp outside_iff overlaps_iff
  have writable : writable s 4 = true := (acquisitionFree_iff s).2 ⟨idle, free⟩
  have read : readPlan e = some p := hp ▸ readPlan_eq flagged
  have checks := planRefusal_checks (outside_iff.trans (spansWithin_eq_false_iff _).symm)
    (overlaps_iff.trans overlapsPlan_iff.symm)
  obtain ⟨held, fails, passes⟩ := checks
  have store := storePlan_read (k := k) (t := popped rest s) read
  rw [planRefusal_popped] at store
  have written := writePlan_popped (rest := rest) (s := s) k p
  have frame := writePlan_frame k p (popped rest s)
  refine ⟨fun payload => ?one, fun n f payload ten' next free_hold unplanned holds => ?second_held,
    fun n f first count b payload ten' next free_hold free_next planned blocks inside apart plans hfirst hcount
      within symbols from_b to_b from_p to_p => ?second_overlaps⟩
  case one =>
    have one : OneEntry c s 4 k e := ⟨payload, by decide, k.isLt, ten, writable⟩
    obtain ⟨stored, refused⟩ := exec_write_entry ready awake (commandRow_of_payload code payload rfl) rfl one
    refine ⟨fun h => refused _ (store.1 _ (held h)), fun unheld planned => ?_, fun unheld ok => ?_⟩
    · obtain ⟨empty, out, shared⟩ := fails unheld planned
      exact ⟨fun h => refused _ (store.1 _ (empty h)), fun h h' => refused _ (store.1 _ (out h h')),
        fun h h' h'' => refused _ (store.1 _ (shared h h' h''))⟩
    · obtain ⟨answer, frame⟩ := write_done (c := c) (by decide) frame
      exact ⟨_, stored _ (store.2 (passes unheld ok)), answer, written.1, written.2, frame⟩
  case second_held =>
    have apart : k ≠ n := fun same => by rw [same] at next; omega
    have other : (writePlan k p (popped rest s)).segments[n].holdCount ≠ 0 := by
      rw [written.2, set_getElem, if_neg (Ne.symm apart)]
      exact holds
    have second : storePlan n f (writePlan k p (popped rest s)) = .inl .held := by
      simp only [storePlan, fin_ofNat_val]
      exact if_pos other
    obtain ⟨answer, frame⟩ := refused_frame (c := c) (body := .refused .held (BitVec.ofNat 8 n)) frame
    refine ⟨_, writePlan_two ready code awake writable payload ten ten' next
      (store.2 (passes free_hold (.inl unplanned))) second, answer, written.1, ?_, frame⟩
    exact written.2.trans (by rw [free_hold])
  case second_overlaps =>
    have distinct : k ≠ n := fun same => by rw [same] at next; omega
    have other : (writePlan k p (popped rest s)).segments[n].holdCount = 0 := by
      rw [written.2, set_getElem, if_neg (Ne.symm distinct)]
      exact free_next
    have plan_k : (writePlan k p (popped rest s)).plan[k] = p := by
      rw [writePlan_plan, if_pos rfl]
    have regions : (writePlan k p (popped rest s)).mp.regions = s.mp.regions :=
      ((frame .regions (by decide)).trans (by rw [popped_mp]))
    subst hfirst hcount
    have shared : overlapsPlan n (planOf f)
        (writePlan k p (popped rest s)) = true := by
      rw [overlapsPlan_iff]
      refine ⟨k, distinct, ?_, .inl ⟨b, from_b, to_b, ?_⟩⟩
      · rw [plan_k, planned]
      · rw [plan_k]
        exact ⟨from_p, to_p⟩
    have fits : spansWithin s.mp.regions (planOf f) = true := by
      rw [spansWithin_iff]
      exact ⟨within, fun some_symbols => symbols.resolve_left some_symbols⟩
    have second : storePlan n f (writePlan k p (popped rest s)) = .inl .overlap := by
      refine (storePlan_read (readPlan_eq (Nat.le_of_eq plans))).1 _ ?_
      unfold planRefusal
      rw [if_neg (not_not.2 other), if_neg (by simp [planOf, plans]), if_neg (by simp only [planOf]; omega), regions,
        if_neg (by rw [fits]; exact Bool.false_ne_true), if_pos shared]
    obtain ⟨answer, frame⟩ := refused_frame (c := c) (body := .refused .overlap (BitVec.ofNat 8 n)) frame
    refine ⟨_, writePlan_two ready code awake writable payload ten ten' next
      (store.2 (passes free_hold (.inr ⟨blocks, inside, apart⟩))) second, answer, written.1, ?_, frame⟩
    exact written.2.trans (by rw [free_hold])

end Sys2Proof.Machine
end

section
/-! SUPPORT. The readers of the table entries: which entries each refuses, and what it takes of the others (R9,
R30, R66, R71, R75, R86, R87, R118, R131, R132, R187). -/

namespace Sys2Proof.Machine

/-! ### Fields and codes -/

theorem toFin_none {n k : Nat} : toFin n k = none ↔ n ≤ k := by
  unfold toFin
  split <;> simp <;> omega

theorem toFin_some {n k : Nat} {i : Fin n} : toFin n k = some i ↔ i.val = k := by
  unfold toFin
  constructor
  · intro named
    split at named
    · rw [← Option.some.inj named]
    · cases named
  · rintro rfl
    exact dif_pos i.isLt

theorem toFlag_none {k : Nat} : toFlag k = none ↔ 1 < k := by
  unfold toFlag
  split_ifs <;> simp <;> omega

theorem toFlag_some {k : Nat} {b : Bool} (named : toFlag k = some b) : b = decide (k = 1) ∧ k ≤ 1 := by
  unfold toFlag at named
  split_ifs at named <;> simp_all

theorem toPolarity_none {k : Nat} : toPolarity k = none ↔ 2 < k := by
  unfold toPolarity
  split_ifs <;> simp <;> omega

theorem toPolarity_some {k : Nat} {p : Polarity} (named : toPolarity k = some p) : polarityCode p = k := by
  unfold toPolarity at named
  split_ifs at named <;> cases named <;> simp_all [polarityCode]

theorem toOptionalChannel_none {k : Nat} : toOptionalChannel k = none ↔ badOptionalChannel k := by
  unfold toOptionalChannel badOptionalChannel
  split_ifs with none_named
  · simp [none_named]
  · simp [toFin_none, none_named]
    omega

theorem toOptionalChannel_some {k : Nat} {o : Option (Fin 32)} (named : toOptionalChannel k = some o) :
    optionalChannelCode o = k ∧ o.toList.map (·.val) = [k].filter (· ≠ 255) := by
  unfold toOptionalChannel at named
  split_ifs at named with none_named
  · cases named
    simp [none_named, optionalChannelCode]
  · obtain ⟨i, fin, rfl⟩ := Option.map_eq_some_iff.1 named
    rw [toFin_some] at fin
    subst fin
    simp [optionalChannelCode, none_named]

/-- A code apart from every code up to one lies above it. -/
theorem above_of_ne {n k : Nat} (apart : ∀ i ≤ n, k ≠ i) : n < k :=
  Nat.not_le.1 fun low => apart k low rfl

/-- A reader that reads a field first is refused at that field, or by what follows it. -/
theorem bind_none_or {α β : Type} {o : Option α} {f : α → Option β} {P Q : Prop} (field : o = none ↔ P)
    (others : ∀ a, o = some a → (f a = none ↔ Q)) : o.bind f = none ↔ P ∨ Q := by
  cases o with
  | none => simp [← field]
  | some a =>
    have := others a rfl
    simp_all

/-- A reader whose last field is read refuses nothing else. -/
theorem bind_none_last {α β : Type} {o : Option α} {f : α → β} {P : Prop} (field : o = none ↔ P) :
    (o.bind fun a => some (f a)) = none ↔ P := by
  rw [← field]
  cases o <;> simp

/-! ### Acquisition (R9, R30) -/

theorem readAcq_none (e : List Byte) : readAcq e = none ↔ acqRefused e := by
  have mode : toCaptureMode (byteAt e 0) = none ↔ 1 < byteAt e 0 := by
    unfold toCaptureMode
    split_ifs <;> simp <;> omega
  have width : toWidth (byteAt e 1) = none ↔ 1 < byteAt e 1 := by
    unfold toWidth
    split_ifs <;> simp <;> omega
  have clock : toFin 32 (byteAt e 2) = none ↔ 31 < byteAt e 2 := toFin_none
  exact bind_none_or mode fun _ _ => bind_none_or width fun _ _ => bind_none_or clock fun _ _ =>
    bind_none_or toPolarity_none fun _ _ => bind_none_last toFlag_none

theorem readAcq_stored {e : List Byte} {v : AcqEntry} (read : readAcq e = some v) : AcqStored e v := by
  simp only [readAcq, Option.bind_eq_bind, Option.bind_eq_some_iff, Option.some.injEq] at read
  obtain ⟨mode, hmode, width, hwidth, clock, hclock, edge, hedge, loop, hloop, rfl⟩ := read
  refine ⟨?_, ?_, ⟨toFin_some.1 hclock, toPolarity_some hedge⟩, (toFlag_some hloop).1, ⟨rfl, rfl⟩, rfl, ⟨rfl, rfl⟩⟩
  · unfold toCaptureMode at hmode
    split_ifs at hmode <;> simp_all
  · unfold toWidth at hwidth
    split_ifs at hwidth <;> simp_all

/-! ### Terms (R66) -/

theorem readTerm_none (e : List Byte) : readTerm e = none ↔ termRefused e := by
  have kind : readTermKind e = none ↔ termRefused e := by
    unfold readTermKind termRefused
    split
    case h_1 zero => simp [zero]
    case h_2 one => simp [one]
    case h_3 two =>
      rw [two]
      refine (bind_none_or (toFin_none (n := 32)) fun _ _ => bind_none_last toPolarity_none).trans ?_
      omega
    case h_4 three =>
      rw [three]
      refine (bind_none_last (toFin_none (n := 4))).trans ?_
      omega
    case h_5 four =>
      rw [four]
      refine (bind_none_or (toFin_none (n := 32)) fun _ _ => bind_none_last toFlag_none).trans ?_
      omega
    case h_6 five =>
      rw [five]
      refine (bind_none_last (toFin_none (n := 2))).trans ?_
      omega
    case h_7 =>
      refine iff_of_true rfl (.inl (above_of_ne fun i low => ?_))
      interval_cases i <;> assumption
  exact bind_none_last kind

theorem readTerm_stored {e : List Byte} {v : Term} (read : readTerm e = some v) : TermStored e v := by
  obtain ⟨kind, hkind, ⟨⟩⟩ := Option.bind_eq_some_iff.1 read
  refine ⟨rfl, ?_, ?_, ?_, ?_, ?_, ?_⟩ <;> intro code <;>
    simp only [readTermKind, code, Option.bind_eq_bind, Option.bind_eq_some_iff, Option.some.injEq] at hkind
  case refine_1 => exact hkind.symm
  case refine_2 => exact hkind.symm
  case refine_3 =>
    obtain ⟨k, hk, p, hp, rfl⟩ := hkind
    exact ⟨k, p, rfl, toFin_some.1 hk, toPolarity_some hp⟩
  case refine_4 =>
    obtain ⟨l, hl, rfl⟩ := hkind
    exact ⟨l, toFin_some.1 hl, rfl⟩
  case refine_5 =>
    obtain ⟨f, hf, out, hout, rfl⟩ := hkind
    obtain ⟨flagged, low⟩ := toFlag_some hout
    refine ⟨f, toFin_some.1 hf, ?_⟩
    rw [flagged]
    rcases Nat.le_one_iff_eq_zero_or_eq_one.1 low with zero | one
    · simp [zero]
    · simp [one]
  case refine_6 =>
    obtain ⟨c, hc, rfl⟩ := hkind
    exact ⟨c, rfl, toFin_some.1 hc⟩

/-! ### Counters (R75) -/

theorem readCounter_none (e : List Byte) : readCounter e = none ↔ counterRefused e := by
  have source : readSource e = none ↔ counterRefused e := by
    unfold readSource counterRefused
    split
    case h_1 zero => simp [zero]
    case h_2 one =>
      rw [one, Option.map_eq_none_iff, toFin_none]
      omega
    case h_3 two =>
      rw [two, Option.map_eq_none_iff, toFin_none]
      omega
    case h_4 three =>
      rw [three]
      refine (bind_none_or (toFin_none (n := 32)) fun _ _ => bind_none_last toPolarity_none).trans ?_
      omega
    case h_5 =>
      refine iff_of_true rfl (.inl (above_of_ne fun i low => ?_))
      interval_cases i <;> assumption
  exact bind_none_last source

theorem readCounter_stored {e : List Byte} {v : CounterEntry} (read : readCounter e = some v) :
    CounterStored e v := by
  obtain ⟨source, hsource, ⟨⟩⟩ := Option.bind_eq_some_iff.1 read
  refine ⟨rfl, rfl, ?_, ?_, ?_, ?_⟩ <;> intro code <;>
    simp only [readSource, code, Option.bind_eq_bind, Option.bind_eq_some_iff, Option.map_eq_some_iff,
      Option.some.injEq] at hsource
  case refine_1 => exact hsource.symm
  case refine_2 =>
    obtain ⟨p, hp, rfl⟩ := hsource
    exact ⟨p, rfl, toFin_some.1 hp⟩
  case refine_3 =>
    obtain ⟨j, hj, rfl⟩ := hsource
    exact ⟨j, rfl, toFin_some.1 hj⟩
  case refine_4 =>
    obtain ⟨k, hk, p, hp, rfl⟩ := hsource
    exact ⟨k, p, rfl, toFin_some.1 hk, toPolarity_some hp⟩

/-! ### Fields (R118) and rows (R132) -/

theorem readField_none (e : List Byte) : readField e = none ↔ fieldRefused e := by
  refine bind_none_or (toFin_none (n := 4)) fun _ _ => ite_eq_right_iff.trans ?_
  simp only [reduceCtorEq, imp_false]
  omega

theorem readField_stored {e : List Byte} {v : FieldEntry} (read : readField e = some v) : FieldStored e v := by
  obtain ⟨lane, hlane, read⟩ := Option.bind_eq_some_iff.1 read
  split at read
  · cases read
    exact ⟨⟨rfl, rfl⟩, ⟨toFin_some.1 hlane, rfl, rfl⟩, rfl, rfl⟩
  · cases read

theorem readRow_none (e : List Byte) : readRow e = none ↔ rowRefused e := by
  have kind : readRowKind e = none ↔ rowRefused e := by
    unfold readRowKind rowRefused
    split
    case h_1 zero => simp [zero]
    case h_2 one =>
      rw [one, Option.map_eq_none_iff, toFin_none]
      omega
    case h_3 two => simp [two]
    case h_4 three =>
      rw [three, Option.map_eq_none_iff, toFin_none]
      omega
    case h_5 =>
      refine iff_of_true rfl (.inl (above_of_ne fun i low => ?_))
      interval_cases i <;> assumption
  exact bind_none_last kind

theorem readRow_stored {e : List Byte} {v : Row} (read : readRow e = some v) : RowStored e v := by
  obtain ⟨kind, hkind, ⟨⟩⟩ := Option.bind_eq_some_iff.1 read
  refine ⟨rfl, ⟨rfl, rfl, rfl⟩, ?_, ?_, ?_, ?_⟩ <;> intro code <;>
    simp only [readRowKind, code, Option.map_eq_some_iff, Option.some.injEq] at hkind
  case refine_1 => exact hkind.symm
  case refine_2 =>
    obtain ⟨k, hk, rfl⟩ := hkind
    exact ⟨k, rfl, toFin_some.1 hk⟩
  case refine_3 => exact hkind.symm
  case refine_4 =>
    obtain ⟨l, hl, rfl⟩ := hkind
    exact ⟨l, rfl, toFin_some.1 hl⟩

/-! ### Views (R131) -/

theorem readView_none (w h : Nat) (e : List Byte) : readView w h e = none ↔ 31 < byteAt e 0 ∨ 1 < byteAt e 1 :=
  bind_none_or (toFin_none (n := 32)) fun _ _ => bind_none_last toFlag_none

theorem readView_stored {w h : Nat} {e : List Byte} {v : View} (whole : e.length = 24)
    (read : readView w h e = some v) : ViewStored w h e v := by
  simp only [readView, Option.bind_eq_bind, Option.bind_eq_some_iff, Option.some.injEq] at read
  obtain ⟨segment, hsegment, start, hstart, rfl⟩ := read
  obtain ⟨flagged, low⟩ := toFlag_some hstart
  have length : (bytesAt e 4 6).length = 6 := bytesAt_length (by omega)
  have value : leInt (bytesAt e 4 6) = (BitVec.ofNat 48 (numAt e 4 6)).toInt := leInt_eq_toInt (by rw [length])
  have bound : (BitVec.ofNat 48 (numAt e 4 6)).toInt ≤ 140737488355327 := by
    have := BitVec.toInt_lt (x := BitVec.ofNat 48 (numAt e 4 6))
    omega
  refine ⟨toFin_some.1 hsegment, ?_, rfl, ?_, rfl, ⟨rfl, rfl⟩, rfl, rfl⟩
  · simp only [clampArea, flagged]
    rcases Nat.le_one_iff_eq_zero_or_eq_one.1 low with zero | one
    · simp [zero]
    · simp [one]
  · simp only [clampArea, value, clampInt, maxOffset, min_eq_right bound]

/-! ### Stages (R71) -/

theorem bytesAt_bytesAt (e : List Byte) {a n b m : Nat} (inside : b + m ≤ n) :
    bytesAt (bytesAt e a n) b m = bytesAt e (a + b) m := by
  unfold bytesAt
  rw [List.drop_take, List.drop_drop, List.take_take, min_eq_left (by omega)]

theorem numAt_bytesAt (e : List Byte) {a n b m : Nat} (inside : b + m ≤ n) :
    numAt (bytesAt e a n) b m = numAt e (a + b) m :=
  congrArg leNat (bytesAt_bytesAt e inside)

theorem byteAt_bytesAt (e : List Byte) {a n b : Nat} (inside : b < n) :
    byteAt (bytesAt e a n) b = byteAt e (a + b) := by
  rw [byteAt_eq_numAt, byteAt_eq_numAt, numAt_bytesAt e inside]

theorem byteAt_cons_succ (b : Byte) (bs : List Byte) (i : Nat) : byteAt (b :: bs) (i + 1) = byteAt bs i := rfl

/-- The term numbers of a branch are refused where one of them is above 15. -/
theorem readTermList_none {n : Nat} {bs : List Byte} (enough : n ≤ bs.length) :
    readTermList n bs = none ↔ ∃ i < n, 15 < byteAt bs i := by
  induction n generalizing bs with
  | zero => simp [readTermList]
  | succ n ih =>
    obtain ⟨b, bs, rfl⟩ := List.exists_cons_of_length_pos (show 0 < bs.length by omega)
    rw [List.length_cons] at enough
    have step : readTermList (n + 1) (b :: bs) = none ↔ 15 < b.toNat ∨ ∃ i < n, 15 < byteAt bs i :=
      bind_none_or (toFin_none (n := 16)) fun _ _ => bind_none_last (ih (by omega))
    rw [step]
    constructor
    · rintro (first | ⟨i, inside, above⟩)
      · exact ⟨0, by omega, first⟩
      · exact ⟨i + 1, by omega, above⟩
    · rintro ⟨i, inside, above⟩
      cases i with
      | zero => exact .inl above
      | succ i => exact .inr ⟨i, by omega, above⟩

theorem readTermList_some {n : Nat} {bs : List Byte} {ts : List (Fin 16)} (read : readTermList n bs = some ts) :
    ts.map (·.val) = (List.range n).map (byteAt bs) := by
  induction n generalizing bs ts with
  | zero =>
    cases read
    rfl
  | succ n ih =>
    cases bs with
    | nil => cases read
    | cons b bs =>
      simp only [readTermList, Option.bind_eq_bind, Option.bind_eq_some_iff, Option.some.injEq] at read
      obtain ⟨t, ht, us, hus, rfl⟩ := read
      rw [List.map_cons, ih hus, List.range_succ_eq_map, List.map_cons, List.map_map, toFin_some.1 ht]
      rfl

theorem toTarget_none {k : Nat} : toTarget k = none ↔ 9 < k := by
  unfold toTarget
  split_ifs <;> simp <;> omega

theorem toTarget_some {k : Nat} {target : Target} (named : toTarget k = some target) : targetCode target = k := by
  unfold toTarget at named
  split_ifs at named <;> cases named <;> simp_all [targetCode]

theorem toAction_none {k : Nat} : toAction (k % 4) = none ↔ k % 4 = 3 := by
  unfold toAction
  split_ifs <;> simp <;> omega

theorem toAction_some {k : Nat} {action : CounterAction} (named : toAction k = some action) :
    actionCode action = k := by
  unfold toAction at named
  split_ifs at named <;> cases named <;> simp_all [actionCode]

theorem readBranch_none {e : List Byte} {a : Nat} (whole : a + 10 ≤ e.length) :
    readBranch (bytesAt e a 10) = none ↔ branchRefused e a := by
  have length : (bytesAt e a 10).length = 10 := bytesAt_length whole
  unfold readBranch branchRefused
  rw [byteAt_bytesAt e (by omega), byteAt_bytesAt e (by omega), byteAt_bytesAt e (by omega)]
  by_cases long : byteAt e (a + 4) > 4
  · rw [if_pos long]
    exact iff_of_true rfl (.inl long)
  · rw [if_neg long]
    have terms : readTermList (byteAt e (a + 4)) (bytesAt e a 10) = none ↔
        ∃ i < byteAt e (a + 4), 15 < byteAt e (a + i) := by
      rw [readTermList_none (by omega)]
      refine exists_congr fun i => and_congr_right fun inside => ?_
      rw [byteAt_bytesAt e (by omega)]
    refine (bind_none_or terms fun _ _ => bind_none_or toTarget_none fun _ _ =>
      bind_none_or toAction_none fun _ _ => bind_none_last toAction_none).trans ?_
    exact (or_iff_right long).symm

theorem readBranch_stored {e : List Byte} {a : Nat} {v : Branch} (read : readBranch (bytesAt e a 10) = some v) :
    BranchStored e a v := by
  unfold readBranch at read
  split at read
  · cases read
  · next short =>
    simp only [Option.bind_eq_bind, Option.bind_eq_some_iff, Option.some.injEq] at read
    obtain ⟨terms, hterms, target, htarget, a0, ha0, a1, ha1, rfl⟩ := read
    rw [byteAt_bytesAt e (by omega)] at short hterms htarget ha0 ha1
    refine ⟨?_, ?_, ?_, toTarget_some htarget, ⟨toAction_some ha0, toAction_some ha1⟩, ?_⟩
    · refine (readTermList_some hterms).trans (List.map_congr_left fun i inside => ?_)
      have := List.mem_range.1 inside
      rw [byteAt_bytesAt e (by omega)]
    · exact congrArg (bitAt · 0) (byteAt_bytesAt e (by omega))
    · exact congrArg (bitAt · 1) (byteAt_bytesAt e (by omega))
    · exact congrArg (max 1) (numAt_bytesAt e (by omega))

theorem readStage_none {e : List Byte} (whole : e.length = 20) :
    readStage e = none ↔ branchRefused e 0 ∨ branchRefused e 10 :=
  bind_none_or (readBranch_none (by omega)) fun _ _ => bind_none_last (readBranch_none (by omega))

theorem readStage_stored {e : List Byte} {v : Stage} (read : readStage e = some v) :
    BranchStored e 0 v.primary ∧ BranchStored e 10 v.secondary := by
  simp only [readStage, Option.bind_eq_bind, Option.bind_eq_some_iff, Option.some.injEq] at read
  obtain ⟨p, hp, q, hq, rfl⟩ := read
  exact ⟨readBranch_stored hp, readBranch_stored hq⟩

/-! ### Lanes (R86, R87) -/

theorem toParity_none {k : Nat} : toParity k = none ↔ 4 < k := by
  unfold toParity
  split
  case h_6 =>
    refine iff_of_true rfl (above_of_ne fun i low => ?_)
    interval_cases i <;> assumption
  all_goals simp

theorem toParity_some {k : Nat} {p : Parity} (named : toParity k = some p) : parityCode p = k := by
  unfold toParity at named
  split at named <;> cases named <;> rfl

/-- The parameters of an Async lane that are refused (R87). -/
theorem readAsync_none (e : List Byte) : readAsync e = none ↔
    31 < byteAt e 6 ∨ 1 < byteAt e 7 ∨ 4 < byteAt e 9 ∨ 1 < byteAt e 11 ∨
      ¬(5 ≤ byteAt e 8 ∧ byteAt e 8 ≤ 9 ∧ 1 ≤ byteAt e 10 ∧ byteAt e 10 ≤ 2) :=
  bind_none_or (toFin_none (n := 32)) fun _ _ => bind_none_or toFlag_none fun _ _ =>
    bind_none_or toParity_none fun _ _ => bind_none_or toFlag_none fun _ _ =>
      ite_eq_right_iff.trans (by simp)

theorem readClocked_none (e : List Byte) : readClocked e = none ↔
    31 < byteAt e 6 ∨ 31 < byteAt e 7 ∨ badOptionalChannel (byteAt e 8) ∨ badOptionalChannel (byteAt e 9) ∨
      1 < byteAt e 10 ∨ 1 < byteAt e 11 ∨ 1 < byteAt e 13 ∨ ¬(4 ≤ byteAt e 12 ∧ byteAt e 12 ≤ 32) :=
  bind_none_or (toFin_none (n := 32)) fun _ _ => bind_none_or (toFin_none (n := 32)) fun _ _ =>
    bind_none_or toOptionalChannel_none fun _ _ => bind_none_or toOptionalChannel_none fun _ _ =>
      bind_none_or toFlag_none fun _ _ => bind_none_or toFlag_none fun _ _ => bind_none_or toFlag_none fun _ _ =>
        ite_eq_right_iff.trans (by simp)

theorem readTwoWire_none (e : List Byte) : readTwoWire e = none ↔ 31 < byteAt e 6 ∨ 31 < byteAt e 7 :=
  bind_none_or (toFin_none (n := 32)) fun _ _ => bind_none_last (toFin_none (n := 32))

theorem readStrobed_none (e : List Byte) : readStrobed e = none ↔
    31 < byteAt e 6 ∨ 31 < byteAt e 8 ∨ badOptionalChannel (byteAt e 9) ∨ badOptionalChannel (byteAt e 10) ∨
      badOptionalChannel (byteAt e 11) ∨
      ¬(1 ≤ byteAt e 7 ∧ byteAt e 7 ≤ 16 ∧ byteAt e 6 + byteAt e 7 ≤ 32) :=
  bind_none_or (toFin_none (n := 32)) fun base hbase => bind_none_or (toFin_none (n := 32)) fun _ _ =>
    bind_none_or toOptionalChannel_none fun _ _ => bind_none_or toOptionalChannel_none fun _ _ =>
      bind_none_or toOptionalChannel_none fun _ _ =>
        ite_eq_right_iff.trans (by rw [toFin_some.1 hbase]; simp)

theorem readLaneKind_none (e : List Byte) :
    readLaneKind e = none ↔ 3 < byteAt e 1 ∨ laneParametersRefused e := by
  unfold readLaneKind laneParametersRefused
  split
  case h_1 zero =>
    rw [zero, Option.map_eq_none_iff, readAsync_none]
    omega
  case h_2 one =>
    rw [one, Option.map_eq_none_iff, readClocked_none]
    unfold badOptionalChannel
    omega
  case h_3 two =>
    rw [two, Option.map_eq_none_iff, readTwoWire_none]
    omega
  case h_4 three =>
    rw [three, Option.map_eq_none_iff, readStrobed_none]
    unfold badOptionalChannel
    omega
  case h_5 =>
    refine iff_of_true rfl (.inl (above_of_ne fun i low => ?_))
    interval_cases i <;> assumption

/-- The parameters of an Async lane as stored. -/
theorem readAsync_some {e : List Byte} {p : AsyncParams} (read : readAsync e = some p) :
    p.data.val = byteAt e 6 ∧ p.idleHigh = decide (byteAt e 7 = 0) ∧ p.dataBits = byteAt e 8 ∧
      parityCode p.parity = byteAt e 9 ∧ p.stopBits = byteAt e 10 ∧ p.msbFirst = decide (byteAt e 11 = 1) ∧
      p.bq = max 1 (numAt e 12 3) := by
  simp only [readAsync, Option.bind_eq_bind, Option.bind_eq_some_iff] at read
  obtain ⟨data, hdata, low, hlow, parity, hparity, msb, hmsb, read⟩ := read
  split at read
  · cases read
    obtain ⟨flagged, bound⟩ := toFlag_some hlow
    refine ⟨toFin_some.1 hdata, ?_, rfl, toParity_some hparity, rfl, (toFlag_some hmsb).1, rfl⟩
    rw [flagged]
    rcases Nat.le_one_iff_eq_zero_or_eq_one.1 bound with zero | one
    · simp [zero]
    · simp [one]
  · cases read

theorem readClocked_some {e : List Byte} {p : ClockedParams} (read : readClocked e = some p) :
    (p.clock.val = byteAt e 6 ∧ p.dataA.val = byteAt e 7 ∧ optionalChannelCode p.dataB = byteAt e 8 ∧
      optionalChannelCode p.select = byteAt e 9 ∧ p.fallingEdge = decide (byteAt e 10 = 1) ∧
      p.selectHigh = decide (byteAt e 11 = 1) ∧ p.wordSize = byteAt e 12 ∧
      p.msbFirst = decide (byteAt e 13 = 1)) ∧
    p.dataB.toList.map (·.val) = [byteAt e 8].filter (· ≠ 255) ∧
    p.select.toList.map (·.val) = [byteAt e 9].filter (· ≠ 255) := by
  simp only [readClocked, Option.bind_eq_bind, Option.bind_eq_some_iff] at read
  obtain ⟨clock, hclock, a, ha, b, hb, select, hselect, falling, hfalling, high, hhigh, msb, hmsb, read⟩ := read
  split at read
  · cases read
    exact ⟨⟨toFin_some.1 hclock, toFin_some.1 ha, (toOptionalChannel_some hb).1,
      (toOptionalChannel_some hselect).1, (toFlag_some hfalling).1, (toFlag_some hhigh).1, rfl,
      (toFlag_some hmsb).1⟩, (toOptionalChannel_some hb).2, (toOptionalChannel_some hselect).2⟩
  · cases read

theorem readTwoWire_some {e : List Byte} {p : TwoWireParams} (read : readTwoWire e = some p) :
    p.clock.val = byteAt e 6 ∧ p.data.val = byteAt e 7 ∧ p.stretch = max 1 (min 16777216 (numAt e 8 4)) := by
  simp only [readTwoWire, Option.bind_eq_bind, Option.bind_eq_some_iff, Option.some.injEq] at read
  obtain ⟨clock, hclock, data, hdata, rfl⟩ := read
  exact ⟨toFin_some.1 hclock, toFin_some.1 hdata, rfl⟩

theorem readStrobed_some {e : List Byte} {p : StrobedParams} (read : readStrobed e = some p) :
    (p.base.val = byteAt e 6 ∧ p.width = byteAt e 7 ∧ p.dataStrobe.val = byteAt e 8 ∧
      optionalChannelCode p.addressStrobe = byteAt e 9 ∧ optionalChannelCode p.direction = byteAt e 10 ∧
      optionalChannelCode p.wait = byteAt e 11 ∧ p.limit = max 1 (numAt e 12 2)) ∧
    byteAt e 6 + byteAt e 7 ≤ 32 ∧
    p.addressStrobe.toList.map (·.val) = [byteAt e 9].filter (· ≠ 255) ∧
    p.direction.toList.map (·.val) = [byteAt e 10].filter (· ≠ 255) ∧
    p.wait.toList.map (·.val) = [byteAt e 11].filter (· ≠ 255) := by
  simp only [readStrobed, Option.bind_eq_bind, Option.bind_eq_some_iff] at read
  obtain ⟨base, hbase, strobe, hstrobe, address, haddress, direction, hdirection, wait, hwait, read⟩ := read
  split at read
  · next inside =>
    cases read
    exact ⟨⟨toFin_some.1 hbase, rfl, toFin_some.1 hstrobe, (toOptionalChannel_some haddress).1,
      (toOptionalChannel_some hdirection).1, (toOptionalChannel_some hwait).1, rfl⟩,
      toFin_some.1 hbase ▸ inside.2.2, (toOptionalChannel_some haddress).2, (toOptionalChannel_some hdirection).2,
      (toOptionalChannel_some hwait).2⟩
  · cases read

theorem filter_channel {k : Nat} (i : Fin 32) (named : i.val = k) : [k].filter (· ≠ 255) = [i.val] := by
  have bound := i.isLt
  rw [← named]
  simp
  omega

/-- The channels of a lane kind that is read are those its descriptor assigns (R87). -/
theorem laneChannels_read {e : List Byte} {kind : LaneKind} (read : readLaneKind e = some kind) :
    laneChannels kind = (assignedChannels e).filter (· ≠ 255) := by
  unfold readLaneKind at read
  unfold assignedChannels
  split at read
  case h_1 zero =>
    obtain ⟨p, hp, rfl⟩ := Option.map_eq_some_iff.1 read
    obtain ⟨data, _⟩ := readAsync_some hp
    rw [zero]
    exact (filter_channel p.data data).symm
  case h_2 one =>
    obtain ⟨p, hp, rfl⟩ := Option.map_eq_some_iff.1 read
    obtain ⟨⟨clock, dataA, _⟩, dataB, select⟩ := readClocked_some hp
    rw [one]
    show [p.clock.val, p.dataA.val] ++ (p.dataB.toList ++ p.select.toList).map (·.val) =
      ([byteAt e 6] ++ ([byteAt e 7] ++ ([byteAt e 8] ++ [byteAt e 9]))).filter (· ≠ 255)
    rw [List.filter_append, List.filter_append, List.filter_append, ← dataB, ← select, filter_channel _ clock,
      filter_channel _ dataA, List.map_append]
    rfl
  case h_3 two =>
    obtain ⟨p, hp, rfl⟩ := Option.map_eq_some_iff.1 read
    obtain ⟨clock, data, _⟩ := readTwoWire_some hp
    rw [two]
    show [p.clock.val, p.data.val] = ([byteAt e 6] ++ [byteAt e 7]).filter (· ≠ 255)
    rw [List.filter_append, filter_channel _ clock, filter_channel _ data]
    rfl
  case h_4 three =>
    obtain ⟨p, hp, rfl⟩ := Option.map_eq_some_iff.1 read
    obtain ⟨⟨base, width, strobe, _⟩, inside, address, direction, wait⟩ := readStrobed_some hp
    have range : ((List.range (byteAt e 7)).map (byteAt e 6 + ·)).filter (· ≠ 255) =
        (List.range p.width).map (p.base.val + ·) := by
      rw [width, base, List.filter_eq_self]
      intro k listed
      obtain ⟨i, inside_i, rfl⟩ := List.mem_map.1 listed
      have := List.mem_range.1 inside_i
      simp
      omega
    rw [three]
    show (List.range p.width).map (p.base.val + ·) ++ [p.dataStrobe.val] ++
        (p.addressStrobe.toList ++ p.direction.toList ++ p.wait.toList).map (·.val) =
      ((List.range (byteAt e 7)).map (byteAt e 6 + ·) ++
        ([byteAt e 8] ++ ([byteAt e 9] ++ ([byteAt e 10] ++ [byteAt e 11])))).filter (· ≠ 255)
    rw [List.filter_append, List.filter_append, List.filter_append, List.filter_append, range, ← address,
      ← direction, ← wait, filter_channel _ strobe, List.map_append, List.map_append]
    simp only [List.append_assoc]
  case h_5 => cases read

theorem readLane_none (e : List Byte) : readLane e = none ↔ laneRefused e := by
  unfold laneRefused
  have channels : ∀ kind, readLaneKind e = some kind →
      (channelsDiffer kind = false ↔ ¬((assignedChannels e).filter (· ≠ 255)).Nodup) := by
    intro kind read
    rw [← laneChannels_read read, channelsDiffer, decide_eq_false_iff_not]
  rw [← or_assoc (a := 3 < byteAt e 1)]
  exact bind_none_or toFlag_none fun _ _ => bind_none_or (readLaneKind_none e) fun kind read =>
    ite_eq_right_iff.trans (by rw [← channels kind read]; simp)

theorem readLane_stored {e : List Byte} {v : LaneEntry} (read : readLane e = some v) : LaneStored e v := by
  simp only [readLane, Option.bind_eq_bind, Option.bind_eq_some_iff] at read
  obtain ⟨enable, henable, kind, hkind, read⟩ := read
  split at read
  · cases read
    refine ⟨(toFlag_some henable).1, ⟨rfl, rfl⟩, ?_, ?_, ?_, ?_⟩ <;> intro code <;>
      simp only [readLaneKind, code, Option.map_eq_some_iff] at hkind
    case refine_1 =>
      obtain ⟨p, hp, rfl⟩ := hkind
      exact ⟨p, rfl, readAsync_some hp⟩
    case refine_2 =>
      obtain ⟨p, hp, rfl⟩ := hkind
      exact ⟨p, rfl, (readClocked_some hp).1⟩
    case refine_3 =>
      obtain ⟨p, hp, rfl⟩ := hkind
      exact ⟨p, rfl, readTwoWire_some hp⟩
    case refine_4 =>
      obtain ⟨p, hp, rfl⟩ := hkind
      exact ⟨p, rfl, (readStrobed_some hp).1⟩
  · cases read

/-! ### A WRITE of one entry of the tables without a row of their own -/

section

variable {c : LinkCell} {rest : List LinkCell} {s : State} {table : Byte} {k : Nat} {e : List Byte}

/-- A WRITE of one entry whose bytes a reader takes stores the value, and of one it refuses changes nothing. -/
theorem write_read {α : Type} {value : Option α} {f : α → State} {parts : List Part} (ready : Ready c rest s)
    (code : c.code = 1) (awake : s.pru.power ≠ .sleep) (one : OneEntry c s table k e)
    (plain : writeRow (table :: BitVec.ofNat 8 k :: e) = .write)
    (stores : storePlain table.toNat k e (popped rest s) = storeRead value f) (other : .queue ∉ parts)
    (frame : ∀ v, ChangesOnly parts (popped rest s) (f v)) :
    (∀ v, value = some v → exec .write s = .next (writeDone c (f v)) ∧
      answered c rest (.done []) (writeDone c (f v)) ∧ ChangesOnly (withDispatch parts) s (writeDone c (f v))) ∧
    (value = none → refuses .write c rest .badValue (BitVec.ofNat 8 k) s) := by
  have at0 : byteAt c.payload 0 = table.toNat := by rw [one.payload]; rfl
  have named := commandRow_of_payload code one.payload plain
  have owned : exec .write s = .next (writeTable (storePlain table.toNat) writeDone c (popped rest s)) :=
    (dispatch_owner ready named rfl (absurd · awake)).trans (by rw [at0])
  refine ⟨?_, ?_⟩
  · rintro v rfl
    obtain ⟨answer, frame⟩ := write_done (c := c) other (frame v)
    exact ⟨by rw [owned, writeTable_one_stored one.popped stores], answer, frame⟩
  · rintro rfl
    refine refuses_of_exec (owned.trans ?_)
    rw [writeTable_one_refused one.popped stores]
    rfl

end

section

variable (s : State)

theorem update_acquisition (x : AcqEntry) : ChangesOnly [.acqTable, .ce] s { s with ce.table := x } := by
  intro p untouched
  cases p <;> first
    | rfl | exact ⟨rfl, rfl⟩ | exact ⟨rfl, rfl, rfl⟩ | exact fun _ => rfl | simp at untouched

theorem update_sequencer (x : Ts) : ChangesOnly [.tsTables, .ts] s { s with ts := x } := by
  intro p untouched
  cases p <;> first
    | rfl | exact ⟨rfl, rfl⟩ | exact ⟨rfl, rfl, rfl⟩ | exact fun _ => rfl | simp at untouched

theorem update_laneTable (x : Vector LaneEntry 4) : ChangesOnly [.laneTable] s { s with laneTable := x } := by
  intro p untouched
  cases p <;> first
    | rfl | exact ⟨rfl, rfl⟩ | exact ⟨rfl, rfl, rfl⟩ | exact fun _ => rfl | simp at untouched

theorem update_fieldMap (x : Vector FieldEntry 32) : ChangesOnly [.fieldMap] s { s with fieldMap := x } := by
  intro p untouched
  cases p <;> first
    | rfl | exact ⟨rfl, rfl⟩ | exact ⟨rfl, rfl, rfl⟩ | exact fun _ => rfl | simp at untouched

theorem update_viewSets (a b : ViewSet) :
    ChangesOnly [.viewSets, .re] s { s with re := { s.re with setA := a, setB := b } } := by
  intro p untouched
  cases p <;> first
    | rfl | exact ⟨rfl, rfl⟩ | exact ⟨rfl, rfl, rfl⟩ | exact fun _ => rfl | simp at untouched

theorem update_palette (x : Vector (BitVec 16) 256) :
    ChangesOnly [.palette, .su] s { s with su.palette := x } := by
  intro p untouched
  cases p <;> first
    | rfl | exact ⟨rfl, rfl⟩ | exact ⟨rfl, rfl, rfl⟩ | exact fun _ => rfl | simp at untouched

theorem update_glyphs (x : Vector (BitVec 60) 64) :
    ChangesOnly [.glyphs, .su] s { s with su.glyphs := x } := by
  intro p untouched
  cases p <;> first
    | rfl | exact ⟨rfl, rfl⟩ | exact ⟨rfl, rfl, rfl⟩ | exact fun _ => rfl | simp at untouched

/-- A reader's value mapped before it is stored. -/
theorem storeRead_map {α β : Type} (value : Option α) (g : α → β) (f : β → State) :
    storeRead (value.map g) f = storeRead value fun v => f (g v) := by
  cases value <;> rfl

end

/-- Settles O52: a WRITE of one entry of the tables without a row of their own, and what each reader refuses and
takes. -/
theorem writeStoresAnEntryOrRefusesIt : Obligations.WriteStoresAnEntryOrRefusesIt := by
  refine ⟨?entries, fun e => ⟨⟨readAcq_none e, fun _ => readAcq_stored⟩, ⟨readTerm_none e, fun _ => readTerm_stored⟩,
    fun whole => ⟨readStage_none whole, fun _ => readStage_stored⟩,
    ⟨readCounter_none e, fun _ => readCounter_stored⟩, ⟨readLane_none e, fun _ => readLane_stored⟩,
    ⟨readField_none e, fun _ => readField_stored⟩,
    fun whole w h => ⟨readView_none w h e, fun _ => readView_stored whole⟩,
    ⟨readRow_none e, fun _ => readRow_stored⟩⟩⟩
  intro c rest s table k e stored ready code awake byte payload locked stored_iff
  have unlocked (low : table.toNat ≤ 9) : acquisitionFree s = true := (acquisitionFree_iff s).2 (locked low)
  simp only [stored_iff]
  refine ⟨?acq, ?term, ?stage, ?counter, ?lane, ?field, ?viewA, ?viewB, ?rowA, ?rowB, ?colour, ?glyph⟩
  case acq =>
    rintro rfl rfl whole
    have one : OneEntry c s 0 0 e := ⟨payload, by decide, by decide, whole, unlocked (by decide)⟩
    obtain ⟨stores, refused⟩ := write_read ready code awake one rfl rfl (by decide)
      (fun v => update_acquisition (popped rest s) v)
    split
    · next v read =>
      obtain ⟨taken, answer, frame⟩ := stores v read
      exact ⟨_, taken, answer, by simp only [writeDone, putReply_ce, popped_ce], frame⟩
    · next unread => exact refused unread
  case term =>
    rintro i rfl rfl whole
    have one : OneEntry c s 5 i e := ⟨payload, by decide, i.isLt, whole, unlocked (by decide)⟩
    obtain ⟨stores, refused⟩ := write_read ready code awake one rfl rfl (by decide)
      (fun v => update_sequencer (popped rest s) _)
    split
    · next v read =>
      obtain ⟨taken, answer, frame⟩ := stores v read
      exact ⟨_, taken, answer, by simp only [writeDone, putReply_ts, popped_ts, fin_ofNat_val], frame⟩
    · next unread => exact refused unread
  case stage =>
    rintro i rfl rfl whole
    have one : OneEntry c s 6 i e := ⟨payload, by decide, i.isLt, whole, unlocked (by decide)⟩
    obtain ⟨stores, refused⟩ := write_read ready code awake one rfl rfl (by decide)
      (fun v => update_sequencer (popped rest s) _)
    split
    · next v read =>
      obtain ⟨taken, answer, frame⟩ := stores v read
      exact ⟨_, taken, answer, by simp only [writeDone, putReply_ts, popped_ts, fin_ofNat_val], frame⟩
    · next unread => exact refused unread
  case counter =>
    rintro i rfl rfl whole
    have one : OneEntry c s 7 i e := ⟨payload, by decide, i.isLt, whole, unlocked (by decide)⟩
    obtain ⟨stores, refused⟩ := write_read ready code awake one rfl rfl (by decide)
      (fun v => update_sequencer (popped rest s) _)
    split
    · next v read =>
      obtain ⟨taken, answer, frame⟩ := stores v read
      exact ⟨_, taken, answer, by simp only [writeDone, putReply_ts, popped_ts, fin_ofNat_val], frame⟩
    · next unread => exact refused unread
  case lane =>
    rintro i rfl rfl whole
    have one : OneEntry c s 8 i e := ⟨payload, by decide, i.isLt, whole, unlocked (by decide)⟩
    obtain ⟨stores, refused⟩ := write_read ready code awake one rfl rfl (by decide)
      (fun v => update_laneTable (popped rest s) _)
    split
    · next v read =>
      obtain ⟨taken, answer, frame⟩ := stores v read
      exact ⟨_, taken, answer, by simp only [writeDone, putReply_laneTable, popped_laneTable, fin_ofNat_val], frame⟩
    · next unread => exact refused unread
  case field =>
    rintro i rfl rfl whole
    have one : OneEntry c s 9 i e := ⟨payload, by decide, i.isLt, whole, unlocked (by decide)⟩
    obtain ⟨stores, refused⟩ := write_read ready code awake one rfl rfl (by decide)
      (fun v => update_fieldMap (popped rest s) _)
    split
    · next v read =>
      obtain ⟨taken, answer, frame⟩ := stores v read
      exact ⟨_, taken, answer, by simp only [writeDone, putReply_fieldMap, popped_fieldMap, fin_ofNat_val], frame⟩
    · next unread => exact refused unread
  case viewA =>
    rintro rfl rfl whole active
    have one : OneEntry c s 10 0 e := ⟨payload, by decide, by decide, whole, by simp [writable, active]⟩
    obtain ⟨stores, refused⟩ := write_read ready code awake one rfl
      (storeRead_map (readView (popped rest s).su.panel.width (popped rest s).su.panel.height e) _ _)
      (by decide) (fun v => update_viewSets (popped rest s) _ _)
    rw [popped_su] at stores refused
    split
    · next v read =>
      obtain ⟨taken, answer, frame⟩ := stores v read
      exact ⟨_, taken, answer, by simp only [writeDone, putReply_re, popped_re], frame⟩
    · next unread => exact refused unread
  case viewB =>
    rintro rfl rfl whole active
    have one : OneEntry c s 11 0 e := ⟨payload, by decide, by decide, whole, by simp [writable, active]⟩
    obtain ⟨stores, refused⟩ := write_read ready code awake one rfl
      (storeRead_map (readView (popped rest s).su.panel.width (popped rest s).su.panel.height e) _ _)
      (by decide) (fun v => update_viewSets (popped rest s) _ _)
    rw [popped_su] at stores refused
    split
    · next v read =>
      obtain ⟨taken, answer, frame⟩ := stores v read
      exact ⟨_, taken, answer, by simp only [writeDone, putReply_re, popped_re], frame⟩
    · next unread => exact refused unread
  case rowA =>
    rintro i rfl rfl whole active
    have one : OneEntry c s 10 (i + 1) e :=
      ⟨payload, by decide, Nat.succ_lt_succ i.isLt, whole, by simp [writable, active]⟩
    obtain ⟨stores, refused⟩ := write_read ready code awake one rfl (storeRead_map (readRow e) _ _)
      (by decide) (fun v => update_viewSets (popped rest s) _ _)
    split
    · next v read =>
      obtain ⟨taken, answer, frame⟩ := stores v read
      exact ⟨_, taken, answer,
        by simp only [writeDone, putReply_re, popped_re, Nat.add_sub_cancel, fin_ofNat_val], frame⟩
    · next unread => exact refused unread
  case rowB =>
    rintro i rfl rfl whole active
    have one : OneEntry c s 11 (i + 1) e :=
      ⟨payload, by decide, Nat.succ_lt_succ i.isLt, whole, by simp [writable, active]⟩
    obtain ⟨stores, refused⟩ := write_read ready code awake one rfl (storeRead_map (readRow e) _ _)
      (by decide) (fun v => update_viewSets (popped rest s) _ _)
    split
    · next v read =>
      obtain ⟨taken, answer, frame⟩ := stores v read
      exact ⟨_, taken, answer,
        by simp only [writeDone, putReply_re, popped_re, Nat.add_sub_cancel, fin_ofNat_val], frame⟩
    · next unread => exact refused unread
  case colour =>
    rintro i rfl rfl whole
    have one : OneEntry c s 13 i e := ⟨payload, by decide, i.isLt, whole, rfl⟩
    obtain ⟨stores, _⟩ := write_read (value := some (BitVec.ofNat 16 (numAt e 0 2))) ready code awake one rfl rfl
      (by decide) (fun v => update_palette (popped rest s) _)
    obtain ⟨taken, answer, frame⟩ := stores _ rfl
    exact ⟨_, taken, answer, by simp only [writeDone, putReply_su, popped_su, fin_ofNat_val], frame⟩
  case glyph =>
    rintro i rfl rfl whole job
    have one : OneEntry c s 14 i e := ⟨payload, by decide, i.isLt, whole, by simp [writable, job]⟩
    obtain ⟨stores, _⟩ := write_read (value := some (BitVec.ofNat 60 (numAt e 0 8))) ready code awake one rfl rfl
      (by decide) (fun v => update_glyphs (popped rest s) _)
    obtain ⟨taken, answer, frame⟩ := stores _ rfl
    exact ⟨_, taken, answer, by simp only [writeDone, putReply_su, popped_su, fin_ofNat_val], frame⟩

end Sys2Proof.Machine
end

section
/-! SUPPORT. What is stored or sent reads back: records, symbols and the entries of the tables (R19, R52, R114,
R169, R185, R187). -/

namespace Sys2Proof.Machine

/-! ### Bytes as fields -/

theorem cons_eq_leBytes (b : Byte) (rest : List Byte) : b :: rest = leBytes 1 b.toNat ++ rest := by
  simp [leBytes]

theorem zeros_eq_leBytes_zero (n : Nat) : zeros n = leBytes n 0 := by
  induction n with
  | zero => rfl
  | succ n ih =>
    rw [leBytes, Nat.zero_div, ← ih]
    rfl

theorem getD_eq_ofNat (bs : List Byte) (i : Nat) : bs.getD i 0 = BitVec.ofNat 8 (numAt bs i 1) := by
  rw [← byteAt_eq_numAt, byteAt, BitVec.ofNat_toNat, BitVec.setWidth_eq]

theorem numAt_lt (bs : List Byte) (a k : Nat) : numAt bs a k < 256 ^ k := by
  have bound := leNat_lt (bytesAt bs a k)
  have short : (bytesAt bs a k).length ≤ k := by
    rw [bytesAt, List.length_take]
    exact min_le_left _ _
  exact Nat.lt_of_lt_of_le bound (Nat.pow_le_pow_right (by omega) short)

@[simp] theorem numAt_two_lt (bs : List Byte) (a : Nat) : numAt bs a 2 < 65536 := numAt_lt bs a 2
@[simp] theorem numAt_three_lt (bs : List Byte) (a : Nat) : numAt bs a 3 < 16777216 := numAt_lt bs a 3
@[simp] theorem numAt_four_lt (bs : List Byte) (a : Nat) : numAt bs a 4 < 4294967296 := numAt_lt bs a 4

theorem byteAt_lt (bs : List Byte) (i : Nat) : byteAt bs i < 256 := (bs.getD i 0).isLt

@[simp] theorem toFin_val {n : Nat} (i : Fin n) : toFin n i.val = some i := toFin_some.2 rfl

@[simp] theorem toFlag_flag (b : Bool) : toFlag (flag b % 256) = some b := by cases b <;> rfl

@[simp] theorem toPolarity_polarityCode (p : Polarity) : toPolarity (polarityCode p % 256) = some p := by
  cases p <;> rfl

@[simp] theorem bitAt_flag (b : Bool) : bitAt (flag b % 256) 0 = b := by cases b <;> rfl

@[simp] theorem bitAt_flags (a b : Bool) : bitAt ((flag a + 2 * flag b) % 256) 0 = a ∧
    bitAt ((flag a + 2 * flag b) % 256) 1 = b := by
  cases a <;> cases b <;> decide

/-- A signed field holds every number of its width. -/
theorem leInt_signedBytes {k : Nat} {i : Int} (low : -(256 ^ k : Nat) ≤ 2 * i) (high : 2 * i < (256 ^ k : Nat)) :
    leInt (signedBytes k i) = i := by
  have positive : 0 < 256 ^ k := Nat.pow_pos (by omega)
  generalize hm : 256 ^ k = m at *
  have value : leNat (signedBytes k i) = (i % (m : Int)).toNat := by
    rw [signedBytes, hm, leNat_leBytes_mod, hm, Nat.mod_eq_of_lt]
    have := Int.emod_lt_of_pos i (show (0 : Int) < m by omega)
    omega
  have nonneg := Int.emod_nonneg i (show (m : Int) ≠ 0 by omega)
  have bound := Int.emod_lt_of_pos i (show (0 : Int) < m by omega)
  rw [leInt, value, show (signedBytes k i).length = k from leBytes_length _ _, hm]
  by_cases negative : i < 0
  · have wraps : i % (m : Int) = i + m := by
      rw [← Int.add_emod_right, Int.emod_eq_of_lt (by omega) (by omega)]
    rw [if_neg (by omega)]
    omega
  · have same : i % (m : Int) = i := Int.emod_eq_of_lt (by omega) (by omega)
    rw [if_pos (by omega)]
    omega

@[simp] theorem word_mod (x : Word) : BitVec.ofNat 32 (x.toNat % 4294967296) = x := by
  rw [Nat.mod_eq_of_lt x.isLt, BitVec.ofNat_toNat, BitVec.setWidth_eq]

@[simp] theorem time_mod (x : Time) : BitVec.ofNat 48 (x.toNat % 281474976710656) = x := by
  rw [Nat.mod_eq_of_lt x.isLt, BitVec.ofNat_toNat, BitVec.setWidth_eq]

@[simp] theorem byte_mod (x : Byte) : BitVec.ofNat 8 (x.toNat % 256) = x := by
  rw [Nat.mod_eq_of_lt x.isLt, BitVec.ofNat_toNat, BitVec.setWidth_eq]

/-! ### Records and symbols (R19, R114) -/

theorem record_flags (a b c d : Bool) :
    let byte := BitVec.ofNat 8 (flag a + 2 * flag b + 4 * flag c + 8 * flag d)
    byte.getLsbD 0 = a ∧ byte.getLsbD 1 = b ∧ byte.getLsbD 2 = c ∧ byte.getLsbD 3 = d := by
  revert a b c d
  decide

theorem recordOf_recordBytes (r : Record) (small : r.duration < 16777216) :
    recordOf (recordBytes r) = r ∧ (recordBytes r).length = 8 := by
  obtain ⟨value, duration, point, continuation, gap, loop⟩ := r
  obtain ⟨h0, h1, h2, h3⟩ := record_flags point continuation gap loop
  have flags : (recordBytes ⟨value, duration, point, continuation, gap, loop⟩).getD 7 0 =
      BitVec.ofNat 8 (flag point + 2 * flag continuation + 4 * flag gap + 8 * flag loop) := rfl
  refine ⟨?_, by simp [recordBytes]⟩
  rw [recordOf, flags, h0, h1, h2, h3]
  simp only [recordBytes, List.append_assoc, numAt_head, Record.mk.injEq, and_true]
  refine ⟨?_, ?_⟩
  · simp
  · rw [numAt_skip (by omega), numAt_head]
    exact Nat.mod_eq_of_lt small

theorem symbolOf_symbolBytes (y : Symbol) (small : y.duration < 16777216) (low : y.position < 256) :
    symbolOf (symbolBytes y) = y ∧ (symbolBytes y).length = 16 := by
  obtain ⟨lane, kind, value, start, duration, tags, position⟩ := y
  have code : symbolKindCode kind < 8 := by cases kind <;> decide
  have kinds : symbolKindOf (symbolKindCode kind) = kind := by cases kind <;> rfl
  refine ⟨?_, by simp [symbolBytes]⟩
  simp only [symbolOf, symbolBytes, byteAt_eq_numAt, getD_eq_ofNat, Symbol.mk.injEq]
  simp only [cons_eq_leBytes, List.append_nil, List.append_assoc]
  have inside := lane.isLt
  have fits : (lane.val + 4 * symbolKindCode kind) % 256 = lane.val + 4 * symbolKindCode kind :=
    Nat.mod_eq_of_lt (by omega)
  have kind_code : (lane.val + 4 * symbolKindCode kind) / 4 % 8 = symbolKindCode kind := by omega
  simp [fits, kind_code, kinds]
  exact ⟨Fin.ext (by simp only [Fin.val_natCast]; omega), small, low⟩

/-! ### The entries of the tables (R187) -/

section

variable {e : List Byte}

theorem readAcq_acqBytes {v : AcqEntry} (read : readAcq e = some v) :
    readAcq (acqBytes v) = some v ∧ (acqBytes v).length = 20 := by
  obtain ⟨_, _, _, _, ⟨floor, count⟩, divisor, post, pre⟩ := readAcq_stored read
  have h1 := numAt_lt e 12 4
  have h2 := numAt_lt e 16 4
  obtain ⟨mode, vdivisor, width, clock, edge, loop, vpost, vpre, vfloor, vcount⟩ := v
  refine ⟨?_, by simp [acqBytes, zeros]⟩
  simp only at floor count divisor post pre
  obtain ⟨s1, s2, s3, s4, s5⟩ : vdivisor % 4294967296 = vdivisor ∧ vpost % 4294967296 = vpost ∧
    vpre % 4294967296 = vpre ∧ vfloor % 256 = vfloor ∧ vcount % 256 = vcount := by omega
  obtain ⟨c1, c2, c3⟩ : max 1 (min 1048576 vdivisor) = vdivisor ∧ min 32 vfloor = vfloor ∧
    min 32 vcount = vcount := by omega
  cases mode <;> cases width <;>
    simp [readAcq, acqBytes, byteAt_eq_numAt, zeros_eq_leBytes_zero, fin_mod_256, clamp, toCaptureMode, toWidth,
      s1, s2, s3, s4, s5, c1, c2, c3]

theorem storedThreshold_bounds (mv : Int) : -5000 ≤ storedThreshold mv ∧ storedThreshold mv ≤ 5000 ∧
    storedThreshold (storedThreshold mv) = storedThreshold mv := by
  unfold storedThreshold clampInt
  have low : -5000 ≤ max (-5000) (min 5000 mv) := le_max_left _ _
  have high : max (-5000) (min 5000 mv) ≤ 5000 := by omega
  generalize max (-5000) (min 5000 mv) = x at *
  have toward_zero : -5000 ≤ x.tdiv 10 * 10 ∧ x.tdiv 10 * 10 ≤ 5000 := by
    obtain ⟨n, rfl | rfl⟩ := Int.eq_nat_or_neg x
    · rw [Int.tdiv_eq_ediv_of_nonneg (Int.natCast_nonneg n)]
      omega
    · rw [Int.neg_tdiv, Int.tdiv_eq_ediv_of_nonneg (Int.natCast_nonneg n)]
      omega
  obtain ⟨down, up⟩ := toward_zero
  refine ⟨down, up, ?_⟩
  rw [min_eq_right up, max_eq_right down, Int.mul_tdiv_cancel _ (by decide)]

theorem readPod_podBytes {v : PodEntry} (read : readPod e = v) :
    readPod (podBytes v) = v ∧ (podBytes v).length = 4 := by
  subst read
  obtain ⟨low, high, fixed⟩ := storedThreshold_bounds (leInt (bytesAt e 0 2))
  have hysteresis : storedHysteresis (numAt e 2 2) = 0 ∨ storedHysteresis (numAt e 2 2) = 25 ∨
      storedHysteresis (numAt e 2 2) = 50 ∨ storedHysteresis (numAt e 2 2) = 100 := by
    unfold storedHysteresis
    split <;> omega
  generalize hh : storedHysteresis (numAt e 2 2) = h at *
  have kept : storedHysteresis h = h := by rcases hysteresis with rfl | rfl | rfl | rfl <;> rfl
  have length : (podBytes (readPod e)).length = 4 := by simp [podBytes, signedBytes]
  refine ⟨?_, length⟩
  unfold readPod podBytes
  rw [hh]
  dsimp only
  have first : bytesAt (signedBytes 2 (storedThreshold (leInt (bytesAt e 0 2))) ++ leBytes 2 h) 0 2 =
      signedBytes 2 (storedThreshold (leInt (bytesAt e 0 2))) := bytesAt_head _ _ _
  have second : numAt (signedBytes 2 (storedThreshold (leInt (bytesAt e 0 2))) ++ leBytes 2 h) 2 2 = h := by
    rw [signedBytes, numAt_skip (by omega), numAt_last]
    exact Nat.mod_eq_of_lt (by omega)
  rw [first, second, leInt_signedBytes (by omega) (by omega), fixed, kept]

theorem readGen_genBytes {v : GenEntry} (read : readGen e = some v) :
    readGen (genBytes v) = some v ∧ (genBytes v).length = 8 := by
  have h1 := numAt_two_lt e 2
  obtain ⟨mode, hmode, ⟨⟩⟩ := Option.bind_eq_some_iff.1 read
  refine ⟨?_, by simp [genBytes, zeros]⟩
  unfold clamp
  generalize hhalf : max 1 (min 16777216 (numAt e 4 4)) = half
  generalize hburst : max 1 (numAt e 2 2) = burst
  obtain ⟨s1, s2⟩ : burst % 65536 = burst ∧ half % 4294967296 = half := by omega
  obtain ⟨c1, c2⟩ : max 1 (min 16777216 half) = half ∧ max 1 burst = burst := by omega
  cases mode <;> simp [readGen, genBytes, byteAt_eq_numAt, zeros_eq_leBytes_zero, toGenMode, genModeCode, clamp, s1,
    s2, c1, c2]

theorem readRegions_regionBytes {v : Regions} (read : readRegions e = v) :
    readRegions (regionBytes v) = v ∧ (regionBytes v).length = 4 := by
  subst read
  simp [readRegions, regionBytes]

theorem readPlan_planBytes {v : PlanEntry} (read : readPlan e = some v) :
    readPlan (planBytes v) = some v ∧ (planBytes v).length = 10 := by
  obtain ⟨planned, _, ⟨⟩⟩ := Option.bind_eq_some_iff.1 read
  refine ⟨?_, by simp [planBytes, zeros]⟩
  simp [readPlan, planBytes, byteAt_eq_numAt, zeros_eq_leBytes_zero]

theorem readTerm_termBytes {v : Term} (read : readTerm e = some v) :
    readTerm (termBytes v) = some v ∧ (termBytes v).length = 16 := by
  obtain ⟨negate, kind⟩ := v
  cases kind
  case never => simp [readTerm, readTermKind, termBytes, byteAt_eq_numAt, zeros_eq_leBytes_zero]
  case pattern mask value => simp [readTerm, readTermKind, termBytes, byteAt_eq_numAt, zeros_eq_leBytes_zero]
  case edge k p =>
    simp [readTerm, readTermKind, termBytes, byteAt_eq_numAt, zeros_eq_leBytes_zero, fin_mod_256]
  case symbol l kinds required forbidden mask value =>
    simp only [readTerm, readTermKind, termBytes, byteAt_eq_numAt, zeros_eq_leBytes_zero, getD_eq_ofNat,
      cons_eq_leBytes]
    simp [fin_mod_256]
  case field f sense low high =>
    cases sense <;>
      simp [readTerm, readTermKind, termBytes, byteAt_eq_numAt, zeros_eq_leBytes_zero, fin_mod_256, toFlag]
  case counterExpired c =>
    simp [readTerm, readTermKind, termBytes, byteAt_eq_numAt, zeros_eq_leBytes_zero, fin_mod_256]

theorem readCounter_counterBytes {v : CounterEntry} (read : readCounter e = some v) :
    readCounter (counterBytes v) = some v ∧ (counterBytes v).length = 8 := by
  obtain ⟨source, hsource, ⟨⟩⟩ := Option.bind_eq_some_iff.1 read
  have h1 := numAt_four_lt e 0
  generalize hpreload : max 1 (numAt e 0 4) = preload
  obtain ⟨s1, c1⟩ : preload % 4294967296 = preload ∧ max 1 preload = preload := by omega
  cases source
  case samples => 
    simp [readCounter, readSource, counterBytes, byteAt_eq_numAt, cons_eq_leBytes, s1, c1]
  case ticks p => 
    simp [readCounter, readSource, counterBytes, byteAt_eq_numAt, zeros_eq_leBytes_zero, fin_mod_256, s1, c1]
  case termTrue j => 
    simp [readCounter, readSource, counterBytes, byteAt_eq_numAt, zeros_eq_leBytes_zero, fin_mod_256, s1, c1]
  case edge k p =>
    simp [readCounter, readSource, counterBytes, byteAt_eq_numAt, fin_mod_256, s1, c1]

theorem readField_fieldBytes {v : FieldEntry} (read : readField e = some v) :
    readField (fieldBytes v) = some v ∧ (fieldBytes v).length = 8 := by
  obtain ⟨lane, hlane, read⟩ := Option.bind_eq_some_iff.1 read
  split at read
  · next inside =>
    cases read
    rw [← toFin_some.1 hlane] at *
    unfold clamp
    generalize hwidth : max 1 (min 32 (byteAt e 5)) = width
    obtain ⟨s1, c1⟩ : width % 256 = width ∧ max 1 (min 32 width) = width := by omega
    generalize byteAt e 2 = first at *
    generalize byteAt e 3 = span at *
    generalize byteAt e 4 = startBit at *
    obtain ⟨s2, s3, s4⟩ : first % 256 = first ∧ span % 256 = span ∧ startBit % 256 = startBit := by omega
    simp [readField, fieldBytes, byteAt_eq_numAt, zeros_eq_leBytes_zero, fin_mod_256, s1, c1, s2, s3, s4, inside, clamp]
  · cases read

theorem readRow_rowBytes {v : Row} (read : readRow e = some v) :
    readRow (rowBytes v) = some v ∧ (rowBytes v).length = 24 := by
  have height := (readRow_stored read).height
  obtain ⟨kind, vheight, line, activity, text⟩ := v
  obtain ⟨s1, c1⟩ : vheight % 256 = vheight ∧ max 8 (min 64 vheight) = vheight := by
    simp only at height
    omega
  have low_byte (n : Nat) : leBytes 4 n = leBytes 1 n ++ leBytes 3 (n / 256) := rfl
  cases kind
  case spacer =>
    simp only [readRow, readRowKind, rowBytes, byteAt_eq_numAt, zeros_eq_leBytes_zero, getD_eq_ofNat,
      cons_eq_leBytes, clamp]
    simp [s1, c1]
  case channel k =>
    simp only [readRow, readRowKind, rowBytes, byteAt_eq_numAt, zeros_eq_leBytes_zero, getD_eq_ofNat,
      cons_eq_leBytes, clamp, low_byte]
    simp [fin_mod_256, s1, c1]
  case group m =>
    simp only [readRow, readRowKind, rowBytes, byteAt_eq_numAt, zeros_eq_leBytes_zero, getD_eq_ofNat,
      cons_eq_leBytes, clamp]
    simp [s1, c1]
  case lane l =>
    simp only [readRow, readRowKind, rowBytes, byteAt_eq_numAt, zeros_eq_leBytes_zero, getD_eq_ofNat,
      cons_eq_leBytes, clamp, low_byte]
    simp [fin_mod_256, s1, c1]

/-! ### Stages (R71) -/

/-- A number read past some bytes lies in what follows them. -/
theorem numAt_past {prior rest : List Byte} {a k : Nat} (past : prior.length ≤ a) :
    numAt (prior ++ rest) a k = numAt rest (a - prior.length) k := by
  unfold numAt bytesAt
  rw [List.drop_append, List.drop_eq_nil_of_le past, List.nil_append]

theorem readTermList_bytes (ts : List (Fin 16)) (rest : List Byte) :
    readTermList ts.length (ts.map (fun t => BitVec.ofNat 8 t.val) ++ rest) = some ts := by
  induction ts with
  | nil => rfl
  | cons t ts ih =>
    have first : toFin 16 (BitVec.ofNat 8 t.val).toNat = some t := by
      rw [BitVec.toNat_ofNat, Nat.mod_eq_of_lt (show t.val < 2 ^ 8 by omega), toFin_val]
    rw [List.length_cons, List.map_cons, List.cons_append, readTermList, first, ih]
    rfl

theorem toTarget_targetCode (target : Target) : toTarget (targetCode target % 256) = some target := by
  cases target with
  | stage n => 
    rw [targetCode, fin_mod_256 n (by decide)]
    exact dif_pos n.isLt
  | fire => rfl
  | stay => rfl

theorem actions_code (a b : CounterAction) :
    toAction (actionCode a % 4) = some a ∧
      toAction ((actionCode a + 4 * actionCode b) % 256 / 4 % 4) = some b := by
  cases a <;> cases b <;> exact ⟨rfl, rfl⟩

/-- A branch that a WRITE stores has at most four terms and a count of at least 1 in two bytes. -/
theorem readBranch_branchBytes {v : Branch} (terms : v.terms.length ≤ 4) (count : 1 ≤ v.count)
    (small : v.count < 65536) : readBranch (branchBytes v) = some v ∧ (branchBytes v).length = 10 := by
  obtain ⟨vterms, any, vcount, consecutive, target, a0, a1⟩ := v
  simp only at terms count small
  have prior : (vterms.map (fun t => BitVec.ofNat 8 t.val) ++ zeros (4 - vterms.length)).length = 4 := by
    simp [zeros]
    omega
  obtain ⟨h0, h1⟩ := actions_code a0 a1
  have listed := readTermList_bytes vterms (zeros (4 - vterms.length) ++ (leBytes 1 vterms.length ++
    (leBytes 1 (flag any + 2 * flag consecutive) ++ (leBytes 1 (targetCode target) ++
      (leBytes 1 (actionCode a0 + 4 * actionCode a1) ++ leBytes 2 vcount)))))
  have bytes : branchBytes ⟨vterms, any, vcount, consecutive, target, a0, a1⟩ =
      (vterms.map (fun t => BitVec.ofNat 8 t.val) ++ zeros (4 - vterms.length)) ++ (leBytes 1 vterms.length ++
    (leBytes 1 (flag any + 2 * flag consecutive) ++ (leBytes 1 (targetCode target) ++
      (leBytes 1 (actionCode a0 + 4 * actionCode a1) ++ leBytes 2 vcount)))) := by
    simp only [branchBytes, List.append_assoc]
  rw [← List.append_assoc, ← bytes] at listed
  have field (i k : Nat) (late : 4 ≤ i) := numAt_past (a := i) (k := k) (rest := leBytes 1 vterms.length ++
    (leBytes 1 (flag any + 2 * flag consecutive) ++ (leBytes 1 (targetCode target) ++
      (leBytes 1 (actionCode a0 + 4 * actionCode a1) ++ leBytes 2 vcount)))) (prior.le.trans late)
  simp only [← bytes, prior] at field
  refine ⟨?_, by rw [bytes, List.length_append, prior]; simp⟩
  unfold readBranch
  simp only [byteAt_eq_numAt, field 4 1 (by omega), field 5 1 (by omega), field 6 1 (by omega),
    field 7 1 (by omega), field 8 2 (by omega)]
  obtain ⟨t1, c1, c2⟩ : vterms.length % 256 = vterms.length ∧ max 1 vcount = vcount ∧
    vcount % 65536 = vcount := by omega
  simp [t1, c1, c2, listed, h0, h1, toTarget_targetCode, terms]

theorem branch_bounds {a : Nat} {v : Branch} (read : readBranch (bytesAt e a 10) = some v) :
    v.terms.length ≤ 4 ∧ 1 ≤ v.count ∧ v.count < 65536 := by
  have stored := readBranch_stored read
  have four : byteAt e (a + 4) ≤ 4 := by
    unfold readBranch at read
    split at read
    · cases read
    · next short =>
      rw [byteAt_bytesAt e (by omega)] at short
      omega
  have small := numAt_two_lt e (a + 8)
  have terms := congrArg List.length stored.terms
  rw [List.length_map, List.length_map, List.length_range] at terms
  have count := stored.count
  omega

theorem bytesAt_first {xs ys : List Byte} {n : Nat} (length : xs.length = n) : bytesAt (xs ++ ys) 0 n = xs := by
  rw [bytesAt, List.drop_zero, List.take_left' length]

theorem bytesAt_second {xs ys : List Byte} {n m : Nat} (length : xs.length = n) (length' : ys.length = m) :
    bytesAt (xs ++ ys) n m = ys := by
  rw [bytesAt, List.drop_left' length, List.take_of_length_le (Nat.le_of_eq length')]

theorem readStage_stageBytes {v : Stage} (read : readStage e = some v) :
    readStage (stageBytes v) = some v ∧ (stageBytes v).length = 20 := by
  simp only [readStage, Option.bind_eq_bind, Option.bind_eq_some_iff, Option.some.injEq] at read
  obtain ⟨p, hp, q, hq, rfl⟩ := read
  obtain ⟨terms, count, small⟩ := branch_bounds hp
  obtain ⟨terms', count', small'⟩ := branch_bounds hq
  obtain ⟨first, length⟩ := readBranch_branchBytes terms count small
  obtain ⟨second, length'⟩ := readBranch_branchBytes terms' count' small'
  refine ⟨?_, by rw [stageBytes, List.length_append, length, length']⟩
  unfold readStage stageBytes
  rw [bytesAt_first length, bytesAt_second length length', first, second]
  rfl

/-! ### Lanes (R86, R87) -/

@[simp] theorem toOptionalChannel_code (o : Option (Fin 32)) :
    toOptionalChannel (optionalChannelCode o % 256) = some o := by
  cases o with
  | none => rfl
  | some k =>
    have bound := k.isLt
    rw [optionalChannelCode, fin_mod_256 k (by decide), toOptionalChannel, if_neg (by omega), toFin_val]
    rfl

@[simp] theorem toParity_parityCode (p : Parity) : toParity (parityCode p % 256) = some p := by
  cases p <;> rfl

/-- The ten parameter bytes of a lane kind behind the six bytes of a descriptor that come before them. -/
def laneHead (enable code deglitch gap : Nat) (parameters : List Byte) : List Byte :=
  leBytes 1 enable ++ (leBytes 1 code ++ (leBytes 1 deglitch ++ (leBytes 1 0 ++ (leBytes 2 gap ++ parameters))))

theorem numAt_laneHead {enable code deglitch gap a k : Nat} {parameters : List Byte} (past : 6 ≤ a) :
    numAt (laneHead enable code deglitch gap parameters) a k = numAt parameters (a - 6) k := by
  rw [laneHead, numAt_skip (by omega), numAt_skip (by omega), numAt_skip (by omega), numAt_skip (by omega),
    numAt_skip (by omega), show a - 1 - 1 - 1 - 1 - 2 = a - 6 by omega]

section

variable (enable code deglitch gap : Nat)

theorem readAsync_bytes {p : AsyncParams} (read : readAsync e = some p) :
    readAsync (laneHead enable code deglitch gap (laneKindBytes (.async p))) = some p := by
  obtain ⟨_, _, bits, _, stops, _, period⟩ := readAsync_some read
  have h1 := numAt_three_lt e 12
  simp only [readAsync, Option.bind_eq_bind, Option.bind_eq_some_iff] at read
  obtain ⟨data, _, low, _, parity, _, msb, _, read⟩ := read
  split at read
  · next inside =>
    rw [← bits, ← stops] at inside
    obtain ⟨data, idle, vbits, parity, vstops, msb, bq⟩ := p
    simp only at inside period
    obtain ⟨s1, s2, s3, c3⟩ : vbits % 256 = vbits ∧ vstops % 256 = vstops ∧ bq % 16777216 = bq ∧
      max 1 bq = bq := by omega
    simp only [readAsync, byteAt_eq_numAt]
    simp [numAt_laneHead, laneKindBytes, fin_mod_256, s1, s2, s3, c3, inside]
  · cases read

theorem readClocked_bytes {p : ClockedParams} (read : readClocked e = some p) :
    readClocked (laneHead enable code deglitch gap (laneKindBytes (.clocked p))) = some p := by
  obtain ⟨⟨_, _, _, _, _, _, size, _⟩, _⟩ := readClocked_some read
  simp only [readClocked, Option.bind_eq_bind, Option.bind_eq_some_iff] at read
  obtain ⟨clock, _, a, _, b, _, select, _, falling, _, high, _, msb, _, read⟩ := read
  split at read
  · next inside =>
    rw [← size] at inside
    obtain ⟨clock, a, b, select, falling, high, word, msb⟩ := p
    simp only at inside
    have s1 : word % 256 = word := by omega
    simp only [readClocked, byteAt_eq_numAt]
    simp [numAt_laneHead, laneKindBytes, fin_mod_256, s1, inside]
  · cases read

theorem readTwoWire_bytes {p : TwoWireParams} (read : readTwoWire e = some p) :
    readTwoWire (laneHead enable code deglitch gap (laneKindBytes (.twoWire p))) = some p := by
  obtain ⟨_, _, stretch⟩ := readTwoWire_some read
  obtain ⟨clock, data, limit⟩ := p
  simp only at stretch
  obtain ⟨s1, c1⟩ : limit % 4294967296 = limit ∧ max 1 (min 16777216 limit) = limit := by omega
  simp only [readTwoWire, byteAt_eq_numAt]
  simp [numAt_laneHead, laneKindBytes, fin_mod_256, clamp, s1, c1]

theorem readStrobed_bytes {p : StrobedParams} (read : readStrobed e = some p) :
    readStrobed (laneHead enable code deglitch gap (laneKindBytes (.strobed p))) = some p := by
  obtain ⟨⟨base, width, _, _, _, _, limit⟩, _⟩ := readStrobed_some read
  have h1 := numAt_two_lt e 12
  simp only [readStrobed, Option.bind_eq_bind, Option.bind_eq_some_iff] at read
  obtain ⟨first, named, strobe, _, address, _, direction, _, wait, _, read⟩ := read
  split at read
  · next inside =>
    rw [toFin_some.1 named, ← base, ← width] at inside
    obtain ⟨base, vwidth, strobe, address, direction, wait, vlimit⟩ := p
    simp only at inside limit
    obtain ⟨s1, s2, c2⟩ : vwidth % 256 = vwidth ∧ vlimit % 65536 = vlimit ∧ max 1 vlimit = vlimit := by omega
    simp only [readStrobed, byteAt_eq_numAt]
    simp [numAt_laneHead, laneKindBytes, fin_mod_256, s1, s2, c2, inside]
  · cases read

/-- A lane kind that is read reads back from a descriptor's bytes. -/
theorem readLaneKind_bytes {kind : LaneKind} (read : readLaneKind e = some kind) :
    readLaneKind (laneHead enable (laneKindCode kind) deglitch gap (laneKindBytes kind)) = some kind := by
  have coded : byteAt (laneHead enable (laneKindCode kind) deglitch gap (laneKindBytes kind)) 1 =
      laneKindCode kind := by
    have small : laneKindCode kind < 256 := by cases kind <;> simp [laneKindCode]
    simp [byteAt_eq_numAt, laneHead, Nat.mod_eq_of_lt small]
  unfold readLaneKind
  rw [coded]
  unfold readLaneKind at read
  split at read
  case h_1 =>
    obtain ⟨p, hp, rfl⟩ := Option.map_eq_some_iff.1 read
    exact congrArg (Option.map LaneKind.async) (readAsync_bytes enable _ deglitch gap hp)
  case h_2 =>
    obtain ⟨p, hp, rfl⟩ := Option.map_eq_some_iff.1 read
    exact congrArg (Option.map LaneKind.clocked) (readClocked_bytes enable _ deglitch gap hp)
  case h_3 =>
    obtain ⟨p, hp, rfl⟩ := Option.map_eq_some_iff.1 read
    exact congrArg (Option.map LaneKind.twoWire) (readTwoWire_bytes enable _ deglitch gap hp)
  case h_4 =>
    obtain ⟨p, hp, rfl⟩ := Option.map_eq_some_iff.1 read
    exact congrArg (Option.map LaneKind.strobed) (readStrobed_bytes enable _ deglitch gap hp)
  case h_5 => cases read

end

theorem readLane_laneBytes {v : LaneEntry} (read : readLane e = some v) :
    readLane (laneBytes v) = some v ∧ (laneBytes v).length = 16 := by
  obtain ⟨glitch, gap⟩ := (readLane_stored read).common
  simp only [readLane, Option.bind_eq_bind, Option.bind_eq_some_iff] at read
  obtain ⟨enable, _, kind, hkind, read⟩ := read
  split at read
  · next distinct =>
    cases read
    simp only at glitch gap
    generalize hg : min 15 (byteAt e 2) = deglitch at *
    generalize hp : clamp 1 1024 (numAt e 4 2) = period at *
    obtain ⟨s1, c1, s2, c2⟩ : deglitch % 256 = deglitch ∧ min 15 deglitch = deglitch ∧ period % 65536 = period ∧
      clamp 1 1024 period = period := by
      unfold clamp
      omega
    have bytes : laneBytes ⟨enable, kind, deglitch, period⟩ =
        laneHead (flag enable) (laneKindCode kind) deglitch period (laneKindBytes kind) := by
      simp [laneBytes, laneHead, zeros_eq_leBytes_zero]
    rw [bytes]
    refine ⟨?_, ?_⟩
    · rw [readLane, readLaneKind_bytes _ _ _ hkind]
      simp [laneHead, byteAt_eq_numAt, s1, c1, s2, c2, distinct]
    · rw [← bytes]
      cases kind <;> simp [laneBytes, laneKindBytes, zeros]
  · cases read

/-! ### Views, cursors, the panel, power and notices (R131, R152, R158, R177) -/

theorem clampArea_clampArea (w h : Nat) (v : View) : clampArea w h (clampArea w h v) = clampArea w h v := by
  unfold clampArea clamp
  simp only [View.mk.injEq, true_and, and_true]
  omega

theorem clampInt_offset (x : Int) : leInt (signedBytes 6 (clampInt (-maxOffset) maxOffset x)) =
      clampInt (-maxOffset) maxOffset x ∧
    clampInt (-maxOffset) maxOffset (clampInt (-maxOffset) maxOffset x) = clampInt (-maxOffset) maxOffset x := by
  unfold clampInt maxOffset
  refine ⟨leInt_signedBytes ?_ ?_, ?_⟩ <;> omega

/-- A field of a byte or two as stored: within its range, it reads back. -/
theorem clamped_stored {lo hi n v m : Nat} (stored : v = max lo (min hi n)) (order : lo ≤ hi) (fits : hi < m) :
    v % m = v ∧ max lo (min hi v) = v := by
  refine ⟨Nat.mod_eq_of_lt ?_, ?_⟩ <;> omega

theorem raised_stored {n v m : Nat} (stored : v = max 1 n) (fits : n < m) (room : 1 < m) :
    v % m = v ∧ max 1 v = v := by
  refine ⟨Nat.mod_eq_of_lt ?_, ?_⟩ <;> omega

theorem clamp_lt {hi n m : Nat} (fits : n < m) (room : 1 < m) : clamp 1 hi n < m := by
  unfold clamp
  omega

/-- What the fields of a stored view keep of the sizes they were read with. -/
structure ViewFits (v : View) : Prop where
  zoom : v.zoom % 4294967296 = v.zoom ∧ max 1 v.zoom = v.zoom
  left : v.left % 65536 = v.left
  top : v.top % 65536 = v.top
  width : v.width % 65536 = v.width
  height : v.height % 65536 = v.height
  rows : v.rowCount % 256 = v.rowCount ∧ min 40 v.rowCount = v.rowCount
  origin : leInt (signedBytes 6 v.origin) = v.origin ∧ clampInt (-maxOffset) maxOffset v.origin = v.origin

theorem readView_fits {w h : Nat} {v : View} (read : readView w h e = some v) : ViewFits v := by
  simp only [readView, Option.bind_eq_bind, Option.bind_eq_some_iff, Option.some.injEq] at read
  obtain ⟨_, _, start, _, rfl⟩ := read
  exact
    { zoom := raised_stored rfl (numAt_four_lt e 10) (by decide)
      left := Nat.mod_eq_of_lt ((min_le_left _ _).trans_lt (numAt_two_lt e 14))
      top := Nat.mod_eq_of_lt ((min_le_left _ _).trans_lt (numAt_two_lt e 16))
      width := Nat.mod_eq_of_lt (clamp_lt (numAt_two_lt e 18) (by decide))
      height := Nat.mod_eq_of_lt (clamp_lt (numAt_two_lt e 20) (by decide))
      rows := ⟨Nat.mod_eq_of_lt ((min_le_left _ _).trans_lt (by decide)), by simp [clampArea]⟩
      origin := clampInt_offset _ }

theorem readView_viewBytes {w h : Nat} {v : View} (read : readView w h e = some v) :
    readView w h (viewBytes v) = some v ∧ (viewBytes v).length = 24 := by
  have fixed : clampArea w h v = v := by
    simp only [readView, Option.bind_eq_bind, Option.bind_eq_some_iff, Option.some.injEq] at read
    obtain ⟨_, _, _, _, rfl⟩ := read
    exact clampArea_clampArea w h _
  obtain ⟨⟨s1, c1⟩, s2, s3, s4, s5, ⟨s6, c2⟩, signed, offset⟩ := readView_fits read
  clear read
  obtain ⟨segment, reference, origin, zoom, left, top, width, height, rows⟩ := v
  dsimp only at s1 s2 s3 s4 s5 s6 c1 c2 signed offset
  have read_origin : bytesAt (viewBytes ⟨segment, reference, origin, zoom, left, top, width, height, rows⟩) 4 6 =
      signedBytes 6 origin := by
    simp [viewBytes, signedBytes, zeros_eq_leBytes_zero]
  refine ⟨?_, by simp [viewBytes, signedBytes, zeros]⟩
  rw [readView, read_origin, signed, offset]
  cases reference <;>
    simp [viewBytes, signedBytes, zeros_eq_leBytes_zero, byteAt_eq_numAt, fin_mod_256, toFlag, s1, s2, s3, s4, s5, s6,
      c1, c2, fixed]

theorem readCursor_cursorBytes {v : Cursor} (read : readCursor e = v) :
    readCursor (cursorBytes v) = v ∧ (cursorBytes v).length = 8 := by
  subst read
  obtain ⟨signed, offset⟩ := clampInt_offset (leInt (bytesAt e 2 6))
  have read_offset : bytesAt (cursorBytes (readCursor e)) 2 6 =
      signedBytes 6 (clampInt (-maxOffset) maxOffset (leInt (bytesAt e 2 6))) := by
    simp [cursorBytes, readCursor, signedBytes, cons_eq_leBytes]
  refine ⟨?_, by simp [cursorBytes, signedBytes]⟩
  rw [readCursor, read_offset, signed, offset]
  simp only [byteAt_eq_numAt, getD_eq_ofNat]
  simp [cursorBytes, readCursor, signedBytes, cons_eq_leBytes]

theorem readPanel_panelBytes {v : Panel} (read : readPanel e = some v) :
    readPanel (panelBytes v) = some v ∧ (panelBytes v).length = 16 := by
  obtain ⟨_, _, ⟨width, height⟩, ⟨hf, hs, hb⟩, ⟨vf, vs, vb⟩, divisor⟩ := readPanel_stored read
  obtain ⟨enabled, w, h, hFront, hSync, hBack, vFront, vSync, vBack, hHigh, vHigh, d⟩ := v
  obtain ⟨s1, c1⟩ := clamped_stored (m := 65536) width (by decide) (by decide)
  obtain ⟨s2, c2⟩ := clamped_stored (m := 65536) height (by decide) (by decide)
  obtain ⟨s3, c3⟩ := raised_stored hf (byteAt_lt e 6) (by decide)
  obtain ⟨s4, c4⟩ := raised_stored hs (byteAt_lt e 7) (by decide)
  obtain ⟨s5, c5⟩ := raised_stored hb (byteAt_lt e 8) (by decide)
  obtain ⟨s6, c6⟩ := raised_stored vf (byteAt_lt e 9) (by decide)
  obtain ⟨s7, c7⟩ := clamped_stored (m := 256) vs (by decide) (by decide)
  obtain ⟨s8, c8⟩ := raised_stored vb (byteAt_lt e 11) (by decide)
  obtain ⟨s9, c9⟩ := clamped_stored (m := 256) divisor (by decide) (by decide)
  simp only at s1 s2 s3 s4 s5 s6 s7 s8 s9 c1 c2 c3 c4 c5 c6 c7 c8 c9
  refine ⟨?_, by simp [panelBytes, zeros]⟩
  simp [readPanel, panelBytes, byteAt_eq_numAt, zeros_eq_leBytes_zero, clamp, s1, s2, s3, s4, s5, s6, s7, s8, s9,
    c1, c2, c3, c4, c5, c6, c7, c8, c9]

theorem readPower_powerBytes {v : PowerEntry} (read : readPower e = v) :
    readPower (powerBytes v) = v ∧ (powerBytes v).length = 8 := by
  subst read
  have enables : BitVec.ofNat 10 (numAt e 0 2 % 1024 % 65536) = BitVec.ofNat 10 (numAt e 0 2) := by
    apply BitVec.eq_of_toNat_eq
    simp only [BitVec.toNat_ofNat]
    omega
  have exponent : min 15 (min 15 (byteAt e 2) % 256) = min 15 (byteAt e 2) := by omega
  rw [byteAt_eq_numAt] at exponent
  refine ⟨?_, by simp [powerBytes, zeros]⟩
  simp only [readPower, byteAt_eq_numAt]
  have mask := Nat.mod_eq_of_lt (numAt_four_lt e 4)
  simp [powerBytes, zeros_eq_leBytes_zero, enables, exponent, mask]

end

/-! ### The entries as READ sends them (R167) -/

/-- The bytes of a table's entry are found at its own index. -/
theorem entry_of_fin {α : Type} {n : Nat} (table : Vector α n) (bytes : α → List Byte) (i : Fin n) :
    (table[i.val]?.map bytes).getD [] = bytes table[i] := by
  simp

theorem viewSetEntryBytes_row (v : ViewSet) (i : Fin 40) :
    viewSetEntryBytes v (i + 1) = rowBytes v.rows[i] := by
  simp [viewSetEntryBytes]

theorem markerBytes_layout (c : Byte) : byteAt (markerBytes c) 1 = c.toNat ∧ (markerBytes c).length = 8 := by
  simp [markerBytes, zeros, byteAt]

/-- Settles O60: each table's reader undoes its writer on what it has read before. -/
theorem recordsAndSymbolsReadBack : Obligations.RecordsAndSymbolsReadBack := by
  refine ⟨fun r short => recordOf_recordBytes r short, fun y short place => symbolOf_symbolBytes y short place, ?_⟩
  intro s e sent hsent
  subst hsent
  simp only [entryBytes, entry_of_fin, viewSetEntryBytes_row]
  exact ⟨readAcq_acqBytes, fun _ => readPod_podBytes, fun _ => readGen_genBytes, readRegions_regionBytes,
    fun _ => readPlan_planBytes, fun _ => readTerm_termBytes, fun _ => readStage_stageBytes,
    fun _ => readCounter_counterBytes, fun _ => readLane_laneBytes, fun _ => readField_fieldBytes,
    fun _ _ => readView_viewBytes, fun _ _ => readView_viewBytes, fun _ => readRow_rowBytes,
    fun _ => readRow_rowBytes, readCursor_cursorBytes, readCursor_cursorBytes, markerBytes_layout _,
    fun i => ⟨by simpa using BitVec.isLt _, by simp⟩,
    fun i => ⟨by simpa using s.su.glyphs[i].isLt.trans (by decide), by simp⟩, readPanel_panelBytes, readPower_powerBytes⟩

end Sys2Proof.Machine
end

section
/-! SUPPORT. The stretch timeout of a TwoWire lane (R106), and the trim steps of a span (R124). -/

namespace Sys2Proof.Machine

theorem modifyLane_lane (l m : Fin 4) (f : Lane → Lane) (s : State) :
    (modifyLane l f s).lanes[m] = if l = m then f s.lanes[m] else s.lanes[m] := by
  unfold modifyLane
  rw [set_getElem]
  split
  · next same => rw [same]; simp
  · next other => rw [if_neg (fun h => other h.symm)]

/-- Settles O26: the sample finds the clock low once more than the stretch limit allows. -/
theorem stretchTimeoutMarksTheInterval : Obligations.StretchTimeoutMarksTheInterval := by
  intro l s x p quiet due kind isOpen low limit unmarked
  have reached : stretchReached p x s.lanes[l].decoder = true := by
    simp only [stretchReached, levelOf, isOpen, low, limit, unmarked]
    decide
  have step : exec (.stretchTimeout l) s =
      .next (modifyLane l (fun q => { q with decoder := markTimeout q.decoder }) s) := by
    change execStretchTimeout l s = _
    unfold execStretchTimeout
    dsimp only
    rw [settle_quiet quiet, due, kind]
    exact if_pos reached
  refine ⟨_, step, ?_, fun j other => ?_, modifyLane_frame _ _ _⟩
  · rw [modifyLane_lane, if_pos rfl]
    rfl
  · rw [modifyLane_lane, if_neg other.symm]

/-! ### Requests and grants (R59) -/

/-- What is granted is asked for. -/
theorem requested_of_granted {s : State} {r : Requester} (grant : nextGrant s = some r) :
    (r, true) ∈ requests s := by
  unfold nextGrant at grant
  split at grant
  · cases grant
  · obtain ⟨⟨who, asks⟩, found, rfl⟩ := Option.map_eq_some_iff.1 grant
    have asked : asks = true := List.find?_some found
    exact asked ▸ List.mem_of_find?_eq_some found

theorem trimDue_of_granted {s : State} (grant : nextGrant s = some .mergeTrim ∨ nextGrant s = some .redecodeTrim) :
    trimDue s = true := by
  rcases grant with grant | grant <;>
  · have asked := requested_of_granted grant
    simp only [requests, List.mem_cons, Prod.mk.injEq, reduceCtorEq, false_and, or_false, true_and, false_or,
      List.not_mem_nil] at asked
    exact (Bool.and_eq_true_iff.1 asked.symm).2

/-! ### Trim steps (R124) -/

section

variable {s : State} {n : Fin 32} {start stop oldest newest : Time} {first : Nat}

theorem fifosEmpty_iff : fifosEmpty s = true ↔ ∀ l : Fin 4, s.lanes[l].fifo = [] := by
  simp [fifosEmpty]

/-- The removal that a trim of a nonempty span makes next. -/
theorem trimEnd_of_ends (ends : spanEnds s n = some (oldest, newest)) :
    trimEnd s n start stop = if timeDiff oldest start < 0 then some .oldest
      else if timeDiff stop newest < 0 then some .newest else none := by
  unfold trimEnd
  rw [ends]
  simp only [before_iff]

/-- A granted trim step makes the removal that the trim makes next. -/
theorem exec_symbolTrim {e : TrimEnd} (grant : nextGrant s = some .mergeTrim ∨ nextGrant s = some .redecodeTrim)
    (target : trimTarget s = some (n, start, stop)) (next : trimEnd s n start stop = some e) :
    exec .symbolTrim s = .next (modifySegment n (removeSymbol (spanCapacity s.plan[n]) e) s) := by
  change execSymbolTrim s = _
  unfold execSymbolTrim
  have granted : (granted s .mergeTrim || granted s .redecodeTrim) = true := by
    simpa only [Bool.or_eq_true, granted_iff] using grant
  rw [if_pos granted, target]
  dsimp only
  rw [trimStep, next]

end

/-- Settles O29: a trim step removes the oldest symbol while that ends early, else the newest. -/
theorem trimStepRemovesOneSymbol : Obligations.TrimStepRemovesOneSymbol := by
  refine ⟨?_, ?_⟩
  · rintro s n start stop oldest newest first capacity g symbol what empty rfl hstart hfirst hcount rfl reads hold hnew
    have target : trimTarget s = some (n, start, stop) := by
      unfold trimTarget
      rw [fifosEmpty_iff.2 empty]
      rcases what with ⟨none_runs, closes, engine, queue, push, ends⟩ | ⟨⟨r, redecodes, rfl, whole⟩, ends⟩
      · simp only [none_runs, closes, engine, queue, push, ends, hstart]
        rfl
      · simp only [redecodes, whole, ends, hstart]
        rfl
    have ends : spanEnds s n = some (oldest, newest) := by
      unfold spanEnds
      dsimp only
      rw [hfirst]
      dsimp only
      rw [if_neg (by omega), hold, hnew, reads, reads]
      rfl
    have next := trimEnd_of_ends (start := start) (stop := stop) ends
    have due : trimDue s = true ↔ timeDiff oldest start < 0 ∨ timeDiff stop newest < 0 := by
      unfold trimDue
      rw [target]
      dsimp only
      rw [next]
      split_ifs with early late
      · simp [early]
      · simp [late]
      · simp [early, late]
    refine ⟨due, fun grant => ?_⟩
    have outside := due.1 (trimDue_of_granted grant)
    refine ⟨fun inside => outside.resolve_left (not_lt.2 inside), ?_⟩
    have frame (e : TrimEnd) : ChangesOnly [.segments] s (modifySegment n (removeSymbol (spanCapacity s.plan[n]) e) s) :=
      modifySegment_frame _ _ _ fun _ => rfl
    by_cases early : timeDiff oldest start < 0
    · rw [if_pos early] at next
      refine ⟨_, exec_symbolTrim grant target next, ?_, frame _⟩
      have place : s.segments[n].symbolCount ≤ 1 ↔ s.segments[n].symbolCount = 1 := by omega
      simp only [modifySegment, removeSymbol, hfirst, early, if_true, place, Option.map_some]
      rfl
    · rw [if_neg early, if_pos (outside.resolve_left early)] at next
      refine ⟨_, exec_symbolTrim grant target next, ?_, frame _⟩
      have place : s.segments[n].symbolCount ≤ 1 ↔ s.segments[n].symbolCount = 1 := by omega
      simp only [modifySegment, removeSymbol, hfirst, early, if_false, place]
  · intro s not_merge not_redecode
    change execSymbolTrim s = _
    unfold execSymbolTrim
    have refused : (granted s .mergeTrim || granted s .redecodeTrim) = false := by
      simpa [Bool.eq_false_iff, granted_iff] using And.intro not_merge not_redecode
    rw [refused]
    rfl

end Sys2Proof.Machine
end

section
/-! SUPPORT. The start of a segment (R33, R34), the close of one (R40, R41), and ARM (R32, R89). -/

namespace Sys2Proof.Machine

/-! ### The start of a segment (R33, R34) -/

section

variable (n : Fin 32) (s : State)

/-- The engine of a segment that starts: PreFill, or with F = 0 Armed at once. -/
def startedCe (n : Fin 32) (s : State) : Ce :=
  { preFillCe n s.time s.ce with engine := if s.ce.table.preFill = 0 then .armed else .preFill }

/-- The sequencer of a segment that starts. -/
def startedTs (s : State) : Ts := if s.ce.table.preFill = 0 then runTs (offTs s.ts) else offTs s.ts

theorem startSegment_state : startSegment n s = { s with
    ce := startedCe n s, prescaler := 0, ts := startedTs s, sm := { stamps := [] }
    segments := s.segments.set n (fillingSegment s.ce.table.loop s.segments[n])
    lanes := (startLanes .running s).lanes } := by
  have lanes : startLanes .running (segmentFilled n s) =
      { segmentFilled n s with lanes := (startLanes .running s).lanes } := by
    rw [startLanes_eq]
    rfl
  rw [startSegment_eq, lanes]
  unfold checkPreFill startedCe startedTs
  by_cases none_before : s.ce.table.preFill = 0
  · rw [if_pos ⟨rfl, Nat.le_of_eq none_before⟩, if_pos none_before, if_pos none_before]
    rfl
  · rw [if_neg fun both => none_before (Nat.le_zero.1 both.2), if_neg none_before, if_neg none_before]
    rfl

theorem startedTs_eq : startedTs s = { defaultTs with
    terms := s.ts.terms, stages := s.ts.stages, counterTable := s.ts.counterTable
    run := if s.ce.table.preFill = 0 then .running else .off
    stage := if s.ce.table.preFill = 0 then some 0 else none } := by
  unfold startedTs
  split <;> rfl

end

/-! ### The close of a segment (R40, R41) -/

section

variable {s : State} {n m : Fin 32}

/-- No segment but the closed one is a candidate: none comes next. -/
theorem nextSegment_none (no_other : ∀ j, j ≠ n → candidate s j = false) : nextSegment s n = none := by
  unfold nextSegment
  dsimp only
  rw [List.find?_eq_none]
  intro j member
  have apart : j ≠ n := by
    rcases List.mem_append.1 member with above | below
    · exact ne_of_gt (of_decide_eq_true (List.mem_filter.1 above).2)
    · exact ne_of_lt (of_decide_eq_true (List.mem_filter.1 below).2)
  simp [no_other j apart]

/-- The first candidate above the closed segment, or with none above the first of all, comes next. -/
theorem nextSegment_some (chosen : candidate s m = true)
    (first : n < m ∧ (∀ j, n < j → j < m → candidate s j = false) ∨
      m < n ∧ (∀ j, n < j → candidate s j = false) ∧ ∀ j, j < m → candidate s j = false) :
    nextSegment s n = some m := by
  unfold nextSegment
  dsimp only
  rw [List.find?_append, List.find?_filter, List.find?_filter]
  rcases first with ⟨above, between⟩ | ⟨below, none_above, lowest⟩
  · rw [find?_lowest (k := m) (by simp [above, chosen]), Option.some_or]
    intro j under
    by_cases over_n : n < j
    · simp [between j over_n under]
    · simp [over_n]
  · rw [List.find?_eq_none.2, Option.none_or]
    · exact find?_lowest (by simp [below, chosen]) fun j under => by simp [lowest j under]
    · intro j _
      by_cases over_n : n < j
      · simp [none_above j over_n]
      · simp [over_n]

theorem candidate_iff {j : Fin 32} : candidate s j = true ↔
    s.plan[j].planned = true ∧ s.ce.table.retainFloor ≤ j.val ∧ s.segments[j].holdCount = 0 := by
  simp [candidate, and_assoc]

/-- A close that is ready completes. -/
theorem exec_closeComplete {reason : EndReason} (closing : s.ce.engine = .closing) (queue : s.ce.queue = [])
    (push : s.ce.toPush = []) (empty : ∀ l : Fin 4, s.lanes[l].fifo = []) (trimmed : trimDue s = false)
    (current : s.ce.segment = some n) (ends : s.ce.reason = some reason) :
    exec .closeComplete s = .next (completeClose n reason s) := by
  have ready : closeReady s = true := by
    simp [closeReady, closing, queue, push, fifosEmpty_iff.2 empty, trimmed]
  change execCloseComplete s = _
  unfold execCloseComplete
  rw [if_pos ready, current, ends]

end

/-- Settles O30: the close's five continuations are those of `proceed`. -/
theorem closeCompletesTheSegment : Obligations.CloseCompletesTheSegment := by
  intro s n reason closed closing queue push empty trimmed current ends is_closed
  have step := exec_closeComplete closing queue push empty trimmed current ends
  have to_proceed : completeClose n reason s = proceed n closed := by
    rw [is_closed]
    unfold completeClose
    dsimp only
    rw [modifySegment_segment, if_pos rfl]
    rfl
  have closed_eq : closed = { s with
      segments := closed.segments, lp.notices := closed.lp.notices } := by
    rw [is_closed, raiseNotice_eq]
  have segments : closed.segments = s.segments.set n (closedSegment reason s.ce.endTime s.segments[n]) := by
    rw [is_closed, raiseNotice_eq]
    rfl
  have ce : closed.ce = s.ce := by rw [closed_eq]
  have plan : closed.plan = s.plan := by rw [closed_eq]
  have held (j : Fin 32) : closed.segments[j].holdCount = s.segments[j].holdCount := by
    rw [segments, set_getElem]
    split
    · next same => rw [same]; rfl
    · rfl
  have candidates (j : Fin 32) : candidate closed j = true ↔
      s.plan[j].planned = true ∧ s.ce.table.retainFloor ≤ j.val ∧ s.segments[j].holdCount = 0 := by
    rw [candidate_iff, plan, ce, held]
  have idle : idleEngine closed = { closed with ce := { idleCe with table := s.ce.table }, sm := { stamps := [] } } := by
    rw [idleEngine, ce]
  refine ⟨_, step, ?_, ?_, ?_, ?_, ?_, completeClose_frame n reason s⟩ <;> rw [to_proceed, proceed] <;> dsimp only <;>
    rw [ce]
  · intro single
    rw [if_pos single, idle]
  · intro sequence complete
    rw [if_neg (by omega), if_pos complete, endSequence, idle]
  · intro sequence more stopped
    rw [if_neg (by omega), if_neg more, if_pos stopped, endSequence, idle]
  · intro sequence more going no_other
    have nothing : nextSegment closed n = none := nextSegment_none fun j apart => by
      rw [← Bool.not_eq_true, candidates]
      rintro ⟨planned, above, free⟩
      rcases no_other j apart with unplanned | below | kept
      · rw [unplanned] at planned
        cases planned
      · omega
      · exact kept free
    rw [if_neg (by omega), if_neg more, if_neg (by simp [going]), nothing]
    dsimp only
    rw [endSequence, idle]
  · intro m isCandidate sequence more going candidate_def chosen first
    have no_candidate (j : Fin 32) (not_j : ¬isCandidate j) : candidate closed j = false := by
      rw [← Bool.not_eq_true, candidates, ← candidate_def]
      exact not_j
    have next : nextSegment closed n = some m := by
      refine nextSegment_some ((candidates m).2 ((candidate_def m).1 chosen)) ?_
      exact first.imp (fun ⟨above, between⟩ => ⟨above, fun j a b => no_candidate j (between j a b)⟩)
        fun ⟨below, none_above, lowest⟩ => ⟨below, fun j a => no_candidate j (none_above j a),
          fun j a => no_candidate j (lowest j a)⟩
    rw [if_neg (by omega), if_neg more, if_neg (by simp [going]), next]
    dsimp only
    have free : s.segments[m].holdCount = 0 := ((candidate_def m).1 chosen).2.2
    rw [startSegment_state]
    have lane_fields : closed.lanes = s.lanes ∧ closed.laneTable = s.laneTable ∧ closed.ts = s.ts ∧
        closed.time = s.time := by
      rw [closed_eq]
      exact ⟨rfl, rfl, rfl, rfl⟩
    obtain ⟨lanes, laneTable, ts, time⟩ := lane_fields
    refine ⟨?_, rfl, ?_, rfl, fun l => ?_, ?_, rfl⟩
    · simp only [startedCe, preFillCe, time]
      rfl
    · dsimp only
      rw [startedTs_eq]
      dsimp only
      rw [ts]
    · dsimp only
      rw [startLanes_lane]
      dsimp only
      rw [lanes, laneTable, empty l]
      rfl
    · dsimp only
      rw [fillingSegment, held, free]

/-! ### ARM (R32, R89) -/

/-- The checks of ARM and what follows them, in a part that is awake. -/
theorem exec_arm {c : LinkCell} {rest : List LinkCell} {s : State} {k : Byte} (ready : Ready c rest s)
    (code : c.code = 3) (payload : c.payload = [k]) (awake : s.pru.power ≠ .sleep) :
    exec .arm s = .next (match armRefusal k.toNat s with
      | some code => putReply c.tag (.refused code 0) (entered rest s)
      | none => putReply c.tag .accepted (beginCapture (Fin.ofNat 32 k.toNat) (entered rest s))) := by
  have owned : exec .arm s = .next (armOwner c (popped rest s)) :=
    dispatch_owner ready (commandRow_arm code) (by simp [payload]) (absurd · awake)
  have refusal : armRefusal k.toNat (entered rest s) = armRefusal k.toNat s := by
    rw [entered_eq]
    rfl
  rw [owned, armOwner, payload, ← refusal]
  rfl

/-- The checks of ARM on the segment it names, once the engine is free. -/
theorem armRefusal_named {s : State} {k : Nat} {n : Fin 32} (idle : s.ce.engine = .idle) (none_runs : s.redecode = none)
    (named : k = n.val) : armRefusal k s =
      if !s.plan[n].planned then some .notPlanned
      else if n.val < s.ce.table.retainFloor then some .retained
      else if s.segments[n].holdCount ≠ 0 then some .held
      else if s.ce.table.mode = .timing ∧ s.ce.table.width = .wide ∧ s.ce.table.divisor = 1 then some .rateTooHigh
      else if s.ce.table.mode = .state ∧ s.ce.table.width = .narrow ∧ 16 ≤ s.ce.table.clockChannel.val ∧
        s.ce.table.loop = false then some .channelUnavailable
      else lanesRefusal s := by
  subst named
  unfold armRefusal
  dsimp only
  rw [if_neg (by simp [engineIdle, idle]), if_neg (by simp [none_runs]), toFin_of_lt n.isLt]


section

variable {s : State}

theorem rate_usable (usable : s.ce.table.width = .narrow ∨ s.ce.table.divisor ≠ 1) :
    ¬(s.ce.table.mode = .timing ∧ s.ce.table.width = .wide ∧ s.ce.table.divisor = 1) := by
  rintro ⟨_, wide, one⟩
  rcases usable with narrow | other
  · rw [wide] at narrow
    cases narrow
  · exact other one

theorem clock_usable (usable : s.ce.table.width = .wide ∨ s.ce.table.clockChannel.val < 16 ∨ s.ce.table.loop = true) :
    ¬(s.ce.table.mode = .state ∧ s.ce.table.width = .narrow ∧ 16 ≤ s.ce.table.clockChannel.val ∧
      s.ce.table.loop = false) := by
  rintro ⟨_, narrow, high, pins⟩
  rcases usable with wide | low | loop
  · rw [narrow] at wide
    cases wide
  · omega
  · rw [pins] at loop
    cases loop

theorem lanesRefusal_timing (timing : s.ce.table.mode = .timing) :
    lanesRefusal s = s.laneTable.toList.findSome? (laneRefusal s.ce.table) := by
  rw [lanesRefusal, if_neg]
  rw [timing]
  rintro ⟨absurd, _⟩
  cases absurd

theorem lanesRefusal_off (off : ∀ l : Fin 4, s.laneTable[l].enable = false) : lanesRefusal s = none := by
  have no_lane : anyLaneOn s = false := by
    rw [← Bool.not_eq_true, anyLaneOn_iff]
    rintro ⟨l, lane_on⟩
    rw [off l] at lane_on
    cases lane_on
  rw [lanesRefusal, no_lane, if_neg (by simp)]
  refine findSome_lane_none fun l => laneRefusal_none (fun unavailable => ?_) fun fast => ?_
  · exact absurd unavailable.1 (Bool.eq_false_iff.1 (off l))
  · exact absurd fast.1 (Bool.eq_false_iff.1 (off l))

end

/-- Settles O31: the checks of ARM in their order, and the start of the segment. -/
theorem armChecksInOrderAndStartsTheCapture : Obligations.ArmChecksInOrderAndStartsTheCapture := by
  intro c rest s k ready code payload awake
  have owned := exec_arm ready code payload awake
  have refusal (what : RefusalCode) (refused : armRefusal k.toNat s = some what) :
      refusesInRun .arm c rest what s := refusesInRun_of_exec awake (by rw [owned, refused]; rfl)
  refine ⟨fun busy => refusal _ ?_, fun idle none_runs => ⟨fun outside => refusal _ ?_, fun n named => ?_⟩⟩
  · unfold armRefusal
    dsimp only
    rcases busy with busy | busy
    · rw [if_pos (by simpa [engineIdle] using busy)]
    · rw [if_pos busy]
      split <;> rfl
  · unfold armRefusal
    dsimp only
    rw [if_neg (by simp [engineIdle, idle]), if_neg (by simp [none_runs]), toFin_of_le (by omega)]
  have checks := armRefusal_named idle none_runs named
  refine ⟨fun unplanned => refusal _ ?_, fun planned => ?_⟩
  · rw [checks, unplanned]
    rfl
  rw [planned, if_neg (by decide)] at checks
  refine ⟨fun below => refusal _ ?_, fun above => ?_⟩
  · rw [checks, if_pos below]
  rw [if_neg (Nat.not_lt.2 above)] at checks
  refine ⟨fun held => refusal _ ?_, fun free => ?_⟩
  · rw [checks, if_pos held]
  rw [if_neg (not_not.2 free)] at checks
  have to_pins (rate : ¬(s.ce.table.mode = .timing ∧ s.ce.table.width = .wide ∧ s.ce.table.divisor = 1)) :=
    checks.trans (if_neg rate)
  have to_lanes (rate : ¬(s.ce.table.mode = .timing ∧ s.ce.table.width = .wide ∧ s.ce.table.divisor = 1))
      (pins : ¬(s.ce.table.mode = .state ∧ s.ce.table.width = .narrow ∧ 16 ≤ s.ce.table.clockChannel.val ∧
        s.ce.table.loop = false)) := (to_pins rate).trans (if_neg pins)
  refine ⟨fun timing wide one => refusal _ ?_, fun state narrow high pins => refusal _ ?_,
    fun state usable lane_on => refusal _ ?_, fun timing usable l first_l => ⟨fun unavailable => refusal _ ?_,
      fun available fast => refusal _ ?_⟩, fun passes => ?_⟩
  · rw [checks, if_pos ⟨timing, wide, one⟩]
  · rw [to_pins (by simp [state]), if_pos ⟨state, narrow, high, pins⟩]
  · rw [to_lanes (by simp [state]) (clock_usable usable), lanesRefusal, if_pos ⟨state, anyLaneOn_iff.2 lane_on⟩]
  · rw [to_lanes (rate_usable usable) (by simp [timing]), lanesRefusal_timing timing]
    exact findSome_lane (laneRefusal_unavailable unavailable) fun j below =>
      laneRefusal_none (first_l j below).1 (first_l j below).2
  · rw [to_lanes (rate_usable usable) (by simp [timing]), lanesRefusal_timing timing]
    exact findSome_lane (laneRefusal_fast available fast) fun j below =>
      laneRefusal_none (first_l j below).1 (first_l j below).2
  · have passed : armRefusal k.toNat s = none := by
      rcases passes with ⟨timing, usable, lanes⟩ | ⟨state, off, usable⟩
      · rw [to_lanes (rate_usable usable) (by simp [timing]), lanesRefusal_timing timing]
        exact findSome_lane_none fun l => laneRefusal_none (lanes l).1 (lanes l).2
      · rw [to_lanes (by simp [state]) (clock_usable usable)]
        exact lanesRefusal_off off
    rw [passed] at owned
    have place : Fin.ofNat 32 k.toNat = n := by rw [named]; exact fin_ofNat_val n
    rw [place] at owned
    have frame : ChangesOnly (withDispatch [.ce, .prescaler, .ts, .lanes, .sm, .segments, .power]) s
        (putReply c.tag .accepted (beginCapture n (entered rest s))) :=
      ((entered_frame rest s).mono (by decide)).trans (((beginCapture_frame _ _).mono (by decide)).trans
        ((putReply_frame _ _ _).mono (by decide)))
    have begun : beginCapture n (entered rest s) = { entered rest s with
        ce := { startedCe n s with sequence := s.ce.table.sequenceCount, done := 0 }, prescaler := 0
        ts := startedTs s, sm := { stamps := [] }
        segments := s.segments.set n (fillingSegment s.ce.table.loop s.segments[n])
        lanes := (startLanes .running (entered rest s)).lanes } := by
      rw [beginCapture, startSegment_state, entered_eq]
      rfl
    rw [begun] at owned frame
    refine ⟨_, owned, ⟨?_, rfl⟩, ?_, ?_, ?_, rfl, ?_, ?_, fun at_once => ?_, fun fills => ?_, rfl, fun l => ?_, frame⟩ <;>
      simp only [putReply_ce, putReply_segments, putReply_ts, putReply_lanes, putReply_pru]
    · rw [entered_eq]
      rfl
    · exact entered_power rest awake
    · rw [startedCe, preFillCe]
      rfl
    · rw [fillingSegment, free]
    · rw [startedTs_eq]
      rfl
    · rw [startedTs_eq]
      rfl
    · rw [startedTs_eq]
      exact ⟨if_pos at_once, if_pos at_once⟩
    · rw [startedTs_eq]
      exact ⟨if_neg fills, if_neg fills⟩
    · rw [startLanes_lane, entered_eq]

end Sys2Proof.Machine
end

section
/-! SUPPORT. The start of a redecode (R125, R126). -/

namespace Sys2Proof.Machine

section

variable {s : State} {n : Fin 32}

theorem readsSymbolsOf_iff : readsSymbolsOf s n = true ↔
    ∃ r, s.lp.readout = some r ∧ r.segment = n ∧ r.kind = .symbols := by
  unfold readsSymbolsOf
  cases s.lp.readout <;> simp

/-- The checks of REDECODE and what follows them, in a part that is awake. -/
theorem exec_redecode {c : LinkCell} {rest : List LinkCell} {k : Byte} (ready : Ready c rest s)
    (code : c.code = 6) (payload : c.payload = [k]) (awake : s.pru.power ≠ .sleep) :
    exec .redecode s = .next (match redecodeRefusal k.toNat s with
      | some code => putReply c.tag (.refused code 0) (entered rest s)
      | none => putReply c.tag .accepted (beginRedecode (Fin.ofNat 32 k.toNat) (entered rest s))) := by
  have owned : exec .redecode s = .next (redecodeOwner c (popped rest s)) :=
    dispatch_owner ready (commandRow_redecode code) (by simp [payload]) (absurd · awake)
  have refusal : redecodeRefusal k.toNat (entered rest s) = redecodeRefusal k.toNat s := by
    rw [entered_eq]
    rfl
  rw [owned, redecodeOwner, payload, ← refusal]
  rfl

/-- The checks of REDECODE on the segment it names, once the engine is free. -/
theorem redecodeRefusal_named {k : Nat} (idle : s.ce.engine = .idle) (none_runs : s.redecode = none)
    (named : k = n.val) : redecodeRefusal k s =
      if s.segments[n].state ≠ .closed then some .notClosed
      else if readsSymbolsOf s n then some .busy
      else if s.ce.table.mode = .state ∧ anyLaneOn s then some .laneNeedsTiming
      else s.laneTable.toList.findSome? (redecodeLaneRefusal s.ce.table) := by
  subst named
  unfold redecodeRefusal
  rw [if_neg (by simp [engineIdle, idle]), if_neg (by simp [none_runs]), toFin_of_lt n.isLt]

theorem redecodeLaneRefusal_fast {l : Fin 4} (fast : laneTooFast s l) :
    redecodeLaneRefusal s.ce.table s.laneTable[l] = some .rateTooHigh := by
  obtain ⟨lane_on, p, kind, slow⟩ := fast
  rw [redecodeLaneRefusal, lane_on, kind, if_neg (by decide)]
  exact if_pos slow

theorem redecodeLaneRefusal_none {l : Fin 4} (slow : ¬laneTooFast s l) :
    redecodeLaneRefusal s.ce.table s.laneTable[l] = none := by
  unfold redecodeLaneRefusal
  split
  · rfl
  next lane_on =>
    split
    · next p kind => exact if_neg fun fast => slow ⟨by simpa using lane_on, p, kind, fast⟩
    · rfl

/-- The only refusal for a lane is that of its rate, whichever lane it is found in first. -/
theorem redecodeLanes_fast (some_fast : ∃ l : Fin 4, laneTooFast s l) :
    s.laneTable.toList.findSome? (redecodeLaneRefusal s.ce.table) = some .rateTooHigh := by
  obtain ⟨l, fast, first⟩ := wellFounded_lt.has_min {l : Fin 4 | laneTooFast s l} some_fast
  exact findSome_lane (redecodeLaneRefusal_fast fast) fun j below =>
    redecodeLaneRefusal_none fun fast_j => first j fast_j below

theorem annotationsOpen_iff (d : Draw) : annotationsOpen s.re d = true ↔
    d.phase ≠ .finished ∨ s.re.job = .drawing ∧ s.re.rowsClipped = none := by
  simp [annotationsOpen]

/-- The state in which a redecode's stream starts, before a render of its segment is told. -/
def redecodeStarted (n : Fin 32) (s : State) : State :=
  { startLanes .replaying (modifySegment n emptiedSpan s) with
    redecode := some { segment := n, divisor := s.ce.table.divisor, stamp := s.segments[n].startTime.getD 0
                       next := s.segments[n].oldest.getD 0, left := s.segments[n].recordCount
                       start := s.segments[n].startTime.getD 0, refused := false }
    sm := { stamps := [] } }

theorem redecodeStarted_frame (n : Fin 32) (s : State) :
    ChangesOnly [.redecode, .segments, .lanes, .sm] s (redecodeStarted n s) :=
  (((modifySegment_frame n emptiedSpan s (by intro; rfl)).mono (by decide)).trans
    ((startLanes_frame _ _).mono (by decide))).trans ((update_redecode_sm _ _ _).mono (by decide))

theorem omitAnnotations_started : omitAnnotations n (redecodeStarted n s) =
    { redecodeStarted n s with re := (omitAnnotations n s).re } := by
  unfold omitAnnotations
  rw [show (redecodeStarted n s).re = s.re from by rw [redecodeStarted, startLanes_eq]; rfl]
  split
  · rfl
  · split <;> rfl

/-- A redecode of a segment with records and ticks starts, and its lanes go on replaying. -/
theorem beginRedecode_eq (ticks : s.segments[n].startTime ≠ s.segments[n].endTime)
    (records : s.segments[n].recordCount ≠ 0) :
    beginRedecode n s = omitAnnotations n (redecodeStarted n s) := by
  have whole : replayRecords s.segments[n] = s.segments[n].recordCount := if_neg ticks
  have started : beginRedecode n s = endReplay (omitAnnotations n (redecodeStarted n s)) := by
    rw [beginRedecode, whole]
    rfl
  rw [started, omitAnnotations_started]
  exact if_neg records

/-- A render of the segment whose annotations are still to come draws no more of it. -/
theorem omitAnnotations_open {d : Draw} (draws : s.re.draw = some d) (shows : d.snapshot.view.segment = n)
    (remain : d.phase ≠ .finished ∨ s.re.job = .drawing ∧ s.re.rowsClipped = none) :
    ∃ e, (omitAnnotations n s).re.draw = some e ∧ e.omitted = true ∧ e.writes = d.writes ∧
      ∀ p left, d.phase = .symbols p left → e.phase = .finished := by
  rw [omitAnnotations, draws]
  dsimp only
  rw [if_pos ⟨shows, (annotationsOpen_iff d).2 remain⟩]
  refine ⟨_, rfl, rfl, rfl, fun p left phase => ?_⟩
  dsimp only
  rw [phase]

/-- Any other render is left as it is. -/
theorem omitAnnotations_done (done : ∀ d, s.re.draw = some d → d.snapshot.view.segment ≠ n ∨
    d.phase = .finished ∧ (s.re.job ≠ .drawing ∨ s.re.rowsClipped ≠ none)) :
    (omitAnnotations n s).re = s.re := by
  unfold omitAnnotations
  split
  · rfl
  next d draws =>
    rw [if_neg]
    rintro ⟨shows, remain⟩
    rcases done d draws with other | ⟨finished, rest⟩
    · exact other shows
    · rcases (annotationsOpen_iff d).1 remain with more | ⟨drawing, unclipped⟩
      · exact more finished
      · exact rest.elim (· drawing) (· unclipped)

end

/-- Settles O34: the checks of REDECODE in their order, and the start of the stream. -/
theorem redecodeChecksInOrderAndStartsTheReplay : Obligations.RedecodeChecksInOrderAndStartsTheReplay := by
  intro c rest s k ready code payload awake
  have owned := exec_redecode ready code payload awake
  have refusal (what : RefusalCode) (refused : redecodeRefusal k.toNat s = some what) :
      refusesInRun .redecode c rest what s := refusesInRun_of_exec awake (by rw [owned, refused]; rfl)
  refine ⟨fun busy => refusal _ ?_, fun idle none_runs => ⟨fun outside => refusal _ ?_, fun n named => ?_⟩⟩
  · unfold redecodeRefusal
    rcases busy with busy | busy
    · rw [if_pos (by simpa [engineIdle] using busy)]
    · rw [if_pos busy]
      split <;> rfl
  · unfold redecodeRefusal
    rw [if_neg (by simp [engineIdle, idle]), if_neg (by simp [none_runs]), toFin_of_le (by omega)]
  have checks := redecodeRefusal_named idle none_runs named
  refine ⟨fun not_closed => refusal _ (checks.trans (if_pos not_closed)), fun closed => ?_⟩
  rw [if_neg (not_not.2 closed)] at checks
  refine ⟨fun r reads segment kind => refusal _ ?_, fun unread => ?_⟩
  · rw [checks, if_pos (readsSymbolsOf_iff.2 ⟨r, reads, segment, kind⟩)]
  rw [if_neg (by rw [readsSymbolsOf_iff]; exact fun ⟨r, reads, both⟩ => unread r reads both)] at checks
  refine ⟨fun state lane_on => refusal _ ?_, fun timing fast => refusal _ ?_, fun passes ticks records => ?_⟩
  · rw [checks, if_pos ⟨state, anyLaneOn_iff.2 lane_on⟩]
  · rw [checks, if_neg (by simp [timing]), redecodeLanes_fast fast]
  · have passed : redecodeRefusal k.toNat s = none := by
      have off_or_timing : ¬(s.ce.table.mode = .state ∧ anyLaneOn s = true) ∧ ∀ l : Fin 4, ¬laneTooFast s l := by
        rcases passes with ⟨timing, slow⟩ | off
        · exact ⟨by simp [timing], slow⟩
        · refine ⟨fun both => ?_, fun l fast => absurd fast.1 (Bool.eq_false_iff.1 (off l))⟩
          obtain ⟨l, lane_on⟩ := anyLaneOn_iff.1 both.2
          exact absurd lane_on (Bool.eq_false_iff.1 (off l))
      rw [checks, if_neg off_or_timing.1]
      exact findSome_lane_none fun l => redecodeLaneRefusal_none (off_or_timing.2 l)
    have place : Fin.ofNat 32 k.toNat = n := by rw [named]; exact fin_ofNat_val n
    rw [passed, place] at owned
    have segments : (entered rest s).segments = s.segments := by rw [entered_eq]
    have re : (entered rest s).re = s.re := by rw [entered_eq]
    have frame : ChangesOnly (withDispatch [.redecode, .segments, .lanes, .sm, .re, .power]) s
        (putReply c.tag .accepted (omitAnnotations n (redecodeStarted n (entered rest s)))) :=
      ((entered_frame rest s).mono (by decide)).trans (((redecodeStarted_frame _ _).mono
        (by decide)).trans (((omitAnnotations_frame _ _).mono (by decide)).trans
          ((putReply_frame _ _ _).mono (by decide))))
    have begun := beginRedecode_eq (s := entered rest s) (n := n) (by rw [segments]; exact ticks)
      (by rw [segments]; exact records)
    dsimp only at owned
    rw [begun, omitAnnotations_started] at owned
    rw [omitAnnotations_started] at frame
    refine ⟨_, owned, ⟨?_, rfl⟩, ?_, ?_, ?_, rfl, fun l => ?_, ?_, ?_, frame⟩ <;>
      simp only [putReply_redecode, putReply_segments, putReply_lanes, putReply_pru, putReply_re, putReply_lp,
        redecodeStarted]
    · rw [startLanes_eq, entered_eq]
      rfl
    · rw [startLanes_eq]
      exact entered_power rest awake
    · rw [entered_eq]
    · rw [startLanes_eq, entered_eq]
      rfl
    · rw [startLanes_lane, entered_eq]
      rfl
    · intro d draws shows remain
      exact omitAnnotations_open (s := entered rest s) (by rw [re]; exact draws) shows (by rw [re]; exact remain)
    · intro done
      rw [omitAnnotations_done (s := entered rest s) (by rw [re]; exact done), re]

end Sys2Proof.Machine
end

section
/-! SUPPORT. The frame boundary (R137, R153, R154), the fill of the frame buffers (R47, R153), and the grants of
the Memory Port with the render's pixel writes (R59, R142). -/

namespace Sys2Proof.Machine

/-! ### The frame boundary (R137, R153, R154) -/

section

variable (s : State)

/-- A boundary in one update: the tables are taken up, and a new active size removes the view and fills. -/
theorem beginFrame_eq : beginFrame s = { s with
    su := takeUp s.time { s.su with frontView := if s.su.resizing then none else s.su.frontView }
    mp.fill := if s.su.resizing then some (fillBoth .panel s) else s.mp.fill } := by
  unfold beginFrame applyResize
  by_cases resizes : s.su.resizing = true
  · simp only [resizes, if_true]
  · simp only [resizes]
    rfl

/-- A flip changes the front buffer with its view, the job, the holds and the notice slots. -/
theorem flip_eq : flip s = { s with
    su.front := (flip s).su.front, su.frontView := (flip s).su.frontView, re := (flip s).re
    segments := (flip s).segments, lp.notices := (flip s).lp.notices } := by
  unfold flip
  split
  · dsimp only
    rw [raiseNotice_eq]
    split <;> rfl
  · rfl

/-- Without a render in WaitFlip nothing flips. -/
theorem flip_of_other (other : s.re.job ≠ .waitFlip) : flip s = s := by
  unfold flip
  split
  · next waits _ => exact absurd waits other
  · rfl

variable {s}

/-- The front buffer, the view and the notice of a render that flips. -/
theorem flip_shows {d : Draw} (waits : s.re.job = .waitFlip) (draws : s.re.draw = some d) :
    (flip s).su.front = d.snapshot.buffer ∧ (flip s).su.frontView = some (frontViewOf d.snapshot) ∧
      raised (.renderDone d.snapshot.view.segment d.outcome) s (flip s) := by
  unfold flip
  rw [waits, draws]
  dsimp only
  by_cases pending : s.re.pending = true
  · rw [if_pos pending, raiseNotice_eq]
    exact ⟨rfl, rfl, raised_of_same rfl rfl rfl⟩
  · rw [if_neg pending, raiseNotice_eq]
    exact ⟨rfl, rfl, raised_of_same rfl rfl rfl⟩

/-- A render that flips with none pending leaves its results and its hold goes. -/
theorem flip_ends {d : Draw} (waits : s.re.job = .waitFlip) (draws : s.re.draw = some d) (last : s.re.pending = false) :
    (flip s).re = endRender d s.re ∧ (flip s).segments = s.segments.set d.snapshot.view.segment
      { s.segments[d.snapshot.view.segment] with
        holdCount := s.segments[d.snapshot.view.segment].holdCount - 1 } := by
  unfold flip
  rw [waits, draws]
  dsimp only
  rw [if_neg (by simp [last]), raiseNotice_eq]
  exact ⟨rfl, rfl⟩

/-- A render that flips with one pending starts it for the other buffer. -/
theorem flip_starts {d : Draw} (waits : s.re.job = .waitFlip) (draws : s.re.draw = some d) (more : s.re.pending = true) :
    (flip s).re.job = .drawing ∧ (flip s).re.pending = false ∧ (flip s).re.outcome = none ∧
      ∃ e, (flip s).re.draw = some e ∧ e.snapshot.buffer = !d.snapshot.buffer ∧
        (flip s).re.segment = some e.snapshot.view.segment := by
  unfold flip
  rw [waits, draws]
  dsimp only
  rw [if_pos more, raiseNotice_eq]
  exact ⟨rfl, rfl, rfl, _, rfl, rfl, rfl⟩

end

/-- Settles O41: a flip of a render in WaitFlip, and then the tables are taken up. -/
theorem frameBoundaryTakesUpTablesAndFlips : Obligations.FrameBoundaryTakesUpTablesAndFlips := by
  intro s awake lasted
  have due : boundaryDue s = true := by
    simp only [boundaryDue, scanning, Bool.and_eq_true, bne_iff_ne, decide_eq_true_eq]
    exact ⟨awake, lasted⟩
  have step : exec .frameBoundary s = .next (beginFrame (flip s)) := by
    change execFrameBoundary s = _
    unfold execFrameBoundary
    rw [if_pos due]
  have frame : ChangesOnly [.su, .fill, .re, .job, .segments, .holds, .notices] s (beginFrame (flip s)) :=
    ((flip_frame s).mono (by decide)).trans ((beginFrame_frame _).mono (by decide))
  have kept := flip_eq s
  rw [beginFrame_eq] at step frame
  refine ⟨_, step, ?_, ?_, ?_, ?_, rfl, rfl, rfl, rfl, ?_, ?_, ?_, ?_, ?_, frame⟩
  · rw [kept]; rfl
  · rw [kept]; rfl
  · rw [kept]; rfl
  · rw [kept]; rfl
  · rw [kept]; rfl
  · intro whole
    rw [kept]
    dsimp only
    rw [whole]
    rfl
  · intro resizes
    rw [kept]
    dsimp only
    rw [resizes]
    exact ⟨rfl, rfl⟩
  · intro other
    rw [flip_of_other s other]
    refine ⟨rfl, rfl, rfl, rfl, fun whole => ?_⟩
    simp only [whole, takeUp]
    rfl
  · rintro d n waits draws rfl
    obtain ⟨front, view, notice⟩ := flip_shows waits draws
    refine ⟨front, notice, fun whole => ?_, fun last => flip_ends waits draws last,
      fun more => flip_starts waits draws more⟩
    have resizing : (flip s).su.resizing = false := by
      rw [kept]
      exact whole
    simp only [takeUp, resizing, view]
    rfl

/-! ### The fill of the frame buffers (R47, R153) -/

/-- The part once a fill has no block left, before the WRITE that waits is answered. -/
def filled (s : State) : State := { s with mp.fill := none, su.scanBase := s.mp.regions.symbolEnd }

theorem replyToFill_of_write {s : State} {tag : Byte} (write : s.lp.inProgress = some (.fill tag)) :
    replyToFill (filled s) = putReply tag (.done []) { filled s with lp.inProgress := none } := by
  rw [replyToFill, show (filled s).lp.inProgress = some (.fill tag) from write]

theorem replyToFill_of_other {s : State} (other : ∀ tag, s.lp.inProgress ≠ some (.fill tag)) :
    replyToFill (filled s) = filled s := by
  unfold replyToFill
  split
  · next tag write => exact absurd write (other tag)
  · rfl

theorem inDram_iff {s : State} {a n : Nat} : inDram s a n = true ↔ a + n ≤ totalBlocks s.mp.size * 65536 :=
  decide_eq_true_iff

/-- Settles O43: the fill's blocks one by one, and the reply at its end. -/
theorem fillClearsABlockAndEndsWithDone : Obligations.FillClearsABlockAndEndsWithDone := by
  refine ⟨fun s f grant fill inside => ?_, fun s f fill nothing_left => ?_⟩
  · have room : inDram s (f.next * 65536) 65536 = true := inDram_iff.2 (by omega)
    have step : exec .frameBufferFillBlock s = .next { s with
        dram := memClear s.dram (f.next * 65536) 65536
        mp.fill := some { f with next := f.next + 1, left := f.left - 1 } } := by
      change execFrameBufferFillBlock s = _
      unfold execFrameBufferFillBlock
      rw [if_pos (granted_iff.2 grant), fill]
      exact if_pos room
    refine ⟨_, step, fun x => ?_, rfl, row_frameBufferFillBlock step⟩
    dsimp only
    rw [memRead_memClear, Nat.add_one_mul]
  · have step : exec .fillComplete s =
        .next (replyToFill (filled s)) := by
      change execFillComplete s = _
      unfold execFillComplete
      rw [if_pos (by simp [fillFinished, fill, nothing_left]), filled]
    have frame := row_fillComplete step
    by_cases write : ∃ tag, s.lp.inProgress = some (.fill tag)
    · obtain ⟨tag, write⟩ := write
      rw [replyToFill_of_write (tag := tag) write] at step frame
      refine ⟨_, step, rfl, rfl, fun other same => ?_, fun none_waits => absurd write (none_waits tag), frame⟩
      obtain rfl : tag = other := by simpa [write] using same
      rfl
    · rw [replyToFill_of_other fun tag waits => write ⟨tag, waits⟩] at step frame
      exact ⟨_, step, rfl, rfl, fun tag waits => absurd ⟨tag, waits⟩ write, fun _ => rfl, frame⟩

/-! ### The grants of the Memory Port (R59, R122) -/

/-- The place of a requester in the arbiter's order, in which a redecode's three kinds of request stand apart. -/
def Requester.place : Requester → Nat
  | .scanRow => 0
  | .fillBlock => 1
  | .drain => 2
  | .mergeWrite => 3
  | .mergeTrim => 4
  | .renderPixels => 5
  | .renderRecord => 6
  | .renderSymbol => 7
  | .redecodeWrite => 8
  | .redecodeTrim => 9
  | .redecodeRead => 10
  | .readout => 11

theorem priority_of_place {r q : Requester} (order : r.place ≤ q.place) : r.priority ≤ q.priority := by
  cases r <;> cases q <;> first | decide | exact absurd order (by decide)

theorem requests_ordered (s : State) : (requests s).Pairwise fun a b => a.1.place < b.1.place := by
  simp [requests, Requester.place]

/-- What a search of an ordered list finds comes before everything else that would do. -/
theorem find?_before {α : Type} {before : α → α → Prop} {test : α → Bool} {l : List α} {a b : α}
    (ordered : l.Pairwise before) (found : l.find? test = some a) (member : b ∈ l) (yes : test b = true) :
    a = b ∨ before a b := by
  obtain ⟨_, low, high, rfl, none_low⟩ := List.find?_eq_some_iff_append.1 found
  rcases List.mem_append.1 member with below | above
  · exact absurd yes (by simpa using none_low b below)
  · rcases List.mem_cons.1 above with same | after
    · exact .inl same.symm
    · exact .inr (List.rel_of_pairwise_cons (List.pairwise_append.1 ordered).2.1 after)

section

variable {s : State}

theorem wantsPixels_iff : wantsPixels s = true ↔ Waits s .renderPixels := by
  unfold wantsPixels Waits
  cases s.re.draw <;> simp

theorem wantsRecord_iff : wantsRecord s = true ↔ Waits s .renderRecord := by
  unfold wantsRecord Waits
  cases draws : s.re.draw with
  | none => simp
  | some d => cases phase : d.phase <;> simp [phase]

theorem wantsSymbol_iff : wantsSymbol s = true ↔ Waits s .renderSymbol := by
  unfold wantsSymbol Waits
  cases draws : s.re.draw with
  | none => simp
  | some d => cases phase : d.phase <;> simp [phase]

theorem wantsReplay_iff : wantsReplay s = true ↔ Waits s .redecodeRead := by
  unfold wantsReplay Waits
  cases s.redecode <;> simp

theorem wantsReadout_iff : wantsReadout s = true ↔ Waits s .readout := by
  unfold wantsReadout Waits
  cases s.lp.readout <;> simp [and_assoc]

theorem waits_fill_iff : (s.mp.fill.any fun f => decide (0 < f.left)) = true ↔ Waits s .fillBlock := by
  unfold Waits
  cases s.mp.fill <;> simp

/-- The requests of the arbiter are those that wait. -/
theorem requested_iff {r : Requester} : (r, true) ∈ requests s ↔ Waits s r := by
  simp only [requests, List.mem_cons, Prod.mk.injEq, List.not_mem_nil, or_false]
  cases r <;> simp only [reduceCtorEq, false_and, true_and, or_false, false_or, eq_comm (a := true),
    wantsPixels_iff, wantsRecord_iff, wantsSymbol_iff, wantsReplay_iff, wantsReadout_iff, waits_fill_iff]
  all_goals simp [Waits, Option.isNone_iff_eq_none, Option.isSome_iff_ne_none]

/-- A grant goes to the waiting requester that comes first in the arbiter's order. -/
theorem place_of_granted {r q : Requester} (grant : nextGrant s = some r) (waits : Waits s q) :
    r.place ≤ q.place := by
  unfold nextGrant at grant
  split at grant
  · cases grant
  · obtain ⟨⟨who, asks⟩, found, rfl⟩ := Option.map_eq_some_iff.1 grant
    rcases find?_before (requests_ordered s) found (requested_iff.2 waits) rfl with same | before
    · rw [same]
    · exact Nat.le_of_lt before

theorem granted_of_waits {q : Requester} (awake : s.pru.power ≠ .sleep) (waits : Waits s q) :
    ∃ r, nextGrant s = some r := by
  unfold nextGrant
  rw [if_neg awake]
  cases found : (requests s).find? (·.2) with
  | some r => exact ⟨_, rfl⟩
  | none => exact absurd (List.find?_eq_none.1 found _ (requested_iff.2 waits)) (by simp)

end

/-- The run of pixels granted is stored, and the render goes on with the rest. -/
theorem exec_renderPixelWrite {s : State} {d : Draw} {w : PixelRun} {ws : List PixelRun}
    (grant : nextGrant s = some .renderPixels) (draws : s.re.draw = some d) (writes : d.writes = w :: ws)
    (inside : inDram s (runAddress s d w) w.pixels.length = true) :
    exec .renderPixelWrite s = .next { s with
      dram := memWriteBytes s.dram (runAddress s d w) w.pixels, re := wrotePixels d ws s.re } := by
  change execRenderPixelWrite s = _
  unfold execRenderPixelWrite
  rw [if_pos (granted_iff.2 grant), draws]
  dsimp only
  rw [writes]
  exact if_pos inside

/-- Settles O37: the run's place in the back buffer, and the arbiter's order. -/
theorem pixelWriteStoresOneRun : Obligations.PixelWriteStoresOneRun := by
  refine ⟨?_, fun s => ⟨fun asleep => if_pos asleep, fun awake => ⟨fun r grant => ⟨?_, fun q waits => ?_⟩, ?_, ?_,
    fun waits grant => ?_⟩⟩⟩
  · intro s d w ws address grant draws writes placed inside canonical
    have place : runAddress s d w = address := by
      rw [placed, runAddress, bufferAddress, bufferBlocks]
      cases d.snapshot.buffer <;> simp [flag, Config.blockBytes]
    have step := exec_renderPixelWrite grant draws writes (by rw [place]; exact inDram_iff.2 inside)
    refine ⟨_, step, fun x => ?_, ?_, row_renderPixelWrite step⟩
    · dsimp only
      rw [place, memRead_memWriteBytes _ _ _ _ canonical]
    · simp only [wrotePixels, List.isEmpty_iff, Option.isNone_iff_eq_none]
  · exact requested_iff.1 (requested_of_granted grant)
  · exact priority_of_place (place_of_granted grant waits)
  · rintro ⟨q, waits⟩
    obtain ⟨r, grant⟩ := granted_of_waits awake waits
    simp [grant]
  · intro waits
    obtain ⟨r, grant⟩ := granted_of_waits awake waits
    have first := place_of_granted grant waits
    cases r <;> first | exact grant | exact absurd first (by decide)
  · exact absurd (place_of_granted grant waits) (by decide)

end Sys2Proof.Machine
end

section
/-! SUPPORT. Scan-out: row reads (R155), the panel port (R153 to R156) and the overlay (R159, R160), with the
columns of a view (R139). -/

namespace Sys2Proof.Machine

/-! ### Columns (R139) -/

section

variable {zoom width : Nat} {d : Int}

theorem columnOf_left : columnOf zoom width d = .left ↔ d < 0 := by
  unfold columnOf
  split_ifs <;> simp [*]

theorem columnOf_right : columnOf zoom width d = .right ↔ (width * zoom : Nat) ≤ d * 256 := by
  unfold columnOf
  split_ifs with before reaches
  · simp only [false_iff]
    omega
  · simpa using reaches
  · simpa using reaches

/-- A column holds the offsets from its own left edge to that of the next. -/
theorem columnOf_at {c : Nat} : columnOf zoom width d = .at c ↔
    c < width ∧ (c * zoom : Nat) ≤ d * 256 ∧ d * 256 < ((c + 1) * zoom : Nat) := by
  unfold columnOf
  split_ifs with before reaches
  · simp only [false_iff]
    omega
  · simp only [false_iff]
    rintro ⟨inside, _, below⟩
    have : (c + 1) * zoom ≤ width * zoom := Nat.mul_le_mul_right zoom inside
    omega
  · obtain ⟨n, rfl⟩ := Int.eq_ofNat_of_zero_le (Int.not_lt.1 before)
    have below : n * 256 < width * zoom := by omega
    have zoomed : 0 < zoom := Nat.pos_of_ne_zero fun zero => by simp [zero] at below
    rw [Column.at.injEq, Int.toNat_natCast, Nat.div_eq_iff zoomed]
    constructor
    · rintro ⟨low, high⟩
      have : c * zoom < width * zoom := by omega
      exact ⟨Nat.lt_of_mul_lt_mul_right this, by omega, by rw [Nat.add_one_mul]; omega⟩
    · rintro ⟨_, low, high⟩
      rw [Nat.add_one_mul] at high
      omega

end

/-! ### Row reads (R155) -/

section

variable {s : State} {y : Nat}

/-- The row that scan-out waits for is that of the line after the current one. -/
theorem wantedRow_line (wants : (wantedRow s).isSome)
    (next : leadLines s.su.applied + y = currentLine s + 1) : wantedRow s = some y := by
  obtain ⟨line, wanted⟩ := Option.isSome_iff_exists.1 wants
  have asked : requestLine s = some line := by
    unfold wantedRow at wanted
    split at wanted
    · exact (Option.filter_eq_some_iff.1 wanted).1
    · cases wanted
  unfold requestLine at asked
  dsimp only at asked
  split at asked
  · obtain rfl : currentLine s + 1 - leadLines s.su.applied = line := Option.some.inj asked
    rw [wanted]
    congr 1
    omega
  · cases asked

theorem exec_scanOutRowRead (grant : nextGrant s = some .scanRow) (wanted : wantedRow s = some y)
    (inside : inDram s (rowAddress s.su y) s.su.applied.width = true) :
    exec .scanOutRowRead s = .next { s with
      su := takeRow y (memReadBytes s.dram (rowAddress s.su y) s.su.applied.width) s.su } := by
  change execScanOutRowRead s = _
  unfold execScanOutRowRead
  rw [if_pos (granted_iff.2 grant), wanted]
  exact if_pos inside

end

/-! ### The overlay (R159, R160) -/

section

variable {v : FrontView} {x y : Nat}

theorem inArea_iff : inArea v x y = true ↔
    v.left ≤ x ∧ x < v.left + v.width ∧ v.top ≤ y ∧ y < v.top + v.height := decide_eq_true_iff

theorem inArrow_iff {k m : Nat} : inArrow k m y = true ↔ k ≤ 2 ∧ m ≤ y + (2 - k) ∧ y ≤ m + (2 - k) :=
  decide_eq_true_iff

/-- A cursor in the area is a line in its column, or an arrow at the edge beyond which it lies. -/
theorem cursorCovers_iff {c : Cursor} {m : Nat} (area : inArea v x y = true) :
    cursorCovers v c m x y = true ↔ c.enabled = true ∧
      ((∃ k, columnOf v.zoom v.width (c.offset - v.origin) = .at k ∧ x = v.left + k) ∨
        (columnOf v.zoom v.width (c.offset - v.origin) = .left ∧
          ∃ i ≤ 2, x = v.left + i ∧ m ≤ y + (2 - i) ∧ y ≤ m + (2 - i)) ∨
        (columnOf v.zoom v.width (c.offset - v.origin) = .right ∧
          ∃ i ≤ 2, x + 1 + i = v.left + v.width ∧ m ≤ y + (2 - i) ∧ y ≤ m + (2 - i))) := by
  obtain ⟨left, right, _, _⟩ := inArea_iff.1 area
  unfold cursorCovers viewColumn
  rw [area, Bool.and_true, Bool.and_eq_true]
  refine and_congr_right fun _ => ?_
  cases columnOf v.zoom v.width (c.offset - v.origin) with
  | left =>
    simp only [inArrow_iff, reduceCtorEq, false_and, exists_false, true_and, or_false, false_or]
    constructor
    · exact fun ⟨near, low, high⟩ => ⟨x - v.left, near, by omega, low, high⟩
    · rintro ⟨i, near, rfl, low, high⟩
      rw [Nat.add_sub_cancel_left]
      exact ⟨near, low, high⟩
  | right =>
    simp only [inArrow_iff, reduceCtorEq, false_and, exists_false, true_and, false_or]
    constructor
    · exact fun ⟨near, low, high⟩ => ⟨v.left + v.width - 1 - x, near, by omega, low, high⟩
    · rintro ⟨i, near, place, low, high⟩
      rw [show v.left + v.width - 1 - x = i by omega]
      exact ⟨near, low, high⟩
  | _ => simp

theorem markerCovers_iff {r : Time} (reference : v.reference = some r) (area : inArea v x y = true) :
    markerCovers v x y = true ↔ (y - v.top) % 4 < 2 ∧ ∃ t k, v.triggerTime = some t ∧
      columnOf v.zoom v.width (timeDiff t r - v.origin) = .at k ∧ x = v.left + k := by
  unfold markerCovers viewColumn
  rw [reference]
  cases v.triggerTime with
  | none => simp
  | some t =>
    dsimp only
    rw [area]
    simp only [Option.some.injEq, exists_and_left, exists_eq_left', Bool.true_and, Bool.and_eq_true, decide_eq_true_eq]
    refine and_congr_right fun _ => ?_
    cases columnOf v.zoom v.width (timeDiff t r - v.origin) <;> simp

theorem overlayIndex_none {su : Su} (shown : su.frameView = some v)
    (out : v.reference = none ∨ inArea v x y = false) : overlayIndex su x y = none := by
  unfold overlayIndex
  rw [shown]
  dsimp only
  rcases out with none_there | outside
  · rw [if_pos (by simp [none_there])]
  · split
    · rfl
    · have no_marker : markerCovers v x y = false := by
        unfold markerCovers
        split <;> simp [outside]
      simp [cursorCovers, outside, no_marker]

/-- The overlay of a pixel of the area: cursor 1 over cursor 2 over the marker. -/
theorem overlayIndex_area {su : Su} {r : Time} (shown : su.frameView = some v) (reference : v.reference = some r) :
    overlayIndex su x y =
      if cursorCovers v su.appliedCursors.cursor1 (v.top + v.height / 3) x y then
        some su.appliedCursors.cursor1.colour
      else if cursorCovers v su.appliedCursors.cursor2 (v.top + 2 * v.height / 3) x y then
        some su.appliedCursors.cursor2.colour
      else if markerCovers v x y then some su.appliedCursors.marker else none := by
  unfold overlayIndex
  rw [shown]
  dsimp only
  rw [if_neg (by simp [reference])]

end

/-! ### The panel port (R153 to R156) -/

/-- The index the front buffer gives a pixel: none while a panel fill runs, else that of the row read for its
line, where there is one. -/
theorem bufferIndex_eq {s : State} {x y : Nat} {index : Byte}
    (fills : (∃ f, s.mp.fill = some f ∧ f.kind = .panel) → index = 0)
    (reads : (∀ f, s.mp.fill = some f → f.kind ≠ .panel) →
      (∀ r, s.su.read = some r → r.line = y → index = r.pixels.getD x 0) ∧
      (∀ r q, s.su.read = some r → r.line ≠ y → s.su.shown = some q → q.line = y → index = q.pixels.getD x 0) ∧
      ((∀ r, s.su.read = some r → r.line ≠ y) →
        (s.su.read = none ∨ ∀ q, s.su.shown = some q → q.line ≠ y) → index = 0)) :
    bufferIndex s x y = index := by
  have runs : panelFillRuns s = true ↔ ∃ f, s.mp.fill = some f ∧ f.kind = .panel := by
    unfold panelFillRuns
    cases s.mp.fill <;> simp
  unfold bufferIndex
  by_cases panel : panelFillRuns s = true
  · rw [if_pos panel, fills (runs.1 panel)]
  · obtain ⟨of_read, of_shown, of_none⟩ := reads fun f fill kind => panel (runs.2 ⟨f, fill, kind⟩)
    rw [if_neg panel]
    cases read : s.su.read with
    | none => exact (of_none (by simp [read]) (.inl read)).symm
    | some r =>
      dsimp only
      by_cases line : r.line = y
      · rw [if_pos line, of_read r read line]
      · rw [if_neg line]
        have other : ∀ q, s.su.read = some q → q.line ≠ y := fun q same => by
          obtain rfl : r = q := Option.some.inj (read.symm.trans same)
          exact line
        cases shown : s.su.shown with
        | none => exact (of_none other (.inr (by simp [shown]))).symm
        | some q =>
          dsimp only
          by_cases same : q.line = y
          · rw [if_pos same, of_shown r q read line shown same]
          · rw [if_neg same]
            refine (of_none other (.inr fun z hz => ?_)).symm
            obtain rfl : q = z := Option.some.inj (shown.symm.trans hz)
            exact same

/-- A sync output stands at its active level exactly in its interval. -/
theorem sync_iff (interval : Prop) [Decidable interval] (active : Bool) :
    (decide interval == active) = active ↔ interval := by
  by_cases inside : interval <;> cases active <;> simp [inside]

/-- Settles O42: the row read, the port's pins by their intervals, the columns, and the overlay. -/
theorem rowReadTakesTheRowOfTheNextLine : Obligations.RowReadTakesTheRowOfTheNextLine := by
  refine ⟨?_, ?_, fun zoom width d => ⟨columnOf_left, columnOf_right, fun c => columnOf_at⟩, ?_⟩
  · intro s y address grant next placed inside
    have wanted : wantedRow s = some y := wantedRow_line (requested_iff.1 (requested_of_granted grant)) next
    have place : rowAddress s.su y = address := by
      rw [placed, rowAddress, bufferAddress, bufferBlocks]
      cases s.su.front <;> simp [flag, Config.blockBytes]
    have step := exec_scanOutRowRead grant wanted (by rw [place]; exact inDram_iff.2 inside)
    refine ⟨_, _, step, rfl, rfl, memReadBytes_length _ _ _, fun x below => ?_, row_scanOutRowRead step⟩
    dsimp only
    rw [memReadBytes_getD below, place]
  · rintro s p total line x rfl rfl rfl rfl
    refine ⟨fun off => ?_, fun enabled awake => ?_⟩
    · have low : s.su.applied.enabled = false ∨ scanning s = false := off.imp_right fun asleep => by
        simp [scanning, asleep]
      unfold panelPins
      dsimp only
      rw [if_pos low]
    · have high : ¬(s.su.applied.enabled = false ∨ scanning s = false) := by
        simp [scanning, enabled, awake]
      unfold panelPins
      dsimp only
      rw [if_neg high]
      refine ⟨sync_iff _ _, sync_iff _ _, fun inactive => if_neg ?_,
        fun y index line_y across below fills reads => ?_⟩
      · rw [decide_eq_true_eq]
        rintro ⟨across, lead, below⟩
        rcases inactive with beyond | early | late
        · exact absurd across (Nat.not_lt.2 beyond)
        · exact absurd lead (Nat.not_le.2 early)
        · exact absurd below (Nat.not_lt.2 late)
      · have line : currentLine s = leadLines s.su.applied + y := line_y
        refine (if_pos ?_).trans ?_
        · rw [decide_eq_true_eq, line]
          exact ⟨across, Nat.le_add_right _ _, Nat.add_lt_add_left below _⟩
        · have buffer : bufferIndex s (frameAge s % lineTicks s.su.applied / s.su.applied.divisor) y = index :=
            bufferIndex_eq fills reads
          rw [line, Nat.add_sub_cancel_left]
          subst buffer
          rfl
  · intro su x y
    refine ⟨fun no_view => ?_, fun v shown => ⟨fun no_reference => overlayIndex_none shown (.inl no_reference),
      fun outside => overlayIndex_none shown (.inr ?_), ?_⟩⟩
    · unfold overlayIndex
      rw [no_view]
    · rw [← Bool.not_eq_true, inArea_iff]
      exact outside
    · intro r covers marker reference left right top bottom covers_iff marker_iff
      have area : inArea v x y = true := inArea_iff.2 ⟨left, right, top, bottom⟩
      have is_cursor (c : Cursor) (m : Nat) : cursorCovers v c m x y = true ↔ covers c m :=
        (cursorCovers_iff area).trans (covers_iff c m).symm
      have is_marker : markerCovers v x y = true ↔ marker := (markerCovers_iff reference area).trans marker_iff.symm
      rw [overlayIndex_area shown reference]
      simp only [← is_cursor, ← is_marker]
      exact ⟨fun first => if_pos first, fun first second => by rw [if_neg first, if_pos second],
        fun first second => ⟨fun there => by rw [if_neg first, if_neg second, if_pos there],
          fun absent => by rw [if_neg first, if_neg second, if_neg absent]⟩⟩

end Sys2Proof.Machine
end

section
/-! SUPPORT. RENDER and SWAP (R134 to R136): the snapshot, the stack of rows, and the window that is read. -/

namespace Sys2Proof.Machine

/-! ### The window that is read (R141) -/

theorem foldl_min_spec (l : List Int) (a : Int) : l.foldl min a ≤ a ∧ (∀ t ∈ l, l.foldl min a ≤ t) ∧
    (l.foldl min a = a ∨ l.foldl min a ∈ l) := by
  induction l generalizing a with
  | nil => simp
  | cons b l ih =>
    obtain ⟨low, below, reached⟩ := ih (min a b)
    refine ⟨low.trans (min_le_left _ _), fun t member => ?_, ?_⟩
    · rcases List.mem_cons.1 member with rfl | later
      · exact low.trans (min_le_right _ _)
      · exact below t later
    · rcases reached with first | later
      · rw [List.foldl_cons, first]
        rcases min_choice a b with left | right
        · exact .inl left
        · exact .inr (by simp [right])
      · exact .inr (List.mem_cons_of_mem _ later)

theorem foldl_max_succ_spec (l : List Int) (a : Int) : a ≤ l.foldl (fun t c => max t (c + 1)) a ∧
    (∀ t ∈ l, t + 1 ≤ l.foldl (fun t c => max t (c + 1)) a) ∧
    (l.foldl (fun t c => max t (c + 1)) a = a ∨ l.foldl (fun t c => max t (c + 1)) a - 1 ∈ l) := by
  induction l generalizing a with
  | nil => simp
  | cons b l ih =>
    obtain ⟨high, above, reached⟩ := ih (max a (b + 1))
    refine ⟨(le_max_left _ _).trans high, fun t member => ?_, ?_⟩
    · rcases List.mem_cons.1 member with rfl | later
      · exact (le_max_right _ _).trans high
      · exact above t later
    · rcases reached with first | later
      · rw [List.foldl_cons, first]
        rcases max_choice a (b + 1) with left | right
        · exact .inl left
        · exact .inr (by simp [right])
      · exact .inr (List.mem_cons_of_mem _ later)

section

variable {sn : Snapshot}

theorem mem_cursorsInside {t : Int} : t ∈ cursorsInside sn ↔ relStart sn ≤ t ∧ t < relEnd sn ∧
    ∃ c ∈ [sn.cursor1, sn.cursor2], c.enabled = true ∧ c.offset = t := by
  unfold cursorsInside
  simp only [List.mem_map, List.mem_filter, Bool.and_eq_true, decide_eq_true_eq]
  constructor
  · rintro ⟨c, ⟨among, enabled, low, high⟩, rfl⟩
    exact ⟨low, high, c, among, enabled, rfl⟩
  · rintro ⟨low, high, c, among, enabled, rfl⟩
    exact ⟨c, ⟨among, enabled, low, high⟩, rfl⟩

/-- The right edge is the first time right of every column. -/
theorem rightEdge_le {t : Int} : rightEdge sn ≤ t ↔
    (sn.view.width * sn.view.zoom : Nat) ≤ (t - sn.view.origin) * 256 := by
  unfold rightEdge
  generalize sn.view.width * sn.view.zoom = across
  omega

end

/-! ### The stack of rows (R142) -/

theorem stackRows_length (top height y : Nat) (rows : List Row) :
    (stackRows top height y rows).length ≤ rows.length := by
  induction rows generalizing y with
  | nil => simp [stackRows]
  | cons r rows ih =>
    rw [stackRows]
    split
    · exact Nat.succ_le_succ (ih _)
    · exact Nat.zero_le _

/-- A row is placed exactly where it fits below the rows before it. -/
theorem stackRows_getElem? {top height y offset i : Nat} {rows : List Row} {r : Row} (row : rows[i]? = some r)
    (place : offset = y + ((rows.take i).map (·.height)).sum) :
    (stackRows top height y rows)[i]? =
      if offset + r.height ≤ height then some { row := r, top := top + offset } else none := by
  induction rows generalizing y i with
  | nil => simp at row
  | cons first rows ih =>
    rw [stackRows]
    cases i with
    | zero =>
      obtain rfl : first = r := by simpa using row
      obtain rfl : offset = y := by simpa using place
      split <;> simp
    | succ i =>
      have later : rows[i]? = some r := by simpa using row
      rw [List.take_succ_cons, List.map_cons, List.sum_cons] at place
      split
      · rw [List.getElem?_cons_succ]
        exact ih later (by omega)
      · rw [if_neg (by omega), List.getElem?_nil]

/-! ### The snapshot of a render (R134, R136) -/

theorem activeSet_eq (r : Re) : activeSet r = if r.active = .a then r.setA else r.setB := by
  unfold activeSet
  cases r.active <;> rfl

theorem referenceOf_eq (v : View) (g : SegmentStatus) : referenceOf v g =
    if v.reference = .trigger ∧ g.triggerTime.isSome then g.triggerTime else g.startTime := by
  unfold referenceOf
  cases v.reference <;> cases g.triggerTime <;> simp

theorem lanePlaced_iff {d : Draw} : lanePlaced d = true ↔ ∃ p ∈ d.placed, ∃ l, p.row.kind = .lane l := by
  unfold lanePlaced
  rw [List.any_eq_true]
  refine exists_congr fun p => and_congr_right fun _ => ?_
  cases p.row.kind <;> simp

theorem exec_render {c : LinkCell} {rest : List LinkCell} {s : State} (ready : Ready c rest s) (code : c.code = 7)
    (payload : c.payload = []) (awake : s.pru.power ≠ .sleep) :
    exec .render s = .next (putReply c.tag .accepted (requestRender (entered rest s))) :=
  dispatch_owner ready (commandRow_render code) (by simp [payload]) (absurd · awake)

/-- The phase in which a render begins. -/
theorem newDraw_phase (sn : Snapshot) {laneRow : Prop} (lane : laneRow ↔ ∃ p ∈ (newDraw sn).placed, ∃ l, p.row.kind = .lane l) :
    (sn.noData = true → (newDraw sn).phase = .finished) ∧
    (sn.noData = false → windowEnd sn ≤ windowStart sn →
      (laneRow ∧ sn.redecoding = false ∧ sn.symbolCount ≠ 0 →
        (newDraw sn).phase = .symbols sn.symbolFirst sn.symbolCount) ∧
      (¬(laneRow ∧ sn.redecoding = false ∧ sn.symbolCount ≠ 0) → (newDraw sn).phase = .finished)) ∧
    (sn.noData = false → windowStart sn < windowEnd sn →
      (newDraw sn).phase = .locate sn.newest sn.recordCount (sn.endTime.getD 0)) := by
  have reads : lanePlaced { newDraw sn with phase := .finished } = true ↔ laneRow := lanePlaced_iff.trans lane.symm
  have some_data (data : sn.noData = false) : ¬sn.noData = true := by simp [data]
  have span (data : sn.noData = false) (empty : windowEnd sn ≤ windowStart sn) :
      (newDraw sn).phase = spanPhase { newDraw sn with phase := .finished } :=
    (if_neg (some_data data)).trans (if_pos empty)
  refine ⟨fun none_there => if_pos none_there, fun data empty => ?_, fun data window =>
    (if_neg (some_data data)).trans (if_neg (not_le.2 window))⟩
  rw [span data empty]
  refine ⟨fun ⟨lane_row, shown, symbols⟩ => if_pos ?_, fun nothing => if_neg fun all => nothing ?_⟩
  · rw [reads.2 lane_row, show (newDraw sn).omitted = false from shown]
    exact bne_iff_ne.2 symbols
  · simp only [Bool.and_eq_true, Bool.not_eq_true', bne_iff_ne] at all
    obtain ⟨⟨placed, shown⟩, symbols⟩ := all
    exact ⟨reads.1 placed, shown, symbols⟩

/-- The snapshot of a render that starts, field by field. -/
theorem snapshotOf_eq {s : State} {set : ViewSet} {v : View} {g : SegmentStatus}
    (hset : set = if s.re.active = .a then s.re.setA else s.re.setB)
    (hv : v = clampArea s.su.panel.width s.su.panel.height set.view) (hg : g = s.segments[v.segment]) :
    snapshotOf s = {
      view := v, rows := set.rows.toList.take v.rowCount, panelWidth := s.su.panel.width
      panelHeight := s.su.panel.height
      cursor1 := { enabled := s.su.cursors.cursor1.enabled, offset := s.su.cursors.cursor1.offset }
      cursor2 := { enabled := s.su.cursors.cursor2.enabled, offset := s.su.cursors.cursor2.offset }
      noData := decide (g.state = .empty ∨ g.recordCount = 0), filling := decide (g.state = .filling)
      oldest := g.oldest.getD 0, newest := g.newest.getD 0, recordCount := g.recordCount
      startTime := g.startTime, endTime := g.endTime, triggerTime := g.triggerTime
      symbolFirst := g.symbolFirst.getD 0, symbolCount := g.symbolCount
      reference := if v.reference = .trigger ∧ g.triggerTime.isSome then g.triggerTime else g.startTime
      buffer := !s.su.front
      redecoding := decide (∃ r, s.redecode = some r ∧ r.segment = v.segment) } := by
  have redecoding : decide (∃ r, s.redecode = some r ∧ r.segment = v.segment) = redecodesSegment s v.segment := by
    rw [Bool.eq_iff_iff, decide_eq_true_iff, redecodesSegment_iff]
  obtain rfl : activeSet s.re = set := (activeSet_eq _).trans hset.symm
  subst hv hg
  rw [redecoding, ← referenceOf_eq, Bool.decide_or]
  rfl

/-- Settles O36: the start of a render in Idle, a request while one is under way, the exchange of the view
sets, and the window. -/
theorem renderStartsOrPendsAndSwapExchangesTheSets : Obligations.RenderStartsOrPendsAndSwapExchangesTheSets := by
  refine ⟨?_, ?_, ?_⟩
  · intro c rest s ready code payload awake
    have step := exec_render ready code payload awake
    have start := entered_frame rest s
    refine ⟨_, step, ?_, ?_, fun busy => ?_, ?_⟩
    · unfold requestRender
      split <;> exact ⟨by rw [entered_eq]; rfl, rfl⟩
    · unfold requestRender
      split <;> exact entered_power rest awake
    · have pends : requestRender (entered rest s) =
          { entered rest s with re := { (entered rest s).re with pending := true } } := if_neg (by rw [entered_eq]; exact busy)
      rw [pends] at step ⊢
      refine ⟨by rw [entered_eq]; rfl, ?_⟩
      exact (start.mono (by decide)).trans (((update_draw (entered rest s)
        { (entered rest s).re with pending := true } ⟨rfl, rfl⟩ rfl rfl).mono (by decide)).trans
          ((putReply_frame c.tag .accepted _).mono (by decide)))
    · rintro set v n g idle hset hv rfl hg
      have starts : requestRender (entered rest s) = startRender (entered rest s) :=
        if_pos (by rw [entered_eq]; exact idle)
      have snapshot := snapshotOf_eq hset hv hg
      have same : snapshotOf (entered rest s) = snapshotOf s := by
        rw [entered_eq]
        rfl
      have shown : (snapshotOf s).view = v := by rw [snapshot]
      have frame : ChangesOnly (withDispatch [.re, .job, .segments, .holds, .power]) s
          (putReply c.tag .accepted (startRender (entered rest s))) :=
        (start.mono (by decide)).trans (((startRender_frame _).mono (by decide)).trans
          ((putReply_frame _ _ _).mono (by decide)))
      have phases := newDraw_phase (snapshotOf s) Iff.rfl
      rw [starts]
      refine ⟨⟨newDraw (snapshotOf s), _, ?_, snapshot, ?_, rfl, rfl, rfl, rfl, rfl, rfl, rfl, rfl, ?_, ?_, ?_,
        Iff.rfl, ?_⟩, ?_, frame⟩
      · rw [putReply_re, startRender, placeHold_re]
        dsimp only
        rw [same, shown, entered_eq]
      · rw [← shown]
        rfl
      · rw [show (newDraw (snapshotOf s)).omitted = (snapshotOf s).redecoding from rfl, snapshot]
        exact decide_eq_true_iff
      · exact stackRows_length _ _ _ _
      · intro i offset r row place
        have placed := stackRows_getElem? (top := (snapshotOf s).view.top) (height := (snapshotOf s).view.height)
          row (place.trans (Nat.zero_add _).symm)
        rw [← shown]
        exact ⟨fun fits => placed.trans (if_pos fits), fun high => placed.trans (if_neg (Nat.not_le.2 high))⟩
      · have symbols : (snapshotOf s).symbolFirst = g.symbolFirst.getD 0 ∧
            (snapshotOf s).symbolCount = g.symbolCount := by rw [snapshot]; exact ⟨rfl, rfl⟩
        have records : (snapshotOf s).newest = g.newest.getD 0 ∧ (snapshotOf s).recordCount = g.recordCount ∧
            (snapshotOf s).endTime = g.endTime := by rw [snapshot]; exact ⟨rfl, rfl, rfl⟩
        rw [symbols.1, symbols.2, records.1, records.2.1, records.2.2] at phases
        exact phases
      · rw [putReply_segments, startRender]
        dsimp only
        rw [same, shown, placeHold, modifySegment, hg, entered_eq]
  · intro c rest s ready code payload awake
    have step : exec .swap s = .next (putReply c.tag (.done [])
        { popped rest s with re.active := otherSet (popped rest s).re.active }) :=
      dispatch_owner ready (commandRow_swap code) (by simp [payload]) (absurd · awake)
    have other : otherSet s.re.active = if s.re.active = .a then .b else .a := by cases s.re.active <;> rfl
    refine ⟨_, step, ⟨by rw [popped_eq]; rfl, rfl⟩, ?_, (row_swap step).mono (by decide)⟩
    rw [putReply_re]
    dsimp only
    rw [popped_re, other]
  · intro sn inside edge inside_iff edge_iff
    have among (t : Int) : t ∈ cursorsInside sn ↔ inside t := mem_cursorsInside.trans (inside_iff t).symm
    obtain rfl : edge = rightEdge sn :=
      le_antisymm ((edge_iff _).2 (rightEdge_le.1 le_rfl)) (rightEdge_le.2 ((edge_iff _).1 le_rfl))
    obtain ⟨low, below, reached⟩ := foldl_min_spec (cursorsInside sn) sn.view.origin
    obtain ⟨high, above, attained⟩ := foldl_max_succ_spec (cursorsInside sn) (rightEdge sn)
    exact ⟨⟨_, rfl, reached.imp_right (among _).1, low, fun t is_inside => below t ((among t).2 is_inside)⟩,
      _, rfl, attained.imp_right (among _).1, high, fun t is_inside => above t ((among t).2 is_inside)⟩

end Sys2Proof.Machine
end

section
/-! SUPPORT. The end of a drawing: its outcome, bounds and readings (R136, R149, R150). -/

namespace Sys2Proof.Machine

/-- The pairs of neighbours that pass a test, counted by the place of the first of the two. -/
theorem neighbours_count {test : TimedRecord × TimedRecord → Bool} {used : List TimedRecord} {at_ : Nat → Bool}
    (pair : ∀ i a b, used[i]? = some a → used[i + 1]? = some b → at_ i = test (a, b))
    (last : ∀ i, used.length ≤ i + 1 → at_ i = false) :
    ((neighbours used).filter test).length = ((List.range used.length).filter at_).length := by
  induction used generalizing at_ with
  | nil => rfl
  | cons a rest ih =>
    have tail := ih (at_ := fun i => at_ (i + 1)) (fun i b c hb hc => pair (i + 1) b c (by simpa using hb) (by simpa using hc))
      (fun i past => last (i + 1) (by simpa using past))
    rw [List.length_cons, List.range_succ_eq_map, List.filter_cons, List.filter_map, apply_ite List.length,
      List.length_cons, List.length_map]
    cases rest with
    | nil => simp [last 0 (by simp), neighbours]
    | cons b rest =>
      rw [pair 0 a b (by simp) (by simp)]
      rw [neighbours, List.filter_cons, apply_ite List.length, List.length_cons, tail]
      rfl

theorem recordAt_none {sn : Snapshot} {used : List TimedRecord} {t : Int} :
    recordAt sn used t = none ↔ ∀ u ∈ used, ¬(recordStart sn u ≤ t ∧ t < recordEnd sn u) := by
  simp only [recordAt, List.find?_eq_none, decide_eq_true_eq]

theorem recordAt_of_only {sn : Snapshot} {used : List TimedRecord} {t : Int} {u : TimedRecord} (member : u ∈ used)
    (holds : recordStart sn u ≤ t ∧ t < recordEnd sn u)
    (only : ∀ w ∈ used, recordStart sn w ≤ t ∧ t < recordEnd sn w → w = u) : recordAt sn used t = some u := by
  cases found : recordAt sn used t with
  | none => exact absurd holds (recordAt_none.1 found u member)
  | some w =>
    have contains := List.find?_some (p := fun r => decide (recordStart sn r ≤ t ∧ t < recordEnd sn r)) found
    rw [only w (List.mem_of_find?_eq_some found) (of_decide_eq_true contains)]

/-- Settles O40: the drawing's results, and the readings by the records used. -/
theorem drawingCompleteEntersWaitFlip : Obligations.DrawingCompleteEntersWaitFlip := by
  refine ⟨?_, ?_⟩
  · rintro s d first second lower upper drawing draws written finished rfl rfl second_first first_second
    have ready : drawingFinished s = true := by simp [drawingFinished, draws, drawing, written, finished]
    have step : exec .drawingComplete s =
        .next { s with re := { s.re with job := .waitFlip, draw := some (completeDraw d) } } := by
      change execDrawingComplete s = _
      unfold execDrawingComplete
      rw [if_pos ready, draws]
    have interval : intervalReading d = if d.snapshot.cursor1.enabled && d.snapshot.cursor2.enabled then
        some ((upper - lower).toNat, (List.range 32).map (edgeCount d lower upper)) else none := by
      unfold intervalReading
      dsimp only
      simp only [Bool.and_eq_true]
      congr 1
      by_cases order : before (cursorTime d.snapshot d.snapshot.cursor2) (cursorTime d.snapshot d.snapshot.cursor1) = true
      · obtain ⟨rfl, rfl⟩ := second_first ((before_iff _ _).1 order)
        rw [if_pos order, if_pos order]
        rfl
      · obtain ⟨rfl, rfl⟩ := first_second (not_lt.1 fun early => order ((before_iff _ _).2 early))
        rw [if_neg order, if_neg order]
        rfl
    refine ⟨_, step, ?_, row_drawingComplete step⟩
    unfold completeDraw
    dsimp only
    cases d.snapshot.noData
    · simp only [readingsOf, interval]
      rfl
    · rfl
  · intro d c contains differs lower upper k contains_iff differs_iff
    refine ⟨fun out => if_neg ?_, fun enabled low high => ?_, ?_⟩
    · rintro ⟨enabled, low, high⟩
      rcases out with off | early | late
      · rw [off] at enabled
        cases enabled
      · exact absurd low (not_le.2 early)
      · exact absurd high (not_lt.2 late)
    · have reads : valueReading d c = (recordAt d.snapshot d.used c.offset).map (·.record.value) :=
        if_pos ⟨enabled, low, high⟩
      refine ⟨fun u member holds only => ?_, fun none_holds => ?_⟩
      · rw [reads, recordAt_of_only member ((contains_iff u).1 holds) fun w used_w holds_w =>
          only w used_w ((contains_iff w).2 holds_w)]
        rfl
      · rw [reads, recordAt_none.2 fun u used_u holds_u => none_holds u used_u ((contains_iff u).2 holds_u)]
        rfl
    · unfold edgeCount
      congr 1
      refine neighbours_count (fun i a b ha hb => ?_) fun i past => ?_
      · rw [ha, hb]
        dsimp only
        rw [Bool.eq_iff_iff, differs_iff]
        simp [before, atOrBefore, and_assoc]
      · rw [List.getElem?_eq_none past]
        split
        · next absurd_some => cases absurd_some
        · rfl

end Sys2Proof.Machine
end

section
/-! SUPPORT. The lanes given a sample (R90 to R92, R114 to R116): each changes its own lane alone, keeps its decoder
through an emission, and leaves its symbols in its FIFO. -/

namespace Sys2Proof.Machine

/-! ### One lane at a time -/

theorem modifyLane_self (l : Fin 4) (f : Lane → Lane) (s : State) : (modifyLane l f s).lanes[l] = f s.lanes[l] := by
  rw [modifyLane_lane, if_pos rfl]

/-- What an emission leaves of a lane: its decoding, its filter and their counters stay, and its FIFO loses no
symbol. -/
structure EmitsFrom (a b : Lane) : Prop where
  mode : b.mode = a.mode
  window : b.window = a.window
  raw : b.raw = a.raw
  filtered : b.filtered = a.filtered
  decoder : b.decoder = a.decoder
  glitches : b.counters.glitches = a.counters.glitches
  falseStarts : b.counters.falseStarts = a.counters.falseStarts
  fifo : ∀ y ∈ a.fifo, y ∈ b.fifo

/-- An emission of one lane: it keeps its decoding and every other lane is as it was. -/
structure Emission (l : Fin 4) (s t : State) : Prop where
  own : EmitsFrom s.lanes[l] t.lanes[l]
  others : ∀ j : Fin 4, j ≠ l → t.lanes[j] = s.lanes[j]

theorem EmitsFrom.refl (a : Lane) : EmitsFrom a a := ⟨rfl, rfl, rfl, rfl, rfl, rfl, rfl, fun _ => id⟩

theorem EmitsFrom.trans {a b c : Lane} (h : EmitsFrom a b) (k : EmitsFrom b c) : EmitsFrom a c :=
  ⟨k.mode.trans h.mode, k.window.trans h.window, k.raw.trans h.raw, k.filtered.trans h.filtered,
    k.decoder.trans h.decoder, k.glitches.trans h.glitches, k.falseStarts.trans h.falseStarts,
    fun y member => k.fifo y (h.fifo y member)⟩

namespace Emission

variable {l : Fin 4} {s t u : State}

theorem of_lanes (same : t.lanes = s.lanes) : Emission l s t :=
  ⟨by rw [same]; exact .refl _, fun j _ => by rw [same]⟩

theorem trans (h : Emission l s t) (k : Emission l t u) : Emission l s u :=
  ⟨h.own.trans k.own, fun j other => (k.others j other).trans (h.others j other)⟩

theorem modify {f : Lane → Lane} (keeps : EmitsFrom s.lanes[l] (f s.lanes[l])) : Emission l s (modifyLane l f s) :=
  ⟨by rw [modifyLane_self]; exact keeps, fun j other => by rw [modifyLane_lane, if_neg other.symm]⟩

theorem foldl {α : Type} {f : State → α → State} (step : ∀ s a, Emission l s (f s a)) (s : State) (xs : List α) :
    Emission l s (xs.foldl f s) := by
  induction xs generalizing s with
  | nil => exact of_lanes rfl
  | cons a xs ih => exact (step s a).trans (ih _)

end Emission

theorem mem_insertSymbol {y z : Symbol} {fifo : List Symbol} : z ∈ insertSymbol y fifo ↔ z = y ∨ z ∈ fifo := by
  induction fifo with
  | nil => simp [insertSymbol]
  | cons x fifo ih =>
    rw [insertSymbol]
    split
    · simp only [List.mem_cons, ih]
      exact or_left_comm
    · simp only [List.mem_cons]

section

variable (l : Fin 4) (s : State)

theorem offerToTs_lanes (y : Symbol) : (offerToTs l y s).lanes = s.lanes := offerToTs_frame l y s .lanes (by decide)

/-- The lanes after a symbol was offered, with room in the FIFO and without. -/
theorem offerSymbol_lanes (y : Symbol) : (offerSymbol l y s).lanes =
    (modifyLane l (if s.lanes[l].fifo.length < 32 then acceptSymbol y else discardSymbol) s).lanes := by
  have counted (k : Nat) (t : State) : (countFillingLost k t).lanes = t.lanes :=
    countFillingLost_frame k t .lanes (by decide)
  have noticed (n : NoticeSnapshot) (t : State) : (raiseNotice n t).lanes = t.lanes :=
    raiseNotice_frame n t .lanes (by decide)
  unfold offerSymbol
  dsimp only
  change (if s.lanes[l].fifo.length < 32 then _ else _ : State).lanes = _
  by_cases room : s.lanes[l].fifo.length < 32
  · rw [if_pos room, if_pos room]
  · rw [if_neg room, if_neg room]
    split_ifs <;> simp only [counted, noticed]

/-- A lane after a symbol was handed on: accepted, or with a full FIFO discarded. -/
theorem handOn_lane (y : Symbol) : (handOn l y s).lanes[l] =
    (if s.lanes[l].fifo.length < 32 then acceptSymbol y else discardSymbol) s.lanes[l] := by
  rw [handOn, offerSymbol_lanes, modifyLane_self, offerToTs_lanes]

theorem offerSymbol_emission (y : Symbol) : Emission l s (offerSymbol l y s) := by
  have keeps : Emission l s (modifyLane l (if s.lanes[l].fifo.length < 32 then acceptSymbol y else discardSymbol) s) := by
    refine .modify ?_
    split
    · exact ⟨rfl, rfl, rfl, rfl, rfl, rfl, rfl, fun z member => mem_insertSymbol.2 (.inr member)⟩
    · exact ⟨rfl, rfl, rfl, rfl, rfl, rfl, rfl, fun _ => id⟩
  exact keeps.trans (.of_lanes (offerSymbol_lanes l s y))

theorem handOn_emission (y : Symbol) : Emission l s (handOn l y s) :=
  (Emission.of_lanes (offerToTs_lanes l s y)).trans (offerSymbol_emission l _ y)

theorem extractFields_emission (y : Symbol) : Emission l s (extractFields l y s) := by
  have sources (fx : List FxSource) (t : State) : Emission l t (modifyLane l (fun q => { q with fx := fx }) t) :=
    .modify ⟨rfl, rfl, rfl, rfl, rfl, rfl, rfl, fun _ => id⟩
  unfold extractFields
  dsimp only
  split
  · exact sources _ _
  · split
    · exact (sources _ _).trans (.foldl (fun t f => handOn_emission l t f) _ _)
    · exact .of_lanes rfl

theorem noteEmission_emission (y : Symbol) : Emission l s (modifyLane l (noteEmission y) s) :=
  .modify ⟨rfl, rfl, rfl, rfl, rfl, rfl, rfl, fun _ => id⟩

theorem emitSymbol_emission (e : Emitted) : Emission l s (emitSymbol l e s) :=
  ((noteEmission_emission l s _).trans (handOn_emission l _ _)).trans (extractFields_emission l _ _)

theorem emitSymbols_emission (es : List Emitted) : Emission l s (emitSymbols l es s) :=
  .foldl (fun t e => emitSymbol_emission l t e) s es

end

/-! ### All the lanes in turn -/

/-- A step for each lane in turn that leaves the other lanes alone: lane l is as its own step leaves it, from a
state in which only the lanes before it have had theirs. -/
theorem foldl_lane {step : State → Fin 4 → State} {ps : List Part} (frame : ∀ s l, ChangesOnly ps s (step s l))
    (others : ∀ (s : State) (l j : Fin 4), j ≠ l → (step s l).lanes[j] = s.lanes[j]) (s : State) (l : Fin 4) :
    ∃ u, ChangesOnly ps s u ∧ u.lanes[l] = s.lanes[l] ∧
      ((List.finRange 4).foldl step s).lanes[l] = (step u l).lanes[l] := by
  have away (xs : List (Fin 4)) (t : State) (absent : l ∉ xs) : (xs.foldl step t).lanes[l] = t.lanes[l] := by
    induction xs generalizing t with
    | nil => rfl
    | cons j xs ih =>
      rw [List.foldl_cons, ih _ fun later => absent (List.mem_cons_of_mem _ later)]
      exact others t j l fun same => absent (same ▸ List.mem_cons_self)
  obtain ⟨before, after, split⟩ := List.append_of_mem (List.mem_finRange l)
  have apart : l ∉ before ∧ l ∉ after := by
    have nodup := List.nodup_finRange 4
    rw [split, List.nodup_append, List.nodup_cons] at nodup
    obtain ⟨_, ⟨not_after, _⟩, disjoint⟩ := nodup
    exact ⟨fun member => disjoint l member l List.mem_cons_self rfl, not_after⟩
  refine ⟨before.foldl step s, .foldl frame s before, away before s apart.1, ?_⟩
  rw [split, List.foldl_append, List.foldl_cons, away after _ apart.2]

section

variable (period : Nat) (x : Sample)

theorem laneSample_others (s : State) (l j : Fin 4) (other : j ≠ l) :
    (laneSample period x s l).lanes[j] = s.lanes[j] := by
  unfold laneSample
  split
  · rfl
  · dsimp only
    rw [(emitSymbols_emission l _ _).others j other, modifyLane_lane, if_neg other.symm]

theorem finishLane_others (s : State) (l j : Fin 4) (other : j ≠ l) :
    (finishLane period s l).lanes[j] = s.lanes[j] := by
  unfold finishLane
  split
  · rfl
  · dsimp only
    rw [modifyLane_lane, if_neg other.symm, (emitSymbols_emission l _ _).others j other, modifyLane_lane,
      if_neg other.symm]

/-- After the end of the runs no lane runs. -/
theorem finishLanes_idle (s : State) (l : Fin 4) : (finishLanes period s).lanes[l].mode = .idle := by
  obtain ⟨u, _, _, last⟩ := foldl_lane (finishLane_frame period) (finishLane_others period) s l
  rw [finishLanes, last, finishLane]
  split
  · next idle => exact idle
  · rw [modifyLane_self]
    rfl

/-- A lane after all have been given a sample: what it takes and what it emits of it. -/
theorem lanesSample_lane (s : State) (l : Fin 4) : ∃ u, u.lanes[l] = s.lanes[l] ∧
    (lanesSample period x s).lanes[l] = if s.lanes[l].mode = .idle then s.lanes[l] else
      (emitSymbols l (laneTake s.laneTable[l] period x s.lanes[l]).2
        (modifyLane l (fun _ => (laneTake s.laneTable[l] period x s.lanes[l]).1) u)).lanes[l] := by
  obtain ⟨u, frame, own, last⟩ := foldl_lane (laneSample_frame period x) (laneSample_others period x) s l
  have table : u.laneTable = s.laneTable := frame .laneTable (by decide)
  refine ⟨u, own, ?_⟩
  rw [lanesSample, last, laneSample, own, table]
  split
  · exact own
  · rfl

end

/-! ### The deglitch filter's counts (R91) -/

theorem laneMask_getLsbD (kind : LaneKind) (k : Fin 32) :
    (laneMask kind).getLsbD k = (laneChannels kind).contains k.val := by
  have fold (channels : List Nat) (w : Word) : (channels.foldl (fun w i => w ||| (1#32 <<< i)) w).getLsbD k =
      (w.getLsbD k || channels.contains k.val) := by
    induction channels generalizing w with
    | nil => simp
    | cons i channels ih =>
      rw [List.foldl_cons, ih, List.contains_cons, BitVec.getLsbD_or, Bool.or_assoc]
      congr 2
      rw [Bool.eq_iff_iff]
      simp only [BitVec.getLsbD_shiftLeft, BitVec.getLsbD_one, Bool.and_eq_true, decide_eq_true_eq, Bool.not_eq_true',
        decide_eq_false_iff_not, beq_iff_eq]
      omega
  rw [laneMask, fold]
  simp

theorem agreeing_getLsbD (w : Word) (ahead : List Sample) (k : Fin 32) : (agreeing w ahead).getLsbD k =
    ahead.all fun q => q.levels.getLsbD k == w.getLsbD k := by
  induction ahead with
  | nil =>
    rw [agreeing, BitVec.getLsbD_allOnes]
    simp
  | cons q ahead ih =>
    rw [agreeing, BitVec.getLsbD_and, ih, List.all_cons]
    congr 1
    simp only [BitVec.getLsbD_not, BitVec.getLsbD_xor, k.isLt, decide_true, Bool.true_and]
    cases q.levels.getLsbD k <;> cases w.getLsbD k <;> rfl

theorem countBits_eq (w : Word) : countBits w = ((List.finRange 32).filter fun (k : Fin 32) => w.getLsbD k).length := by
  have all : List.range 32 = (List.finRange 32).map (·.val) := by decide
  rw [countBits, all, List.filter_map, List.length_map]
  rfl

/-- The glitches that a sample begins, channel by channel. -/
theorem glitchesAt_eq (kind : LaneKind) (r f : Word) (y : Sample) (ahead : List Sample) :
    glitchesAt (laneMask kind) (some r) (some f) y ahead = ((List.finRange 32).filter fun (k : Fin 32) =>
      (laneChannels kind).contains k.val && y.levels.getLsbD k != f.getLsbD k && r.getLsbD k == f.getLsbD k &&
        ahead.any fun q => q.levels.getLsbD k != y.levels.getLsbD k).length := by
  rw [glitchesAt, countBits_eq]
  congr 2
  funext k
  have departs : (ahead.any fun q => q.levels.getLsbD k != y.levels.getLsbD k) =
      !ahead.all fun q => q.levels.getLsbD k == y.levels.getLsbD k := by
    rw [List.not_all_eq_any_not]
    rfl
  rw [departs]
  simp only [BitVec.getLsbD_and, BitVec.getLsbD_not, BitVec.getLsbD_xor, laneMask_getLsbD, agreeing_getLsbD, k.isLt,
    decide_true, Bool.true_and]
  generalize (laneChannels kind).contains k.val = assigned
  generalize (ahead.all fun q => q.levels.getLsbD k == y.levels.getLsbD k) = holds
  cases y.levels.getLsbD k <;> cases f.getLsbD k <;> cases r.getLsbD k <;> cases assigned <;> cases holds <;> rfl

/-! ### The sample a lane takes (R90, R91) -/

section

variable {e : LaneEntry} {period : Nat} {x y : Sample} {ahead : List Sample} {lane : Lane}

theorem nextReleased_eq (split : lane.window ++ [x] = y :: ahead) : nextReleased e period x lane =
    if ahead.length + 1 ≥ max 1 e.deglitch then
      some { stamp := y.stamp, period := period, previous := lane.filtered
             current := if e.deglitch ≤ 1 then y.levels
               else filteredLevels lane.filtered y (ahead.take (e.deglitch - 1)) }
    else none := by
  rw [nextReleased, split]

theorem laneTake_eq (split : lane.window ++ [x] = y :: ahead) : laneTake e period x lane =
    if ahead.length + 1 ≥ max 1 e.deglitch then processReleased e period y ahead lane
    else ({ lane with window := y :: ahead }, []) := by
  rw [laneTake, split]

theorem window_split (lane : Lane) (x : Sample) : ∃ y ahead, lane.window ++ [x] = y :: ahead := by
  cases window : lane.window with
  | nil => exact ⟨x, [], rfl⟩
  | cons y rest => exact ⟨y, rest ++ [x], rfl⟩

/-- A lane that releases nothing keeps the sample in its window. -/
theorem laneTake_none (kept : nextReleased e period x lane = none) :
    laneTake e period x lane = ({ lane with window := lane.window ++ [x] }, []) := by
  obtain ⟨y, ahead, split⟩ := window_split lane x
  rw [nextReleased_eq split] at kept
  rw [laneTake_eq split, split]
  split_ifs at kept ⊢
  rfl

/-- A lane that releases a sample processes it. -/
theorem laneTake_some {z : LaneSample} (split : lane.window ++ [x] = y :: ahead)
    (released : nextReleased e period x lane = some z) :
    laneTake e period x lane = processReleased e period y ahead lane ∧
      z = { stamp := y.stamp, period := period, previous := lane.filtered
            current := if e.deglitch ≤ 1 then y.levels
              else filteredLevels lane.filtered y (ahead.take (e.deglitch - 1)) } := by
  rw [nextReleased_eq split] at released
  rw [laneTake_eq split]
  by_cases full : ahead.length + 1 ≥ max 1 e.deglitch
  · rw [if_pos full] at released ⊢
    exact ⟨rfl, (Option.some.inj released).symm⟩
  · rw [if_neg full] at released
    cases released

end

/-- Without a passed gap deadline a sample is decoded by the rules of its kind alone. -/
theorem decodeSample_of_none {e : LaneEntry} {x : LaneSample} {d : Decoder} (open_ : gapStopTime e x d = none) :
    decodeSample e x d = kindStep e x d := by
  unfold decodeSample gapStop
  rw [open_]
  rfl

/-- A symbol emitted with room in the FIFO stands there with its number, its position and a Lost tag after a
loss. -/
theorem emitSymbol_mem {l : Fin 4} {s : State} (e : Emitted) (room : s.lanes[l].fifo.length < 32) :
    { emittedSymbol l s.lanes[l] e with tags := e.tags ||| (if s.lanes[l].pendingLost then 0x08 else 0) } ∈
      (emitSymbol l e s).lanes[l].fifo := by
  refine (extractFields_emission l _ _).own.fifo _ ?_
  have same : (noteEmission (emittedSymbol l s.lanes[l] e) s.lanes[l]).fifo = s.lanes[l].fifo := rfl
  rw [handOn_lane, modifyLane_self, same, if_pos room]
  exact mem_insertSymbol.2 (.inl rfl)

/-- What a released sample leaves of the lane. -/
theorem processReleased_lane (e : LaneEntry) (period : Nat) (y : Sample) (ahead : List Sample) (lane : Lane) :
    ∃ q, (processReleased e period y ahead lane).1 = { lane with
      window := ahead, raw := some y.levels
      filtered := some (if e.deglitch ≤ 1 then y.levels
        else filteredLevels lane.filtered y (ahead.take (e.deglitch - 1)))
      decoder := (decodeSample e { stamp := y.stamp, period := period, previous := lane.filtered
                                   current := if e.deglitch ≤ 1 then y.levels
                                     else filteredLevels lane.filtered y (ahead.take (e.deglitch - 1)) }
        lane.decoder).decoder
      counters := { lane.counters with
        glitches := saturate32 (lane.counters.glitches + if e.deglitch ≤ 1 then 0
          else glitchesAt (laneMask e.kind) lane.raw lane.filtered y (ahead.take (e.deglitch - 1)))
        falseStarts := q } } := ⟨_, rfl⟩

/-- The lanes given a sample, one by one. -/
theorem lanesSample_given (period : Nat) (z : Sample) (s : State) : LanesGiven period z s (lanesSample period z s) := by
  intro l
  obtain ⟨u, own, last⟩ := lanesSample_lane period z s l
  refine ⟨fun idle => by rw [last, if_pos idle], fun busy kept => ?_, fun x y ahead busy split released => ?_,
    fun x y busy released gap symbols room => ?_⟩
  · rw [last, if_neg busy, laneTake_none kept]
    dsimp only [emitSymbols, List.foldl_nil]
    rw [modifyLane_self]
  · obtain ⟨takes, rfl⟩ := laneTake_some split released
    obtain ⟨q, lane⟩ := processReleased_lane s.laneTable[l] period y ahead s.lanes[l]
    rw [last, if_neg busy, takes]
    have emits := (emitSymbols_emission l (modifyLane l (fun _ => (processReleased s.laneTable[l] period y ahead s.lanes[l]).1) u)
      (processReleased s.laneTable[l] period y ahead s.lanes[l]).2).own
    rw [modifyLane_self] at emits
    refine ⟨?_, ?_, ?_, fun r f raw filtered => ?_⟩
    · rw [emits.window, lane]
    · rw [emits.raw, lane]
    · rw [emits.filtered, lane]
    · rw [emits.glitches, lane]
      dsimp only
      rw [raw, filtered, glitchesAt_eq]
      rfl
  · obtain ⟨w, ahead, split⟩ := window_split s.lanes[l] z
    obtain ⟨takes, rfl⟩ := laneTake_some split released
    obtain ⟨q, lane⟩ := processReleased_lane s.laneTable[l] period w ahead s.lanes[l]
    have emitted : (processReleased s.laneTable[l] period w ahead s.lanes[l]).2 = [y] := by
      rw [← symbols, ← decodeSample_of_none gap]
      rfl
    rw [last, if_neg busy, takes, emitted]
    change (emitSymbol l y _).lanes[l].decoder = _ ∧ _ ∈ (emitSymbol l y _).lanes[l].fifo
    have own_lane := modifyLane_self l (fun _ => (processReleased s.laneTable[l] period w ahead s.lanes[l]).1) u
    generalize modifyLane l (fun _ => (processReleased s.laneTable[l] period w ahead s.lanes[l]).1) u = v at own_lane
    have member := emitSymbol_mem (l := l) (s := v) y (by rw [own_lane]; exact room)
    refine ⟨?_, ?_⟩
    · rw [(emitSymbol_emission l v y).own.decoder, own_lane, lane]
      dsimp only
      rw [decodeSample_of_none gap]
    · rw [own_lane, lane] at member
      exact member

end Sys2Proof.Machine
end

section
/-! SUPPORT. The gap deadline of a lane (R93, R109): when it is, what events move it, and the Stop it brings. -/

namespace Sys2Proof.Machine

/-! ### Edges and periods -/

section

variable {x : LaneSample} {w : Word} {k : Fin 32}

theorem goes_iff (was : x.previous = some w) {f t : Bool} :
    goes x k f t = true ↔ w.getLsbD k = f ∧ x.current.getLsbD k = t := by
  simp [goes, was, levelOf]

theorem reached_iff {t : Time} : reached x t = true ↔ timeDiff t (x.stamp + BitVec.ofNat 48 x.period) < 0 :=
  before_iff _ _

end

/-! ### The gap deadline (R93, R109) -/

section

variable {e : LaneEntry} {x : LaneSample} {d : Decoder}

theorem gapDeadline_closed (closed : d.frame.isOpen = false) {period : Nat} : gapDeadline e period d = none := by
  rw [gapDeadline, closed]
  rfl

theorem gapDeadline_twoWire {p : TwoWireParams} (kind : e.kind = .twoWire p) {period : Nat} :
    gapDeadline e period d = none := by
  unfold gapDeadline
  rw [kind]
  split
  · cases d.frame.latest <;> rfl
  · rfl

theorem gapDeadline_selected {p : ClockedParams} (kind : e.kind = .clocked p) (select : p.select.isSome) {period : Nat} :
    gapDeadline e period d = none := by
  unfold gapDeadline
  rw [kind]
  split
  · cases d.frame.latest
    · rfl
    · exact if_neg (by simp [Option.isSome_iff_ne_none.1 select])
  · rfl

theorem gapDeadline_busy {p : AsyncParams} (kind : e.kind = .async p) (busy : d.async ≠ .hunting) {period : Nat} :
    gapDeadline e period d = none := by
  unfold gapDeadline
  rw [kind]
  split
  · cases d.frame.latest
    · rfl
    · rfl
  · rfl

/-- A deadline brings its Stop once the sample's period reaches it. -/
theorem gapStopTime_of_deadline (quiet : ∀ p, e.kind = .strobed p → strobeWasLow p x = false ∧ d.frame.passed = false) :
    gapStopTime e x d = (gapDeadline e x.period d).filter (reached x) := by
  unfold gapStopTime
  split
  · next p kind =>
    obtain ⟨high, ahead⟩ := quiet p kind
    rw [high, ahead, Bool.and_false]
    rfl
  · rfl

theorem filter_reached {t : Time} : (some t).filter (reached x) =
    if timeDiff t (x.stamp + BitVec.ofNat 48 x.period) < 0 then some t else none := by
  rw [Option.filter_some]
  simp only [reached_iff]

theorem strobeWasLow_iff {p : StrobedParams} : strobeWasLow p x = true ↔
    ∃ w, x.previous = some w ∧ (w.getLsbD p.dataStrobe = false ∨
      ∃ k, p.addressStrobe = some k ∧ w.getLsbD k = false) := by
  unfold strobeWasLow
  cases x.previous with
  | none => simp
  | some w => cases address : p.addressStrobe <;> simp [levelOf, levelOr]

theorem gapStopTime_none (absent : gapDeadline e x.period d = none)
    (quiet : ∀ p, e.kind = .strobed p → d.frame.isOpen = false) : gapStopTime e x d = none := by
  unfold gapStopTime
  split
  · next p kind =>
    rw [quiet p kind, absent]
    split <;> rfl
  · rw [absent]
    rfl

/-- The deadline is G periods after the latest event of an open frame. -/
theorem gapDeadline_eq {latest : Time} {ticks : Nat} (is_open : d.frame.isOpen = true)
    (event : d.frame.latest = some latest)
    (kind : (∃ p, e.kind = .async p ∧ d.async = .hunting ∧ ticks = e.gap * p.bq / 256) ∨
      (∃ p, e.kind = .clocked p ∧ p.select = none ∧ ticks = gapTicks e.gap x.period d.frame) ∨
      ∃ p, e.kind = .strobed p ∧ ticks = gapTicks e.gap x.period d.frame) :
    gapDeadline e x.period d = some (addTicks latest ticks) := by
  rw [gapDeadline, is_open, event]
  rcases kind with ⟨p, kind, hunting, rfl⟩ | ⟨p, kind, select, rfl⟩ | ⟨p, kind, rfl⟩
  · rw [kind]
    exact if_pos hunting
  · rw [kind]
    have no_select : p.select.isNone = true := by simp [select]
    exact if_pos no_select
  · rw [kind]
    rfl

/-! ### The events that move it (R93) -/

theorem takeEdge_frame (p : ClockedParams) : (takeEdge p x d).1.frame = frameEvent d.frame x.stamp := by
  unfold takeEdge
  dsimp only
  split <;> rfl

theorem activeEdge_of_levels {p : ClockedParams} {w : Word} (was : x.previous = some w)
    (before : w.getLsbD p.clock = p.fallingEdge) (now : x.current.getLsbD p.clock = !p.fallingEdge) :
    activeEdge p x = true := by
  unfold activeEdge
  cases falling : p.fallingEdge <;> rw [falling] at before now
  · exact (goes_iff was).2 ⟨before, now⟩
  · exact (goes_iff was).2 ⟨before, now⟩

theorem strobed_release_frame {p : StrobedParams} {w : Word} (was : x.previous = some w) (kind : e.kind = .strobed p)
    (is_open : d.frame.isOpen = true) (low : w.getLsbD p.dataStrobe = false)
    (high : x.current.getLsbD p.dataStrobe = true)
    (alone : ∀ k, p.addressStrobe = some k → w.getLsbD k = true ∨ x.current.getLsbD k = false) :
    (kindStep e x d).decoder.frame.latest = some x.stamp ∧
      (kindStep e x d).decoder.frame.interval = d.frame.latest.map fun t => (timeDiff x.stamp t).toNat := by
  have data : goes x p.dataStrobe false true = true := (goes_iff was).2 ⟨low, high⟩
  have released : strobeGoes p x false true = true := by rw [strobeGoes, data, Bool.true_or]
  have one : bothReleased p x = false := by
    rw [bothReleased, data, Bool.true_and]
    split
    · next k address =>
      rw [← Bool.not_eq_true, goes_iff was]
      rintro ⟨was_low, now_high⟩
      rcases alone k address with was_high | now_low
      · rw [was_low] at was_high
        cases was_high
      · rw [now_high] at now_low
        cases now_low
    · rfl
  have step : (kindStep e x d).decoder.frame = strobedFrame e p x d d.frame := by
    rw [kindStep, kind]
    simp [strobedStep, is_open]
  rw [step, strobedFrame, if_pos released, one]
  exact ⟨rfl, rfl⟩

theorem async_character_frame {p : AsyncParams} {t0 : Time} {cells : List Bool} (kind : e.kind = .async p)
    (receives : d.async = .receiving t0 cells) (begun : cells ≠ [])
    (last : cells.length + 1 = asyncCells p) (due : inPeriod x (asyncInstant p t0 cells.length) = true) :
    (kindStep e x d).decoder.frame.latest = some (asyncInstant p t0 cells.length) := by
  rw [kindStep, kind]
  unfold asyncStep
  dsimp only
  rw [receives]
  dsimp only
  rw [if_pos due, if_neg (by simp [begun]), if_pos (by simp [last])]
  dsimp only [frameEvent]
  rw [characterSymbol, ← last]
  dsimp only
  split <;> rfl

end

/-! ### The Stop of a passed deadline (R92, R116) -/

/-- The symbol of a Stop that a lane emits. -/
def stopSymbol (l : Fin 4) (lane : Lane) (t : Time) : Symbol :=
  { lane := l, kind := .stop, value := 0, start := t, duration := 0, tags := 0, position := lane.wordCount }

/-- A Stop that a lane emits with its FIFO's room, its tags and its counts. -/
theorem gapStop_of_time {e : LaneEntry} {x : LaneSample} {d : Decoder} {t : Time}
    (passed : gapStopTime e x d = some t) (whole : ∀ p, e.kind = .clocked p → d.clocked.bits = 0) :
    gapStop e x d = ({ d with frame := closedFrame, clocked := emptyWord }, [stopAt t 0]) := by
  unfold gapStop
  rw [passed]
  dsimp only
  split
  · next p kind =>
    rw [shortWord, if_pos (whole p kind)]
    rfl
  · rfl

section

variable {l : Fin 4} {s : State} {y : Symbol}

theorem offerSymbol_room (room : s.lanes[l].fifo.length < 32) : offerSymbol l y s = modifyLane l (acceptSymbol y) s :=
  if_pos room

/-- A symbol that a running lane's full FIFO discards is counted lost, and the first loss raises LaneLost. -/
theorem offerSymbol_full (full : 32 ≤ s.lanes[l].fifo.length) (runs : s.lanes[l].mode = .running) :
    offerSymbol l y s = if s.lanes[l].counters.lost = 0 then
        raiseNotice (.laneLost l) (countFillingLost 1 (modifyLane l discardSymbol s))
      else countFillingLost 1 (modifyLane l discardSymbol s) := by
  have no_room : ¬s.lanes[l].fifo.length < Config.fifoDepth := not_lt.2 full
  unfold offerSymbol
  dsimp only
  rw [if_neg no_room, if_pos runs]

theorem countFillingLost_eq (k : Nat) : countFillingLost k s = { s with segments := (countFillingLost k s).segments } := by
  unfold countFillingLost
  split <;> rfl

/-- The symbol of a Stop. -/
theorem emittedSymbol_stop (l : Fin 4) (lane : Lane) (t : Time) :
    emittedSymbol l lane (stopAt t 0) = stopSymbol l lane t := by
  unfold emittedSymbol stopSymbol
  simp [stopAt, carriedDuration, ticksAfter, timeDiff, framePosition]

theorem noteEmission_stop (lane : Lane) (t : Time) : noteEmission (emittedSymbol l lane (stopAt t 0)) lane = lane := by
  simp [noteEmission, emittedSymbol, stopAt, nextWordCount, countTags, countTag]

theorem modifyLane_fixed {f : Lane → Lane} (fixed : f s.lanes[l] = s.lanes[l]) : modifyLane l f s = s := by
  rw [modifyLane, fixed]
  simp

/-- A Stop is handed on, and the span buffer of the Field Extractor is emptied. -/
theorem emitSymbol_stop (l : Fin 4) (t : Time) (s : State) : emitSymbol l (stopAt t 0) s =
    modifyLane l (fun q => { q with fx := [] }) (handOn l (stopSymbol l s.lanes[l] t) s) := by
  unfold emitSymbol
  dsimp only
  rw [modifyLane_fixed (noteEmission_stop _ _), emittedSymbol_stop]
  unfold extractFields
  dsimp only
  exact if_pos (.inr rfl)

theorem running_of_dueLaneSample {x : LaneSample} (due : dueLaneSample l s = some x) : s.lanes[l].mode = .running := by
  unfold dueLaneSample at due
  split at due
  · next both => exact both.2
  · cases due

end

/-- A lane whose frame the gap timeout has closed. -/
def closeFrame (d : Decoder) (q : Lane) : Lane :=
  { q with decoder := { d with frame := closedFrame, clocked := emptyWord } }

section

variable {l : Fin 4} {s : State}

/-- The lane that emits a Stop: the FIFO takes it or, full, discards it, and the span buffer is empty. -/
theorem emitSymbol_stop_lane (t : Time) : (emitSymbol l (stopAt t 0) s).lanes[l] =
    { (if s.lanes[l].fifo.length < 32 then acceptSymbol (stopSymbol l s.lanes[l] t) else discardSymbol) s.lanes[l] with
      fx := [] } := by
  rw [emitSymbol_stop, modifyLane_self, handOn_lane]

theorem emitSymbol_stop_room (t : Time) (room : s.lanes[l].fifo.length < 32) :
    ChangesOnly [.lanes, .ts] s (emitSymbol l (stopAt t 0) s) := by
  have lanes := offerToTs_lanes l s (stopSymbol l s.lanes[l] t)
  rw [emitSymbol_stop, handOn, offerSymbol_room (by rw [lanes]; exact room)]
  exact ((offerToTs_frame _ _ _).mono (by decide)).trans (((modifyLane_frame _ _ _).mono (by decide)).trans
    ((modifyLane_frame _ _ _).mono (by decide)))

/-- What the loss of a Stop in a full FIFO leaves of the notices and the segments. -/
theorem emitSymbol_stop_full (t : Time) (full : 32 ≤ s.lanes[l].fifo.length) (runs : s.lanes[l].mode = .running) :
    (s.lanes[l].counters.lost = 0 → raised (.laneLost l) s (emitSymbol l (stopAt t 0) s)) ∧
    (s.lanes[l].counters.lost ≠ 0 → (emitSymbol l (stopAt t 0) s).lp = s.lp) ∧
    (emitSymbol l (stopAt t 0) s).segments = (countFillingLost 1 s).segments := by
  obtain ⟨w, lanes, received⟩ : ∃ w, w.lanes = s.lanes ∧ offerToTs l (stopSymbol l s.lanes[l] t) s = w ∧
      ∃ ts, w = { s with ts := ts } := by
    refine ⟨_, offerToTs_lanes l s _, rfl, ?_⟩
    unfold offerToTs
    exact ⟨_, if_pos runs⟩
  obtain ⟨offered, ts, hw⟩ := received
  have counted : countFillingLost 1 (modifyLane l discardSymbol w) = { s with
      ts := w.ts, lanes := (modifyLane l discardSymbol w).lanes, segments := (countFillingLost 1 s).segments } := by
    rw [hw]
    unfold countFillingLost
    dsimp only [modifyLane]
    split <;> rfl
  rw [emitSymbol_stop, handOn, offered, offerSymbol_full (by rw [lanes]; exact full) (by rw [lanes]; exact runs),
    counted, lanes]
  by_cases first : s.lanes[l].counters.lost = 0
  · rw [if_pos first, raiseNotice_eq]
    exact ⟨fun _ => raised_of_same rfl rfl rfl, fun other => absurd first other, rfl⟩
  · rw [if_neg first]
    exact ⟨fun zero => absurd zero first, fun _ => rfl, rfl⟩

end

/-- A passed gap deadline of a lane: its frame closes and its Stop goes out. -/
theorem exec_gapDeadline {l : Fin 4} {s : State} {x : LaneSample} {deadline : Time} (quiet : Quiet s)
    (due : dueLaneSample l s = some x) (time : gapStopTime s.laneTable[l] x s.lanes[l].decoder = some deadline)
    (whole : ∀ p, s.laneTable[l].kind = .clocked p → s.lanes[l].decoder.clocked.bits = 0) :
    exec (.gapDeadline l) s = .next (emitSymbol l (stopAt deadline 0) (modifyLane l (closeFrame s.lanes[l].decoder) s)) := by
  change execGapDeadline l s = _
  unfold execGapDeadline
  dsimp only
  rw [settle_quiet quiet, due]
  dsimp only
  rw [gapStop_of_time time whole]
  rfl

/-- Settles O25: the Stop of a passed gap deadline, and when the deadline is. -/
theorem gapDeadlineEmitsAStop : Obligations.GapDeadlineEmitsAStop := by
  refine ⟨?_, fun e x d => ⟨fun closed => ?_, fun p kind => ?_, fun p kind select => ?_, fun p kind busy => ?_, ?_, ?_, ?_⟩⟩
  · intro l s x deadline quiet due time whole
    have step := exec_gapDeadline quiet due time whole
    have runs := running_of_dueLaneSample due
    have own : (modifyLane l (closeFrame s.lanes[l].decoder) s).lanes[l] = closeFrame s.lanes[l].decoder s.lanes[l] :=
      modifyLane_self _ _ _
    have before_stop := modifyLane_frame l (closeFrame s.lanes[l].decoder) s
    have others : ∀ j : Fin 4, j ≠ l → (modifyLane l (closeFrame s.lanes[l].decoder) s).lanes[j] = s.lanes[j] :=
      fun j other => by rw [modifyLane_lane, if_neg other.symm]
    have segments : (countFillingLost 1 (modifyLane l (closeFrame s.lanes[l].decoder) s)).segments =
        (countFillingLost 1 s).segments := by
      unfold countFillingLost
      dsimp only [modifyLane]
      split <;> rfl
    have notices : (modifyLane l (closeFrame s.lanes[l].decoder) s).lp = s.lp := rfl
    have table : (modifyLane l (closeFrame s.lanes[l].decoder) s).pru = s.pru := rfl
    generalize modifyLane l (closeFrame s.lanes[l].decoder) s = u at *
    have lane := emitSymbol_stop_lane (l := l) (s := u) deadline
    have emits := emitSymbol_emission l u (stopAt deadline 0)
    rw [own] at lane
    refine ⟨_, step, ?_, ?_, fun room => ?_, fun full => ?_, ?_, ?_, ?_⟩
    · rw [emits.own.decoder, own]
      rfl
    · rw [lane]
    · have room_u : u.lanes[l].fifo.length < 32 := by rw [own]; exact room
      have accepts := lane.trans (by rw [if_pos (show (closeFrame s.lanes[l].decoder s.lanes[l]).fifo.length < 32 from room)])
      rw [accepts]
      refine ⟨rfl, ⟨_, mem_insertSymbol.2 (.inl rfl), rfl, rfl, rfl, rfl, rfl, rfl, ?_⟩, insertSymbol_length _ _, rfl,
        (before_stop.mono (by decide)).trans (emitSymbol_stop_room deadline room_u)⟩
      show 0#8 ||| tagIf s.lanes[l].pendingLost tagLost = _
      rw [tagIf, BitVec.zero_or]
      rfl
    · have full_u : 32 ≤ u.lanes[l].fifo.length := by rw [own]; exact full
      have runs_u : u.lanes[l].mode = .running := by rw [own]; exact runs
      obtain ⟨first, later, counted⟩ := emitSymbol_stop_full deadline full_u runs_u
      have discards := lane.trans (by
        rw [if_neg (show ¬(closeFrame s.lanes[l].decoder s.lanes[l]).fifo.length < 32 from not_lt.2 full)])
      rw [discards]
      rw [own] at first later
      refine ⟨rfl, rfl, rfl, fun none_lost => ?_, fun some_lost => ?_, fun n current => ?_, fun no_segment => ?_⟩
      · exact raised_of_same (first none_lost) (by rw [notices]) (by rw [table])
      · rw [later some_lost, notices]
      · rw [counted, segments, countFillingLost, current]
        rfl
      · rw [counted, segments, countFillingLost, no_segment]
    · rw [lane]
      dsimp only
      split <;> rfl
    · exact fun j other => (emits.others j other).trans (others j other)
    · exact (before_stop.mono (by decide)).trans ((emitSymbol_frame l _ u).mono (by decide))
  · exact gapStopTime_none (gapDeadline_closed closed) fun p kind => closed
  · exact gapStopTime_none (gapDeadline_twoWire kind) fun q other => by rw [kind] at other; cases other
  · exact gapStopTime_none (gapDeadline_selected kind select) fun q other => by rw [kind] at other; cases other
  · exact gapStopTime_none (gapDeadline_busy kind busy) fun q other => by rw [kind] at other; cases other
  · intro p low kind low_iff
    have is_low : strobeWasLow p x = true ↔ low := strobeWasLow_iff.trans low_iff.symm
    unfold gapStopTime
    rw [kind]
    dsimp only
    refine ⟨fun holds => if_pos (is_low.2 holds), fun high is_open passed => ?_⟩
    rw [if_neg (fun was_low => high (is_low.1 was_low)), is_open, passed]
    rfl
  · intro latest ticks is_open event kinds
    have quiet : ∀ p, e.kind = .strobed p → strobeWasLow p x = false ∧ d.frame.passed = false := by
      intro p kind
      rcases kinds with ⟨q, other, _⟩ | ⟨q, other, _⟩ | ⟨q, same, ahead, high, _⟩
      · rw [kind] at other; cases other
      · rw [kind] at other; cases other
      · rw [kind] at same
        cases same
        refine ⟨?_, ahead⟩
        rw [← Bool.not_eq_true, strobeWasLow_iff]
        rintro ⟨w, was, data_low | ⟨k, address, low⟩⟩
        · rw [(high w was).1] at data_low
          cases data_low
        · rw [(high w was).2 k address] at low
          cases low
    have deadline : gapDeadline e x.period d = some (addTicks latest ticks) :=
      gapDeadline_eq is_open event (kinds.imp_right (Or.imp_right fun ⟨q, same, _, _, count⟩ => ⟨q, same, count⟩))
    rw [gapStopTime_of_deadline quiet, deadline, filter_reached]
    exact ⟨fun passed => if_pos passed, fun ahead => if_neg (not_lt.2 ahead)⟩
  · intro w was is_open
    refine ⟨fun p kind select before now => ?_, fun p kind low high alone =>
      strobed_release_frame was kind is_open low high alone, ?_⟩
    · rw [kindStep, kind]
      dsimp only
      rw [clockedStep, select]
      dsimp only
      rw [unselectedStep, if_pos (activeEdge_of_levels was before now), if_pos is_open]
      exact takeEdge_frame p
    · rintro p t0 stop cells kind receives begun last rfl due
      exact async_character_frame kind receives begun last due

end Sys2Proof.Machine
end

section
/-! SUPPORT. The Symbol Merger: the head it writes next (R121, R122) and the write of it (R123, R128). -/

namespace Sys2Proof.Machine

/-! ### The eligible heads (R121, R122) -/

section

variable {s : State}

/-- The hold-back times of a decoder are those of its items in progress. -/
theorem mem_holdBacks {kind : LaneKind} {d : Decoder} {b : Time} : b ∈ holdBacks kind d ↔ HoldsBack kind d b := by
  unfold HoldsBack holdBacks
  cases kind with
  | async p => cases d.async <;> simp [addTicks, Config.maxDuration]
  | clocked p =>
    by_cases none_taken : d.clocked.bits = 0 <;> simp [none_taken, addTicks, Config.maxDuration]
  | twoWire p =>
    by_cases none_taken : d.twoWire.bits = 0 <;> cases d.twoWire.expect <;>
      simp [none_taken, addTicks, Config.maxDuration]
    · exact or_comm
    · exact or_assoc.symm
  | strobed p =>
    simp only [addTicks, Config.maxDuration, List.mem_map, List.mem_append, Option.mem_toList]
    constructor
    · rintro ⟨c, recorded, rfl⟩
      exact .inr (.inr (.inr ⟨p, c, rfl, recorded, rfl⟩))
    · rintro (⟨_, _, _, other, _⟩ | ⟨_, other, _⟩ | ⟨_, other, _⟩ | ⟨_, c, _, recorded, rfl⟩)
      · cases other
      · cases other
      · cases other
      · exact ⟨c, recorded, rfl⟩

theorem noHoldBack_iff {t : Time} : noHoldBack s t = true ↔
    ∀ (k : Fin 4) (b : Time), HoldsBack s.laneTable[k].kind s.lanes[k].decoder b → timeDiff t b ≤ 0 := by
  simp only [noHoldBack, List.all_eq_true, List.mem_finRange, true_implies, mem_holdBacks, atOrBefore,
    decide_eq_true_eq]

theorem eligible_iff {y : Symbol} : eligible s y = true ↔
    s.ce.engine = .closing ∨ (∃ r, s.redecode = some r ∧ r.left = 0) ∨
      ∃ h, s.sm.stamps[16]? = some h ∧ timeDiff (symbolEnd y) h ≤ 0 ∧
        ∀ (k : Fin 4) (b : Time), HoldsBack s.laneTable[k].kind s.lanes[k].decoder b →
          timeDiff (symbolEnd y) b ≤ 0 := by
  have whole : mergeAll s = true ↔ s.ce.engine = .closing ∨ ∃ r, s.redecode = some r ∧ r.left = 0 := by
    unfold mergeAll
    cases s.redecode <;> simp
  have past : (match horizon s.sm with
      | some h => atOrBefore (symbolEnd y) h && noHoldBack s (symbolEnd y)
      | none => false) = true ↔ ∃ h, s.sm.stamps[16]? = some h ∧ timeDiff (symbolEnd y) h ≤ 0 ∧
        ∀ (k : Fin 4) (b : Time), HoldsBack s.laneTable[k].kind s.lanes[k].decoder b →
          timeDiff (symbolEnd y) b ≤ 0 := by
    unfold horizon
    cases s.sm.stamps[16]? with
    | none => simp
    | some h => simp [noHoldBack_iff, atOrBefore]
  rw [← or_assoc, ← whole, ← past, ← Bool.or_eq_true]
  rfl

theorem eligibleHead_iff {l k : Fin 4} {y : Symbol} : eligibleHead s l = some (k, y) ↔ k = l ∧ EligibleHead s l y := by
  unfold eligibleHead EligibleHead
  rw [← eligible_iff]
  cases s.lanes[l].fifo with
  | nil => simp
  | cons z rest =>
    dsimp only [List.head?_cons]
    by_cases may : eligible s z = true
    · rw [if_pos may, Option.some.injEq, Prod.mk.injEq, Option.some.injEq, eq_comm (a := l)]
      exact and_congr_right fun _ => ⟨fun same => ⟨same, same ▸ may⟩, fun both => both.1⟩
    · rw [if_neg may]
      refine ⟨fun absurd_some => (nomatch absurd_some), ?_⟩
      rintro ⟨_, same, is_eligible⟩
      exact absurd ((Option.some.inj same).symm ▸ is_eligible) may

end

/-! ### The head that goes next (R7, R122) -/

theorem timeDiff_nonneg_iff {a b : Time} : 0 ≤ timeDiff a b ↔ (a - b).toNat < 140737488355328 := by
  have bound := (a - b).isLt
  rw [timeDiff, BitVec.toInt_eq_toNat_cond]
  split <;> omega

/-- Two times within half the range after a third are ordered as their ticks after it. -/
theorem timeDiff_neg_iff {a b base : Time} (ha : 0 ≤ timeDiff a base) (hb : 0 ≤ timeDiff b base) :
    timeDiff a b < 0 ↔ (a - base).toNat < (b - base).toNat := by
  rw [timeDiff_nonneg_iff] at ha hb
  rw [← not_le, timeDiff_nonneg_iff]
  have between : a - b = (a - base) - (b - base) := by
    bv_omega
  rw [between, BitVec.toNat_sub]
  omega

theorem sub_toNat_inj {a b base : Time} : (a - base).toNat = (b - base).toNat ↔ a = b := by
  rw [← BitVec.toNat_eq]
  refine ⟨fun same => ?_, fun same => by rw [same]⟩
  bv_omega

/-- The head of one lane goes before that of another: it ends earlier, or at the same time in a lower lane. -/
def goesBefore (l : Fin 4) (y : Symbol) (k : Fin 4) (z : Symbol) : Prop :=
  timeDiff (symbolEnd y) (symbolEnd z) < 0 ∨ symbolEnd y = symbolEnd z ∧ l < k

section

variable {s : State} {base : Time} {l k : Fin 4} {y z : Symbol}

/-- The ticks at which a symbol ends after a base. -/
def endTicks (base : Time) (y : Symbol) : Nat := (symbolEnd y - base).toNat

/-- Every eligible head ends within half the range of times after a base. -/
def HeadsWithin (s : State) (base : Time) : Prop := ∀ l y, EligibleHead s l y → 0 ≤ timeDiff (symbolEnd y) base

theorem goesBefore_iff (within : HeadsWithin s base) (hy : EligibleHead s l y) (hz : EligibleHead s k z) :
    goesBefore l y k z ↔ endTicks base y < endTicks base z ∨ endTicks base y = endTicks base z ∧ l < k := by
  rw [goesBefore, timeDiff_neg_iff (within l y hy) (within k z hz), endTicks, endTicks, sub_toNat_inj]

theorem betterHead_some : betterHead (some (l, y)) (some (k, z)) =
    if timeDiff (symbolEnd z) (symbolEnd y) < 0 then some (k, z) else some (l, y) := by
  simp only [betterHead, before_iff]

/-- The better of the eligible heads of some lanes, in order of lane. -/
def bestHead (s : State) (lanes : List (Fin 4)) : Option (Fin 4 × Symbol) :=
  lanes.foldl (fun a l => betterHead a (eligibleHead s l)) none

/-- The best head of some lanes is eligible and goes before every other. -/
def BestOf (s : State) (lanes : List (Fin 4)) : Option (Fin 4 × Symbol) → Prop
  | none => ∀ l ∈ lanes, ∀ y, ¬EligibleHead s l y
  | some (l, y) => l ∈ lanes ∧ EligibleHead s l y ∧
    ∀ k ∈ lanes, ∀ z, k ≠ l → EligibleHead s k z → goesBefore l y k z

theorem eligibleHead_none : eligibleHead s l = none ↔ ∀ y, ¬EligibleHead s l y := by
  refine ⟨fun none_there y is_head => ?_, fun no_head => ?_⟩
  · rw [(eligibleHead_iff (k := l)).2 ⟨rfl, is_head⟩] at none_there
    cases none_there
  · cases head : eligibleHead s l with
    | none => rfl
    | some found => exact absurd (eligibleHead_iff.1 head).2 (no_head found.2)

/-- One more lane, above those before it, is weighed against the best of them. -/
theorem BestOf.snoc {lanes : List (Fin 4)} {best : Option (Fin 4 × Symbol)} (within : HeadsWithin s base)
    (below : ∀ i ∈ lanes, i < k) (so_far : BestOf s lanes best) :
    BestOf s (lanes ++ [k]) (betterHead best (eligibleHead s k)) := by
  have members {j : Fin 4} (member : j ∈ lanes ++ [k]) : j ∈ lanes ∨ j = k := by simpa using member
  cases head : eligibleHead s k with
  | none =>
    have no_head := eligibleHead_none.1 head
    cases best with
    | none => exact fun j member => (members member).elim (so_far j) fun same => same ▸ no_head
    | some first =>
      obtain ⟨among, is_head, before⟩ := so_far
      refine ⟨List.mem_append_left _ among, is_head, fun j member w other head_j => ?_⟩
      rcases members member with among_j | rfl
      · exact before j among_j w other head_j
      · exact absurd head_j (no_head w)
  | some found =>
    obtain ⟨k', z⟩ := found
    obtain ⟨rfl, head_z⟩ := eligibleHead_iff.1 head
    have last : k' ∈ lanes ++ [k'] := List.mem_append_right _ List.mem_cons_self
    cases best with
    | none =>
      refine ⟨last, head_z, fun j member w other head_j => ?_⟩
      rcases members member with among_j | same
      · exact absurd head_j (so_far j among_j w)
      · exact absurd same other
    | some first =>
      obtain ⟨i, y⟩ := first
      obtain ⟨among, head_y, before⟩ := so_far
      have earlier := timeDiff_neg_iff (within k' z head_z) (within i y head_y)
      change _ ↔ endTicks base z < endTicks base y at earlier
      rw [betterHead_some]
      split_ifs with sooner
      · refine ⟨last, head_z, fun j member w other head_j => (goesBefore_iff within head_z head_j).2 ?_⟩
        rcases members member with among_j | same
        · by_cases same : j = i
          · subst same
            obtain rfl : y = w := Option.some.inj (head_y.1.symm.trans head_j.1)
            exact .inl (earlier.1 sooner)
          · have first_j := (goesBefore_iff within head_y head_j).1 (before j among_j w same head_j)
            have := earlier.1 sooner
            omega
        · exact absurd same other
      · refine ⟨List.mem_append_left _ among, head_y, fun j member w other head_j => ?_⟩
        rcases members member with among_j | rfl
        · exact before j among_j w other head_j
        · obtain rfl : z = w := Option.some.inj (head_z.1.symm.trans head_j.1)
          have not_sooner := mt earlier.2 sooner
          have above := below i among
          exact (goesBefore_iff within head_y head_j).2 (by omega)

theorem bestHead_spec (within : HeadsWithin s base) (lanes : List (Fin 4)) (ordered : lanes.Pairwise (· < ·)) :
    BestOf s lanes (bestHead s lanes) := by
  induction lanes using List.reverseRecOn with
  | nil => simp [bestHead, BestOf]
  | append_singleton lanes k ih =>
    rw [List.pairwise_append] at ordered
    obtain ⟨sorted, _, below⟩ := ordered
    rw [bestHead, List.foldl_append]
    exact (ih sorted).snoc within fun i among => below i among k List.mem_cons_self

/-- No two heads go before each other. -/
theorem goesBefore_asymm (within : HeadsWithin s base) (hy : EligibleHead s l y) (hz : EligibleHead s k z)
    (first : goesBefore l y k z) : ¬goesBefore k z l y := by
  rw [goesBefore_iff within hy hz] at first
  rw [goesBefore_iff within hz hy]
  omega

theorem nextSymbol_best (within : HeadsWithin s base) : BestOf s (List.finRange 4) (nextSymbol s) :=
  bestHead_spec within (List.finRange 4) (by decide)

theorem nextSymbol_none (within : HeadsWithin s base) : nextSymbol s = none ↔ ∀ l y, ¬EligibleHead s l y := by
  have best := nextSymbol_best within
  cases next : nextSymbol s with
  | none =>
    rw [next] at best
    exact ⟨fun _ l y => best l (List.mem_finRange l) y, fun _ => rfl⟩
  | some found =>
    rw [next] at best
    exact ⟨fun absurd_none => (nomatch absurd_none), fun no_head => absurd best.2.1 (no_head _ _)⟩

/-- The next symbol is the eligible head that goes before every other. -/
theorem nextSymbol_some (within : HeadsWithin s base) : nextSymbol s = some (l, y) ↔
    EligibleHead s l y ∧ ∀ k z, k ≠ l → EligibleHead s k z → goesBefore l y k z := by
  have best := nextSymbol_best within
  refine ⟨fun next => ?_, fun ⟨head, first⟩ => ?_⟩
  · rw [next] at best
    exact ⟨best.2.1, fun k z => best.2.2 k (List.mem_finRange k) z⟩
  · cases next : nextSymbol s with
    | none => exact absurd head ((nextSymbol_none within).1 next l y)
    | some found =>
      obtain ⟨k, z⟩ := found
      rw [next] at best
      obtain ⟨_, head_z, before⟩ := best
      by_cases same : k = l
      · subst same
        rw [Option.some.inj (head_z.1.symm.trans head.1)]
      · exact absurd (first k z same head_z)
          (goesBefore_asymm within head_z head (before l (List.mem_finRange l) y (Ne.symm same) head))

end

/-! ### The write of a symbol (R123, R128) -/

section

variable {s : State} {n : Fin 32} {l : Fin 4} {y : Symbol} {position : Nat} {replaces : Bool}

theorem noteRender_eq (f : Draw → Draw) : noteRender n f s = { s with re := (noteRender n f s).re } := by
  unfold noteRender
  split
  · split <;> rfl
  · rfl

/-- The part once a symbol has left its FIFO and the span has refused it. -/
def symbolRefused (n : Fin 32) (l : Fin 4) (s : State) : State :=
  { s with
    lanes := s.lanes.set l { s.lanes[l] with fifo := s.lanes[l].fifo.drop 1 }
    segments := s.segments.set n (refusedSymbol s.redecode.isSome s.segments[n])
    redecode := s.redecode.map fun r => { r with refused := true } }

theorem mergeSymbol_write
    (effect : spanEffect s.redecode.isSome s.segments[n] (spanCapacity s.plan[n]) = .write position replaces)
    (inside : inDram s (symbolAddress s.plan[n] position) 16 = true) :
    ∃ t, mergeSymbol n l y s = .next t ∧
      t.dram = memWriteBytes s.dram (symbolAddress s.plan[n] position) (symbolBytes y) ∧
      t.lanes = s.lanes.set l { s.lanes[l] with fifo := s.lanes[l].fifo.drop 1 } ∧
      t.segments = s.segments.set n (wroteSymbol (spanCapacity s.plan[n]) position replaces s.segments[n]) := by
  unfold mergeSymbol
  dsimp only
  rw [effect]
  dsimp only
  rw [if_pos (by exact inside), noteRender_eq]
  exact ⟨_, rfl, rfl, rfl, rfl⟩

theorem mergeSymbol_refuse
    (effect : spanEffect s.redecode.isSome s.segments[n] (spanCapacity s.plan[n]) = .refuse) :
    mergeSymbol n l y s = .next (symbolRefused n l s) := by
  unfold mergeSymbol
  dsimp only
  rw [effect]
  dsimp only
  cases redecode : s.redecode with
  | none => simp [symbolRefused, modifySegment, modifyLane, redecode]
  | some r => simp [symbolRefused, modifySegment, modifyLane, noteRefused, redecode]

theorem exec_symbolWrite (grant : nextGrant s = some .mergeWrite ∨ nextGrant s = some .redecodeWrite)
    (into : mergeSegment s = some n) (next : nextSymbol s = some (l, y)) :
    exec .symbolWrite s = mergeSymbol n l y s := by
  change execSymbolWrite s = _
  unfold execSymbolWrite
  have granted : (granted s .mergeWrite || granted s .redecodeWrite) = true := by
    simpa only [Bool.or_eq_true, granted_iff] using grant
  rw [if_pos granted, into, next]

end

/-- Settles O28: the span's two effects on the symbol, and the order of the heads. -/
theorem symbolWriteStoresOrCountsLost : Obligations.SymbolWriteStoresOrCountsLost := by
  refine ⟨?_, fun s base within => ⟨nextSymbol_none within, fun l y => nextSymbol_some within⟩⟩
  intro s n l y zs capacity position address g grant into next head hg hcapacity hposition haddress inside canonical
  have exec_eq := exec_symbolWrite grant into next
  have at_next : spanNext g capacity = position := by rw [hposition]; rfl
  have at_address : symbolAddress s.plan[n] position = address := by rw [haddress]; rfl
  have in_dram : inDram s (symbolAddress s.plan[n] position) 16 = true := by
    rw [at_address]
    exact inDram_iff.2 inside
  have effect : spanEffect s.redecode.isSome s.segments[n] (spanCapacity s.plan[n]) =
      if capacity = 0 then .refuse
      else if g.symbolCount < capacity then .write position false
      else if s.redecode.isSome || g.triggerTime.isSome then .refuse
      else .write position true := by
    rw [← at_next, hcapacity, hg]
    rfl
  have own : (s.lanes.set l { s.lanes[l] with fifo := s.lanes[l].fifo.drop 1 })[l].fifo = zs := by
    rw [set_getElem, if_pos rfl, head]
    rfl
  have other_segments (g' : SegmentStatus) (j : Fin 32) (other : j ≠ n) : (s.segments.set n g')[j] = s.segments[j] := by
    rw [set_getElem, if_neg other]
  have new_segment (g' : SegmentStatus) : (s.segments.set n g')[n] = g' := by rw [set_getElem, if_pos rfl]
  have stored (u : State) (written : u.dram = memWriteBytes s.dram (symbolAddress s.plan[n] position) (symbolBytes y)) :
      stores address (symbolBytes y) s u := fun x => by
    rw [written, at_address, memRead_memWriteBytes _ _ _ _ canonical]
  by_cases room : g.symbolCount < capacity
  · rw [if_neg (by omega), if_pos room] at effect
    obtain ⟨t, step, dram, lanes, segments⟩ := mergeSymbol_write (l := l) (y := y) effect in_dram
    rw [← exec_eq] at step
    refine ⟨t, step, by rw [lanes, own], fun _ => ⟨stored t dram, ?_, ?_, ?_⟩,
      fun _ full => absurd full (not_le.2 room), fun full => absurd full (not_le.2 room),
      fun j other => by rw [segments, other_segments _ j other], row_symbolWrite step⟩ <;>
    · rw [segments, new_segment, ← hg]
      rfl
  · have full := not_lt.1 room
    rw [if_neg room] at effect
    by_cases refused : capacity = 0 ∨ s.redecode.isSome ∨ g.triggerTime.isSome
    · have refuse : spanEffect s.redecode.isSome s.segments[n] (spanCapacity s.plan[n]) = .refuse := by
        rw [effect]
        rcases refused with zero | redecodes | triggered
        · rw [if_pos zero]
        · rw [redecodes, Bool.true_or, if_pos rfl, ite_self]
        · rw [triggered, Bool.or_true, if_pos rfl, ite_self]
      have step := exec_eq.trans (mergeSymbol_refuse (l := l) (y := y) refuse)
      refine ⟨_, step, own, fun below => absurd below room, fun positive _ no_redecode untriggered => ?_,
        fun _ _ => ⟨rfl, ?_, ?_, ?_, fun none_runs => ?_, fun q redecodes => ⟨?_, ?_⟩⟩, other_segments _,
        row_symbolWrite step⟩
      · rcases refused with zero | redecodes | triggered
        · omega
        · rw [no_redecode] at redecodes
          cases redecodes
        · rw [untriggered] at triggered
          cases triggered
      all_goals dsimp only [symbolRefused]
      all_goals try rw [new_segment, ← hg]
      · rfl
      · rfl
      · rfl
      · rw [none_runs]
        rfl
      · rw [redecodes]
        rfl
      · rw [redecodes]
        rfl
    · have replace : spanEffect s.redecode.isSome s.segments[n] (spanCapacity s.plan[n]) = .write position true := by
        rw [effect, if_neg fun zero => refused (.inl zero), if_neg]
        rw [Bool.or_eq_true]
        exact fun either => refused (.inr either)
      obtain ⟨t, step, dram, lanes, segments⟩ := mergeSymbol_write (l := l) (y := y) replace in_dram
      rw [← exec_eq] at step
      refine ⟨t, step, by rw [lanes, own], fun below => absurd below room, fun _ _ _ _ => ⟨stored t dram, ?_, ?_, ?_⟩,
        fun _ refuses => absurd refuses refused, fun j other => by rw [segments, other_segments _ j other],
        row_symbolWrite step⟩ <;>
      · rw [segments, new_segment, ← hg]
        simp [wroteSymbol, hcapacity, spanCapacity, Config.symbolsPerBlock]

end Sys2Proof.Machine
end

section
/-! SUPPORT. The drain of the write queue into the ring (R28, R29, R37, R40), and the entry to Closing. -/

namespace Sys2Proof.Machine

/-! ### The records that wait in Closing (R40) -/

/-- The slots that a waiting record may use: those of a normal record, or all at a trigger or before it. -/
theorem feedQueue_cons (queue : List Record) (r : Record) (rest : List Record) :
    ∃ slots, (slots = 512 ∨ slots = 510) ∧ ((∀ q ∈ r :: rest, q.triggerPoint = false) → slots = 510) ∧
      feedQueue queue (r :: rest) =
        if queue.length < slots then feedQueue (queue ++ [r]) rest else (queue, r :: rest) := by
  cases rest with
  | nil =>
    refine ⟨if r.triggerPoint || false then 512 else 510, ?_, fun normal => ?_, by rw [feedQueue.eq_def]; rfl⟩
    · split <;> simp
    · rw [normal r List.mem_cons_self]
      rfl
  | cons q rest =>
    refine ⟨if r.triggerPoint || (r.gap && q.triggerPoint) then 512 else 510, ?_, fun normal => ?_,
      by rw [feedQueue.eq_def]; rfl⟩
    · split <;> simp
    · rw [normal r List.mem_cons_self, normal q (List.mem_cons_of_mem _ List.mem_cons_self), Bool.and_false]
      rfl

/-- What moving the waiting records up leaves: the queue does not shrink, and one record waits only at a queue
without a normal slot. -/
theorem feedQueue_spec (queue records : List Record) :
    queue.length ≤ (feedQueue queue records).1.length ∧
      ((feedQueue queue records).2 ≠ [] → 510 ≤ (feedQueue queue records).1.length) ∧
      (queue.length ≤ 510 → (∀ r ∈ records, r.triggerPoint = false) → (feedQueue queue records).1.length ≤ 510) := by
  induction records generalizing queue with
  | nil => simp [feedQueue]
  | cons r rest ih =>
    obtain ⟨slots, bound, normal, moves⟩ := feedQueue_cons queue r rest
    obtain ⟨grows, full, bounded⟩ := ih (queue ++ [r])
    rw [List.length_append, List.length_singleton] at grows bounded
    rw [moves]
    by_cases room : queue.length < slots
    · rw [if_pos room]
      refine ⟨by omega, full, fun small none_triggers => bounded ?_ fun q member =>
        none_triggers q (List.mem_cons_of_mem _ member)⟩
      have := normal none_triggers
      omega
    · rw [if_neg room]
      exact ⟨le_rfl, fun _ => by dsimp only; omega, fun small _ => small⟩

/-! ### The entry to Closing -/

section

variable (reason : EndReason) (stop : Time) (records : List Record) (s : State)

/-- The entry to Closing changes the engine and stops the sequencer. -/
theorem enterClosing_eq : enterClosing reason stop records s = { s with
    ce := { s.ce with
      engine := .closing, reason := some reason, endTime := some stop, staging := []
      queue := (feedQueue s.ce.queue records).1, toPush := (feedQueue s.ce.queue records).2
      openRecord := none, episode := none, heldForce := false }
    ts := haltTs s.ts } := rfl

end

/-- In Closing no lane runs. -/
theorem endRuns_closing {s : State} (closing : s.ce.engine = .closing) (l : Fin 4) :
    (endRuns s).lanes[l].mode = .idle := by
  rw [endRuns, if_pos closing]
  exact finishLanes_idle _ _ _

theorem endRuns_ce (s : State) : (endRuns s).ce = s.ce := endRuns_frame s .ce (by decide)

/-! ### The drain (R28, R29, R37) -/

section

variable {s : State} {n : Fin 32} {r : Record} {rest : List Record} {position : Nat}

theorem exec_writeQueueDrain (grant : nextGrant s = some .drain) (current : s.ce.segment = some n)
    (queue : s.ce.queue = r :: rest) : exec .writeQueueDrain s = drainRecord n r rest s := by
  change execWriteQueueDrain s = _
  unfold execWriteQueueDrain
  rw [if_pos (granted_iff.2 grant), current, queue]

/-- After a drain the engine alone changes, by itself alone. -/
theorem afterDrain_eq (t : State) : afterDrain t = { t with ce := (afterDrain t).ce } := by
  unfold afterDrain
  split
  · rfl
  · split
    · split <;> rfl
    · rfl

theorem afterDrain_ce {t u : State} (same : t.ce = u.ce) : (afterDrain t).ce = (afterDrain u).ce := by
  unfold afterDrain feed gapRecord
  rw [same]
  split
  · rfl
  · split
    · split
      · rfl
      · exact same
    · exact same

/-- The status record once the head of the queue is in the ring. -/
def drainedSegment (capacity position : Nat) (r old : Record) (g : SegmentStatus) : SegmentStatus :=
  wroteRecord position r (if g.recordCount < capacity then addedRecord position g
    else replacedRecord capacity position old g)

theorem drainRecord_stores (place : ringNext s.segments[n] (ringCapacity s.plan[n]) = position)
    (free : s.segments[n].triggerPosition ≠ some position)
    (inside : inDram s (recordAddress s.plan[n] position) 8 = true) :
    ∃ t, drainRecord n r rest s = .next t ∧
      t.dram = memWriteBytes s.dram (recordAddress s.plan[n] position) (recordBytes r) ∧
      t.segments = s.segments.set n (drainedSegment (ringCapacity s.plan[n]) position r
        (readRecord s n position) s.segments[n]) ∧
      t.ce = (afterDrain { s with ce.queue := rest }).ce ∧ ChangesOnly [.ce, .segments, .dram, .re] s t := by
  have wide {t : State} (step : drainRecord n r rest s = .next t) (ts : t.ts = s.ts) (lanes : t.lanes = s.lanes)
      (notices : t.lp.notices = s.lp.notices) : ChangesOnly [.ce, .segments, .dram, .re] s t := fun p hp => by
    by_cases other : p ∈ [Part.ce, .ts, .lanes, .segments, .notices, .dram, .re]
    · have among : p = .ts ∨ p = .lanes ∨ p = .notices := by revert hp other; cases p <;> decide
      rcases among with rfl | rfl | rfl
      · exact ts
      · exact lanes
      · exact notices
    · exact drainRecord_frame step p other
  have stored : ∃ t, drainRecord n r rest s = .next t ∧
      t.dram = memWriteBytes s.dram (recordAddress s.plan[n] position) (recordBytes r) ∧
      t.segments = s.segments.set n (drainedSegment (ringCapacity s.plan[n]) position r
        (readRecord s n position) s.segments[n]) ∧
      t.ce = (afterDrain { s with ce.queue := rest }).ce ∧ t.ts = s.ts ∧ t.lanes = s.lanes ∧
      t.lp.notices = s.lp.notices := by
    unfold drainRecord
    dsimp only
    rw [place, if_neg free, if_pos inside, afterDrain_eq, noteRender_eq]
    exact ⟨_, rfl, rfl, rfl, afterDrain_ce rfl, rfl, rfl, rfl⟩
  obtain ⟨t, step, dram, segments, ce, ts, lanes, notices⟩ := stored
  exact ⟨t, step, dram, segments, ce, wide step ts lanes notices⟩

/-- In Closing the waiting records move up. -/
theorem afterDrain_closing {t : State} (closing : t.ce.engine = .closing) : (afterDrain t).ce =
    { t.ce with queue := (feedQueue t.ce.queue t.ce.toPush).1, toPush := (feedQueue t.ce.queue t.ce.toPush).2 } := by
  rw [afterDrain, if_pos closing]
  rfl

/-- In a capture an open episode's gap record takes the freed slot. -/
theorem afterDrain_episode {t : State} {e : Episode} (captures : t.ce.engine ≠ .closing)
    (lost : t.ce.episode = some e) (room : t.ce.queue.length < 510) : (afterDrain t).ce =
    { t.ce with queue := t.ce.queue ++ [gapRecord t e e.lost], episode := none } := by
  rw [afterDrain, if_neg captures, lost]
  dsimp only
  rw [if_pos (by exact room)]

/-- Otherwise the drain of a capture leaves nothing to do. -/
theorem afterDrain_rest {t : State} (captures : t.ce.engine ≠ .closing)
    (nothing : t.ce.episode = none ∨ 510 ≤ t.ce.queue.length) : afterDrain t = t := by
  rw [afterDrain, if_neg captures]
  split
  · next e lost =>
    rcases nothing with none_lost | full
    · rw [lost] at none_lost
      cases none_lost
    · exact if_neg (not_lt.2 full)
  · rfl

/-- A drain that would overwrite the trigger record ends the capture. -/
theorem drainRecord_limit (place : ringNext s.segments[n] (ringCapacity s.plan[n]) = position)
    (taken : s.segments[n].triggerPosition = some position) :
    drainRecord n r rest s = .next (endRuns (memoryLimit n s)) := by
  unfold drainRecord
  dsimp only
  rw [place, if_pos taken]

end

/-- Settles O27: the drain into the ring, and the capture's end at its trigger record. -/
theorem drainWritesTheHeadOrEndsMemoryLimit : Obligations.DrainWritesTheHeadOrEndsMemoryLimit := by
  refine ⟨?_, ?_⟩
  · intro s n r rest position address g grant current queue hg hposition haddress free inside canonical
    have place : ringNext s.segments[n] (ringCapacity s.plan[n]) = position := by
      rw [hposition, hg]
      rfl
    have at_address : recordAddress s.plan[n] position = address := by
      rw [haddress]
      rfl
    have in_dram : inDram s (recordAddress s.plan[n] position) 8 = true := by
      rw [at_address]
      exact inDram_iff.2 inside
    obtain ⟨t, step, dram, segments, ce, frame⟩ := drainRecord_stores (r := r) (rest := rest) place (by rw [← hg]; exact free) in_dram
    rw [← exec_writeQueueDrain grant current queue] at step
    have old : readRecord s n position = recordOf (memReadBytes s.dram address 8) := by
      rw [readRecord, at_address]
    rw [old, ← hg] at segments
    have own : t.segments[n] = drainedSegment (ringCapacity s.plan[n]) position r
        (recordOf (memReadBytes s.dram address 8)) g := by
      rw [segments, set_getElem, if_pos rfl]
    refine ⟨t, step, fun x => ?_, ?_, fun e ends => ?_, fun trigger => ?_, fun other => ?_, fun room => ?_, fun full => ?_,
      fun closing => ?_, fun captures => ?_, fun e captures lost room => ?_, fun captures nothing => ?_,
      fun j other => ?_, frame⟩
    · rw [dram, at_address, memRead_memWriteBytes _ _ _ _ canonical]
    · rw [own]; rfl
    · rw [own]
      unfold drainedSegment wroteRecord
      dsimp only
      have kept : (if g.recordCount < ringCapacity s.plan[n] then addedRecord position g
          else replacedRecord (ringCapacity s.plan[n]) position (recordOf (memReadBytes s.dram address 8)) g).endTime =
          some e := by
        split <;> exact ends
      rw [kept]
      rfl
    · rw [own]
      exact if_pos trigger
    · rw [own]
      refine (if_neg (by simp [other])).trans ?_
      split <;> rfl
    · have added : t.segments[n] = wroteRecord position r (addedRecord position g) := by
        rw [own, drainedSegment, if_pos (by exact room)]
      rw [added]
      exact ⟨rfl, rfl, rfl, rfl, rfl⟩
    · have replaced : t.segments[n] = wroteRecord position r (replacedRecord (ringCapacity s.plan[n]) position
          (recordOf (memReadBytes s.dram address 8)) g) := by
        rw [own, drainedSegment, if_neg (by exact not_lt.2 full)]
      rw [replaced]
      exact ⟨rfl, rfl, rfl, rfl⟩
    · obtain ⟨grows, many, bounded⟩ := feedQueue_spec rest s.ce.toPush
      rw [ce, afterDrain_closing (t := { s with ce.queue := rest }) closing]
      exact ⟨rfl, feedQueue_append _ _, grows, many, bounded⟩
    · rw [ce]
      by_cases lost : s.ce.episode = none ∨ 510 ≤ rest.length
      · rw [afterDrain_rest (t := { s with ce.queue := rest }) captures lost]
      · rw [not_or, not_le] at lost
        obtain ⟨e, episode⟩ := Option.ne_none_iff_exists'.1 lost.1
        rw [afterDrain_episode (t := { s with ce.queue := rest }) captures episode lost.2]
    · rw [ce, afterDrain_episode (t := { s with ce.queue := rest }) captures lost room]
      exact ⟨rfl, rfl⟩
    · rw [ce, afterDrain_rest (t := { s with ce.queue := rest }) captures nothing]
      exact ⟨rfl, rfl⟩
    · rw [segments, set_getElem, if_neg other]
  · intro s n r rest position grant current queue hposition taken
    have place : ringNext s.segments[n] (ringCapacity s.plan[n]) = position := by
      rw [hposition]
      rfl
    have step := (exec_writeQueueDrain grant current queue).trans (drainRecord_limit (rest := rest) place taken)
    have closing : (memoryLimit n s).ce.engine = .closing := rfl
    refine ⟨_, step, ?_, ?_, ?_, ?_, ?_, ?_, ?_, fun e ends => ?_, endRuns_closing closing,
      ((memoryLimit_frame n s).mono (by decide)).trans ((endRuns_frame _).mono (by decide))⟩ <;>
      rw [endRuns_ce]
    · rfl
    · rfl
    · rfl
    · rfl
    · rfl
    · rfl
    · rfl
    · show some (s.segments[n].endTime.getD 0) = some e
      rw [ends]
      rfl

end Sys2Proof.Machine
end

section
/-! SUPPORT. The replay of a redecode (R127, R128): a lane that does not run hands its symbols to its FIFO alone. -/

namespace Sys2Proof.Machine

/-! ### Lanes that do not run -/

/-- An operation of one lane that, while the lane does not run, acts on the lanes and the notices alone. -/
structure Aside (l : Fin 4) (s t : State) : Prop where
  mode : t.lanes[l].mode = s.lanes[l].mode
  frame : s.lanes[l].mode ≠ .running → ChangesOnly [.lanes, .notices] s t

namespace Aside

variable {l : Fin 4} {s t u : State}

theorem refl (s : State) : Aside l s s := ⟨rfl, fun _ => .refl _ _⟩

theorem trans (h : Aside l s t) (k : Aside l t u) : Aside l s u :=
  ⟨k.mode.trans h.mode, fun still => (h.frame still).trans (k.frame (by rw [h.mode]; exact still))⟩

theorem modify {f : Lane → Lane} (keeps : (f s.lanes[l]).mode = s.lanes[l].mode) : Aside l s (modifyLane l f s) :=
  ⟨by rw [modifyLane_self, keeps], fun _ => (modifyLane_frame _ _ _).mono (by decide)⟩

theorem foldl {α : Type} {f : State → α → State} (step : ∀ s a, Aside l s (f s a)) (s : State) (xs : List α) :
    Aside l s (xs.foldl f s) := by
  induction xs generalizing s with
  | nil => exact refl s
  | cons a xs ih => exact (step s a).trans (ih _)

end Aside

section

variable (l : Fin 4) (s : State)

theorem handOn_aside (y : Symbol) : Aside l s (handOn l y s) := by
  refine ⟨(handOn_emission l s y).own.mode, fun still => ?_⟩
  have kept : offerToTs l y s = s := if_neg still
  rw [handOn, kept]
  unfold offerSymbol
  dsimp only
  rw [if_neg still]
  have changed (f : Lane → Lane) : ChangesOnly [.lanes, .notices] s (modifyLane l f s) :=
    (modifyLane_frame _ _ _).mono (by decide)
  refine .ite (changed _) (.ite ((changed _).trans ((raiseNotice_frame _ _).mono (by decide))) (changed _))

theorem extractFields_aside (y : Symbol) : Aside l s (extractFields l y s) := by
  unfold extractFields
  dsimp only
  split
  · exact .modify rfl
  · split
    · exact (Aside.modify rfl).trans (.foldl (fun _ _ => handOn_aside l _ _) _ _)
    · exact .refl s

theorem emitSymbols_aside (es : List Emitted) : Aside l s (emitSymbols l es s) :=
  .foldl (fun _ _ => ((Aside.modify rfl).trans (handOn_aside l _ _)).trans (extractFields_aside l _ _)) s es

end

theorem laneTake_mode (e : LaneEntry) (period : Nat) (x : Sample) (lane : Lane) :
    (laneTake e period x lane).1.mode = lane.mode := by
  obtain ⟨y, ahead, split⟩ := window_split lane x
  rw [laneTake_eq split]
  split <;> rfl

theorem laneFlush_mode (e : LaneEntry) (period : Nat) (window : List Sample) (lane : Lane) :
    (laneFlush e period window lane).1.mode = lane.mode := by
  induction window generalizing lane with
  | nil => rfl
  | cons y ahead ih => exact ih _

/-- No lane runs. -/
def NoneRunning (s : State) : Prop := ∀ l : Fin 4, s.lanes[l].mode ≠ .running

/-- Steps of the lanes in turn that set none running act on the lanes and the notices alone. -/
theorem foldl_noneRunning {step : State → Fin 4 → State}
    (own : ∀ s, NoneRunning s → ∀ l, ChangesOnly [.lanes, .notices] s (step s l) ∧ NoneRunning (step s l))
    (s : State) (still : NoneRunning s) (lanes : List (Fin 4)) :
    ChangesOnly [.lanes, .notices] s (lanes.foldl step s) ∧ NoneRunning (lanes.foldl step s) := by
  induction lanes generalizing s with
  | nil => exact ⟨.refl _ _, still⟩
  | cons l lanes ih =>
    obtain ⟨frame, after⟩ := own s still l
    obtain ⟨rest, last⟩ := ih _ after
    exact ⟨frame.trans rest, last⟩

theorem NoneRunning.of_lane {s t : State} {l : Fin 4} (still : NoneRunning s) (own : t.lanes[l].mode ≠ .running)
    (others : ∀ j : Fin 4, j ≠ l → t.lanes[j] = s.lanes[j]) : NoneRunning t := fun j => by
  by_cases same : j = l
  · rw [same]
    exact own
  · rw [others j same]
    exact still j

theorem lanesSample_noneRunning (period : Nat) (x : Sample) (s : State) (still : NoneRunning s) :
    ChangesOnly [.lanes, .notices] s (lanesSample period x s) ∧ NoneRunning (lanesSample period x s) := by
  refine foldl_noneRunning (fun s still l => ?_) s still _
  have aside : Aside l s (laneSample period x s l) := by
    unfold laneSample
    split
    · exact .refl s
    · exact (Aside.modify (laneTake_mode _ _ _ _)).trans (emitSymbols_aside l _ _)
  exact ⟨aside.frame (still l), still.of_lane (by rw [aside.mode]; exact still l) (laneSample_others period x s l)⟩

theorem finishLanes_noneRunning (period : Nat) (s : State) (still : NoneRunning s) :
    ChangesOnly [.lanes, .notices] s (finishLanes period s) := by
  refine (foldl_noneRunning (fun s still l => ?_) s still _).1
  by_cases idle : s.lanes[l].mode = .idle
  · rw [show finishLane period s l = s from if_pos idle]
    exact ⟨.refl _ _, still⟩
  · have flushed : Aside l s (emitSymbols l (laneFlush s.laneTable[l] period s.lanes[l].window s.lanes[l]).2
        (modifyLane l (fun _ => (laneFlush s.laneTable[l] period s.lanes[l].window s.lanes[l]).1) s)) :=
      (Aside.modify (laneFlush_mode _ _ _ _)).trans (emitSymbols_aside l _ _)
    have ends : finishLane period s l = modifyLane l endLane (emitSymbols l
        (laneFlush s.laneTable[l] period s.lanes[l].window s.lanes[l]).2
        (modifyLane l (fun _ => (laneFlush s.laneTable[l] period s.lanes[l].window s.lanes[l]).1) s)) := if_neg idle
    refine ⟨?_, still.of_lane (l := l) ?_ (finishLane_others period s l)⟩
    · rw [ends]
      exact (flushed.frame (still l)).trans ((modifyLane_frame _ _ _).mono (by decide))
    · rw [ends, modifyLane_self]
      simp [endLane]

/-! ### The replay samples of a record (R127) -/

/-- The part with a stamp noted in the merge horizon. -/
def stampNoted (stamp : Time) (s : State) : State := { s with sm := noteStamp stamp s.sm }

theorem stampNoted_lanes (stamp : Time) (s : State) : (stampNoted stamp s).lanes = s.lanes := rfl

/-- The part after one replay sample. -/
def afterSample (divisor : Nat) (value : Word) (stamp : Time) (s : State) : State :=
  stampNoted stamp (lanesSample divisor { stamp := stamp, levels := value } s)

theorem giveSamples_succ (divisor : Nat) (value : Word) (count : Nat) (stamp : Time) (s : State) :
    giveSamples divisor value (count + 1) stamp s =
      giveSamples divisor value count (addTicks stamp divisor) (afterSample divisor value stamp s) := rfl

section

variable (divisor : Nat) (value : Word) (stamp : Time) (s : State)

theorem afterSample_lanes : (afterSample divisor value stamp s).lanes =
    (lanesSample divisor { stamp := stamp, levels := value } s).lanes := stampNoted_lanes _ _

theorem afterSample_given : LanesGiven divisor { stamp := stamp, levels := value } s (afterSample divisor value stamp s) := by
  unfold LanesGiven
  rw [afterSample_lanes]
  exact lanesSample_given divisor { stamp := stamp, levels := value } s

theorem afterSample_noneRunning (still : NoneRunning s) : NoneRunning (afterSample divisor value stamp s) := by
  unfold NoneRunning
  rw [afterSample_lanes]
  exact (lanesSample_noneRunning divisor _ s still).2

theorem afterSample_frame (still : NoneRunning s) :
    ChangesOnly [.lanes, .sm, .notices] s (afterSample divisor value stamp s) :=
  ((lanesSample_noneRunning divisor _ s still).1.mono (by decide)).trans ((update_sm _ _).mono (by decide))

theorem afterSample_stamps (still : NoneRunning s) :
    (afterSample divisor value stamp s).sm.stamps = (stamp :: s.sm.stamps).take 17 := by
  have kept : (lanesSample divisor { stamp := stamp, levels := value } s).sm = s.sm :=
    (lanesSample_noneRunning divisor _ s still).1 .sm (by decide)
  rw [afterSample, stampNoted, kept]
  rfl

end

theorem stamp_later (stamp : Time) (i divisor : Nat) : stamp + BitVec.ofNat 48 ((i + 1) * divisor) =
    addTicks stamp divisor + BitVec.ofNat 48 (i * divisor) := by
  rw [addTicks, Nat.add_one_mul, Nat.add_comm, BitVec.ofNat_add, BitVec.add_assoc]

/-- The part after some replay samples of one value, from a stamp on. -/
theorem giveSamples_spec (divisor : Nat) (value : Word) (count : Nat) (stamp : Time) (s : State) (still : NoneRunning s) :
    ChangesOnly [.lanes, .sm, .notices] s (giveSamples divisor value count stamp s) ∧
      NoneRunning (giveSamples divisor value count stamp s) ∧
      LanesReplay divisor value count stamp s (giveSamples divisor value count stamp s) := by
  induction count generalizing stamp s with
  | zero => exact ⟨.refl _ _, still, fun _ => s, rfl, rfl, fun i below => absurd below (Nat.not_lt_zero i)⟩
  | succ count ih =>
    rw [giveSamples_succ]
    have first := afterSample_frame divisor value stamp s still
    have given := afterSample_given divisor value stamp s
    have still_given := afterSample_noneRunning divisor value stamp s still
    generalize afterSample divisor value stamp s = next at first given still_given ⊢
    obtain ⟨frame, still_after, u, begins, ends, steps⟩ := ih (addTicks stamp divisor) next still_given
    refine ⟨first.trans frame, still_after, fun i => if i = 0 then s else u (i - 1), if_pos rfl,
      (by dsimp only; rw [if_neg (Nat.succ_ne_zero count), Nat.add_sub_cancel]; exact ends), fun i below => ?_⟩
    cases i with
    | zero =>
      dsimp only
      rw [if_pos rfl, if_neg (by decide), Nat.zero_add, Nat.sub_self, begins, Nat.zero_mul]
      exact ⟨by simpa using given, first⟩
    | succ i =>
      obtain ⟨next, only⟩ := steps i (Nat.lt_of_succ_lt_succ below)
      dsimp only
      rw [if_neg (Nat.succ_ne_zero i), if_neg (Nat.succ_ne_zero _), Nat.add_sub_cancel, Nat.add_sub_cancel,
        stamp_later]
      exact ⟨next, only⟩

theorem take_append_take {α : Type} (a b : List α) (n : Nat) : (a ++ b.take n).take n = (a ++ b).take n := by
  rw [List.take_append, List.take_append, List.take_take, min_eq_left (Nat.sub_le _ _)]

/-- The merge horizon after the replay samples of a record: their stamps, newest first, before those it held. -/
theorem giveSamples_stamps (divisor : Nat) (value : Word) (count : Nat) (stamp : Time) (s : State) (still : NoneRunning s)
    (short : s.sm.stamps.length ≤ 17) : (giveSamples divisor value count stamp s).sm.stamps =
      (((List.range count).map fun i => stamp + BitVec.ofNat 48 (i * divisor)).reverse ++ s.sm.stamps).take 17 := by
  induction count generalizing stamp s with
  | zero => exact (List.take_of_length_le short).symm
  | succ count ih =>
    rw [giveSamples_succ]
    have stamps := afterSample_stamps divisor value stamp s still
    have still_given := afterSample_noneRunning divisor value stamp s still
    generalize afterSample divisor value stamp s = after at stamps still_given ⊢
    have next := ih (addTicks stamp divisor) after still_given (by rw [stamps]; exact List.length_take_le _ _)
    have later : (List.range count).map (fun i => addTicks stamp divisor + BitVec.ofNat 48 (i * divisor)) =
        (List.range count).map fun i => stamp + BitVec.ofNat 48 ((i + 1) * divisor) :=
      List.map_congr_left fun i _ => (stamp_later stamp i divisor).symm
    rw [stamps, take_append_take, later] at next
    rw [List.range_succ_eq_map, List.map_cons, List.reverse_cons, List.append_assoc, List.map_map]
    simpa [Function.comp_def] using next

/-! ### The stream after a record, and the end of the redecode (R127, R128) -/

/-- The part with the stream of its redecode at `r`. -/
def streamAt (r : Redecode) (s : State) : State := { s with redecode := some r }

theorem streamAt_redecode (r : Redecode) (s : State) : (streamAt r s).redecode = some r := rfl

theorem streamAt_lanes (r : Redecode) (s : State) : (streamAt r s).lanes = s.lanes := rfl

theorem streamAt_sm (r : Redecode) (s : State) : (streamAt r s).sm = s.sm := rfl

theorem streamAt_frame (r : Redecode) (s : State) : ChangesOnly [.redecode] s (streamAt r s) := by
  intro p untouched
  cases p <;> first | rfl | exact ⟨rfl, rfl⟩ | exact ⟨rfl, rfl, rfl⟩ | exact fun _ => rfl | simp at untouched

theorem endReplay_streamAt (r : Redecode) (s : State) :
    endReplay (streamAt r s) = if r.left = 0 then finishLanes r.divisor (streamAt r s) else streamAt r s := rfl

theorem LanesReplay.of_lanes {divisor count : Nat} {value : Word} {stamp : Time} {s t u : State}
    (given : LanesReplay divisor value count stamp s t) (same : u.lanes = t.lanes) :
    LanesReplay divisor value count stamp s u := by
  obtain ⟨v, begins, ends, steps⟩ := given
  exact ⟨v, begins, ends.trans same.symm, steps⟩

theorem exec_redecodeRecordRead {s : State} {r : Redecode} (grant : nextGrant s = some .redecodeRead)
    (redecode : s.redecode = some r) (inside : inDram s (recordAddress s.plan[r.segment] r.next) 8 = true) :
    exec .redecodeRecordRead s = .next (replayRecord r s) := by
  change execRedecodeRecordRead s = _
  unfold execRedecodeRecordRead
  rw [if_pos (granted_iff.2 grant), redecode]
  exact if_pos inside

/-- What the read of a record by a redecode does, of a part no lane of which runs (R127). -/
theorem replayRecord_spec {s : State} {r : Redecode} {q : Record} {stop : Time} {count : Nat}
    (still : NoneRunning s) (redecode : s.redecode = some r) (read : readRecord s r.segment r.next = q)
    (until_ : addTicks r.start q.duration = stop) (samples : samplesBefore r.divisor r.stamp stop = count) :
    (replayRecord r s).redecode = some (replayed (ringCapacity s.plan[r.segment]) stop count r) ∧
      (replayRecord r s).sm = (giveSamples r.divisor q.value count r.stamp s).sm ∧
      (2 ≤ r.left → (replayRecord r s).lanes = (giveSamples r.divisor q.value count r.stamp s).lanes) ∧
      (r.left ≤ 1 → ∀ l : Fin 4, (replayRecord r s).lanes[l].mode = .idle) ∧
      ChangesOnly [.redecode, .sm, .lanes, .notices] s (replayRecord r s) := by
  obtain ⟨given, still_given, -⟩ := giveSamples_spec r.divisor q.value count r.stamp s still
  have kept := (given .redecode (by decide)).trans redecode
  have unfolded : replayRecord r s = endReplay (streamAt (replayed (ringCapacity s.plan[r.segment]) stop count r)
      (giveSamples r.divisor q.value count r.stamp s)) := by
    subst samples until_ read
    simp only [replayRecord, kept, streamAt, Option.map_some]
  rw [unfolded, endReplay_streamAt]
  generalize giveSamples r.divisor q.value count r.stamp s = u at given still_given ⊢
  generalize advanced : replayed (ringCapacity s.plan[r.segment]) stop count r = after
  have left : after.left = r.left - 1 := by
    rw [← advanced]
    rfl
  have moved : ChangesOnly [.redecode, .sm, .lanes, .notices] s (streamAt after u) :=
    (given.mono (by decide)).trans ((streamAt_frame _ _).mono (by decide))
  by_cases last : r.left ≤ 1
  · rw [if_pos (show after.left = 0 by omega)]
    have ended := finishLanes_noneRunning after.divisor (streamAt after u) still_given
    exact ⟨ended .redecode (by decide), ended .sm (by decide), fun more => absurd last (by omega),
      fun _ => finishLanes_idle _ _, moved.trans (ended.mono (by decide))⟩
  · rw [if_neg (show ¬after.left = 0 by omega)]
    exact ⟨rfl, rfl, fun _ => rfl, fun ends => absurd ends last, moved⟩

/-- The status of a span that a whole redecode has written (R128). -/
def redecodedStatus (r : Redecode) : SymbolStatus := if r.refused then .redecodedTruncated else .redecoded

/-- The part after a redecode of a segment, its notice not yet raised. -/
def redecodeEnded (r : Redecode) (s : State) : State :=
  { modifySegment r.segment (fun g => { g with symbolStatus := some (redecodedStatus r) }) s with
    redecode := none, sm := { stamps := [] } }

theorem redecodeEnded_frame (r : Redecode) (s : State) :
    ChangesOnly [.redecode, .sm, .segments, .notices] s (redecodeEnded r s) :=
  ((modifySegment_frame r.segment (fun g => { g with symbolStatus := some (redecodedStatus r) }) s
    fun _ => rfl).mono (by decide)).trans ((update_redecode_sm _ _ _).mono (by decide))

theorem completeRedecode_eq (r : Redecode) (s : State) : completeRedecode r s =
    raiseNotice (.redecodeDone r.segment (redecodedStatus r) s.segments[r.segment].symbolCount
      s.segments[r.segment].symbolLost) (redecodeEnded r s) := by
  have own : (redecodeEnded r s).segments[r.segment] =
      { s.segments[r.segment] with symbolStatus := some (redecodedStatus r) } :=
    (set_getElem _ _ _ _).trans (if_pos rfl)
  have unfolded : completeRedecode r s = raiseNotice (.redecodeDone r.segment (redecodedStatus r)
      (redecodeEnded r s).segments[r.segment].symbolCount
      (redecodeEnded r s).segments[r.segment].symbolLost) (redecodeEnded r s) := rfl
  rw [unfolded, own]

theorem exec_redecodeDone {s : State} {r : Redecode} (redecode : s.redecode = some r) (read : r.left = 0)
    (drained : ∀ l : Fin 4, s.lanes[l].fifo = []) (trimmed : trimDue s = false) :
    exec .redecodeDone s = .next (completeRedecode r s) := by
  have finished : redecodeFinished s = true := by
    simp [redecodeFinished, redecode, read, fifosEmpty_iff.2 drained, trimmed]
  change execRedecodeDone s = _
  unfold execRedecodeDone
  rw [if_pos finished, redecode]

/-- Settles O35: the replay of a record, and the completion of the redecode. -/
theorem redecodeReplaysRecordsAndCompletes : Obligations.RedecodeReplaysRecordsAndCompletes := by
  constructor
  · intro s r q stop count law grant redecode still inside hq hstop hcount
    obtain ⟨stream, horizon, more, last, frame⟩ := replayRecord_spec (q := q) (stop := stop) (count := count) still
      redecode hq.symm hstop.symm (by rw [hcount, samplesBefore]; simp only [before_iff]; rfl)
    refine ⟨_, exec_redecodeRecordRead grant redecode (inDram_iff.2 inside), stream, ?_,
      fun left => ?_, last, frame⟩
    · rw [horizon]
      exact giveSamples_stamps r.divisor q.value count r.stamp s still law.horizon
    · exact (giveSamples_spec r.divisor q.value count r.stamp s still).2.2.of_lanes (more left)
  · rintro s r status redecode read drained trimmed rfl
    have step := exec_redecodeDone redecode read drained trimmed
    rw [completeRedecode_eq] at step
    have raise := raiseNotice_frame (.redecodeDone r.segment (redecodedStatus r) s.segments[r.segment].symbolCount
      s.segments[r.segment].symbolLost) (redecodeEnded r s)
    refine ⟨_, step, raise .redecode (by decide), ?_, ?_, raised_of_same rfl rfl rfl,
      (redecodeEnded_frame r s).trans (raise.mono (by decide))⟩
    · rw [raise .sm (by decide)]
      rfl
    · rw [raise .segments (by decide)]
      rfl

end Sys2Proof.Machine
end

section
/-! SUPPORT. The levels of a sample (R5, R11, R13), and the commands that wait for the next tick. -/

namespace Sys2Proof.Machine

/-! ### The bits of the levels -/

theorem bitWord_getLsbD (b : Bool) (k : Nat) : (bitWord b).getLsbD k = (decide (k = 0) && b) := by
  cases b <;> simp [bitWord]

theorem low_half_getLsbD (k : Fin 32) : (0xFFFF : Word).getLsbD k = decide (k.val < 16) := by
  revert k
  decide

theorem loopLevels_getLsbD (g : Gen) (k : Fin 32) : (loopLevels g).getLsbD k =
    if k.val = 0 then g.outputs[0].level else if k.val = 1 then g.outputs[1].level
      else if k.val < 8 then g.loopCounter.getLsbD (k.val - 2) else false := by
  rw [loopLevels, BitVec.getLsbD_or, BitVec.getLsbD_or, BitVec.getLsbD_shiftLeft, BitVec.getLsbD_shiftLeft,
    BitVec.getLsbD_setWidth, bitWord_getLsbD, bitWord_getLsbD]
  split
  · next first => simp [first]
  · next not_first =>
    split
    · next second => simp [second]
    · next not_second =>
      have past : 2 ≤ k.val := by omega
      have inside : k.val - 2 < 32 := by omega
      split
      · simp [not_first, not_lt.2 past, inside, show k.val - 1 ≠ 0 by omega]
      · have none_there : g.loopCounter.getLsbD (k.val - 2) = false := BitVec.getLsbD_of_ge _ _ (by omega)
        simp [not_first, none_there, show k.val - 1 ≠ 0 by omega]

/-- A bit of a sample's levels, before the width is applied. -/
theorem sampleLevels_getLsbD (s : State) (k : Fin 32) : (sampleLevels s).getLsbD k =
    ((if s.ce.table.loop then loopLevels s.gen else padLevels s.pfe).getLsbD k &&
      (decide (s.ce.table.width = .wide) || decide (k.val < 16))) := by
  unfold sampleLevels
  dsimp only
  split
  · next wide => simp [wide]
  · next narrow => rw [BitVec.getLsbD_and, low_half_getLsbD, narrow]; simp

/-! ### A command that waits for the next tick (assumption 58) -/

/-- The ticks from one sample, or examination, to the next (R11, R12). -/
theorem samplerStep_eq (e : AcqEntry) :
    samplerStep e = if e.mode = .timing then e.divisor else if e.width = .narrow then 1 else 2 := by
  unfold samplerStep
  split <;> simp [*]

/-- A sampler that is due again one step after this tick has sampled at it. -/
theorem sampledNow_of_due {s : State} (running : s.ce.engine ≠ .idle)
    (due : s.ce.nextTick = s.time + BitVec.ofNat 48 (if s.ce.table.mode = .timing then s.ce.table.divisor
      else if s.ce.table.width = .narrow then 1 else 2)) : sampledNow s = true := by
  unfold sampledNow
  rw [due, samplerStep_eq]
  simp [engineIdle, running, addTicks]

theorem writeRow_generator {payload more : List Byte} (form : payload = 2 :: more) (filled : more ≠ []) :
    writeRow payload = .writeGenerator := by
  obtain ⟨b, bs, rfl⟩ := List.exists_cons_of_ne_nil filled
  subst form
  exact if_neg (by simp)

section

variable {c : LinkCell} {rest : List LinkCell} {s : State}

/-- A command at the head of the queue that waits for the next tick is not dispatched, and nothing changes. -/
theorem dispatch_waits (head : s.lp.queue = c :: rest) (loop : s.ce.table.loop = true) (sampled : sampledNow s = true)
    (changes : changesOutputs c s = true) (row : Instr) (length : Option Nat) (inSleep : Bool)
    (owner : LinkCell → State → State) : dispatch row length inSleep s owner = .next s := by
  have waits : waitsForTick c s = true := by simp [waitsForTick, loop, sampled, changes]
  rw [dispatch, takeCommand_waits head waits row]

theorem changesOutputs_write {more : List Byte} (code : c.code = 1) (form : c.payload = 2 :: more) (filled : more ≠ []) :
    changesOutputs c s = true := by
  have row : commandRow c = .writeGenerator := by
    unfold commandRow
    rw [code]
    exact writeRow_generator form filled
  unfold changesOutputs
  rw [row]

theorem changesOutputs_force {i : Fin 2} (code : c.code = 5) (waits : s.ce.engine = .preFill ∨ s.ce.engine = .armed)
    (begins : s.gen.table[i].mode = .burstOnTrigger) (low : s.gen.outputs[i].level = false) :
    changesOutputs c s = true := by
  have row : commandRow c = .force := by
    unfold commandRow
    rw [code]
    rfl
  unfold changesOutputs
  rw [row]
  simp only [forceRaises, Bool.and_eq_true, Bool.or_eq_true, beq_iff_eq, List.any_eq_true]
  exact ⟨waits, i, List.mem_finRange i, begins, by rw [low]; rfl⟩

end

/-- Settles O16: the levels channel by channel, and the commands that wait for the next tick. -/
theorem sampleHoldsTheLevelsOfItsTick : Obligations.SampleHoldsTheLevelsOfItsTick := by
  constructor
  · intro s k
    rw [sampleLevels_getLsbD]
    refine ⟨fun narrow high => ?_, fun inside off => ?_, fun inside on => ?_⟩
    · simp [narrow, not_lt.2 high]
    · have shown : (decide (s.ce.table.width = .wide) || decide (k.val < 16)) = true := by simpa using inside
      rw [shown, off, Bool.and_true, if_neg Bool.false_ne_true, padLevels, BitVec.getLsbD_and, podMask_getLsbD,
        Bool.and_assoc]
    · have shown : (decide (s.ce.table.width = .wide) || decide (k.val < 16)) = true := by simpa using inside
      rw [shown, on, Bool.and_true, if_pos rfl, loopLevels_getLsbD]
  · intro c rest s head loop running due
    have sampled := sampledNow_of_due running due
    refine ⟨fun code => ?_, fun code waits => ?_⟩
    · rintro ⟨more, form, filled⟩
      exact dispatch_waits head loop sampled (changesOutputs_write code form filled) _ _ _ _
    · rintro ⟨i, begins, low⟩
      exact dispatch_waits head loop sampled (changesOutputs_force code waits begins low) _ _ _ _

end Sys2Proof.Machine
end

section
/-! SUPPORT. What the lanes of a running capture touch beside themselves: the symbols that wait for the TS, the lost
count of the segment being filled, and the notice LaneLost (R65, R118, R120). -/

namespace Sys2Proof.Machine

/-- What the lanes touch with a sample, and with the end of their runs. -/
structure EmitsAlone (s t : State) : Prop where
  frame : ChangesOnly (.sm :: emitParts) s t
  ts : t.ts = { s.ts with waiting := t.ts.waiting }
  current : ∀ n, s.ce.segment = some n → ∃ lost, t.segments[n] = { s.segments[n] with symbolLost := lost }
  others : ∀ j : Fin 32, s.ce.segment ≠ some j → t.segments[j] = s.segments[j]
  notices : ∀ i : Fin 10, i ≠ 4 → t.lp.notices[i] = s.lp.notices[i]

namespace EmitsAlone

variable {l : Fin 4} {s t u : State}

theorem ce (h : EmitsAlone s t) : t.ce = s.ce := h.frame .ce (by decide)

theorem refl (s : State) : EmitsAlone s s :=
  ⟨.refl _ _, rfl, fun n _ => ⟨s.segments[n].symbolLost, rfl⟩, fun _ _ => rfl, fun _ _ => rfl⟩

theorem trans (h : EmitsAlone s t) (k : EmitsAlone t u) : EmitsAlone s u := by
  refine ⟨h.frame.trans k.frame, ?_, fun n current => ?_, fun j other => ?_, fun i other => ?_⟩
  · rw [k.ts, h.ts]
  · obtain ⟨lost, first⟩ := h.current n current
    obtain ⟨more, second⟩ := k.current n (by rw [h.ce]; exact current)
    exact ⟨more, by rw [second, first]⟩
  · exact (k.others j (by rw [h.ce]; exact other)).trans (h.others j other)
  · exact (k.notices i other).trans (h.notices i other)

theorem foldl {α : Type} {f : State → α → State} (step : ∀ s a, EmitsAlone s (f s a)) (s : State) (xs : List α) :
    EmitsAlone s (xs.foldl f s) := by
  induction xs generalizing s with
  | nil => exact refl s
  | cons a xs ih => exact (step s a).trans (ih _)

theorem ite {p : Prop} [Decidable p] (h : EmitsAlone s t) (k : EmitsAlone s u) : EmitsAlone s (if p then t else u) := by
  split <;> assumption

theorem modify (l : Fin 4) (f : Lane → Lane) (s : State) : EmitsAlone s (modifyLane l f s) :=
  ⟨(modifyLane_frame _ _ _).mono (by decide), rfl, fun n _ => ⟨s.segments[n].symbolLost, rfl⟩, fun _ _ => rfl,
    fun _ _ => rfl⟩

theorem counted (k : Nat) (s : State) : EmitsAlone s (countFillingLost k s) := by
  refine ⟨(countFillingLost_frame k s).mono (by decide), ?_, fun n current => ?_, fun j other => ?_, fun i _ => ?_⟩
  · rw [countFillingLost_eq]
  · rw [countFillingLost, current]
    exact ⟨_, (modifySegment_segment _ _ _ _).trans (if_pos rfl)⟩
  · unfold countFillingLost
    split
    · next n current =>
      exact (modifySegment_segment _ _ _ _).trans (if_neg fun same => other (by rw [current, same]))
    · rfl
  · rw [countFillingLost_eq]

theorem noticed (l : Fin 4) (s : State) : EmitsAlone s (raiseNotice (.laneLost l) s) := by
  refine ⟨(raiseNotice_frame _ _).mono (by decide), ?_, fun n _ => ⟨s.segments[n].symbolLost, ?_⟩, fun j _ => ?_,
    fun i other => ?_⟩
  · rw [raiseNotice_eq]
  · rw [raiseNotice_eq]
  · rw [raiseNotice_eq]
  · rw [raiseNotice_slots]
    split
    · rw [set_getElem]
      exact if_neg other
    · rfl

theorem received (l : Fin 4) (y : Symbol) (s : State) : EmitsAlone s (offerToTs l y s) := by
  refine ⟨(offerToTs_frame l y s).mono (by decide), ?_, fun n _ => ⟨s.segments[n].symbolLost, ?_⟩, fun j _ => ?_,
    fun i _ => ?_⟩
  · unfold offerToTs receiveSymbol
    split
    · dsimp only
      split <;> rfl
    · rfl
  all_goals
    unfold offerToTs
    split <;> rfl

theorem offered (l : Fin 4) (y : Symbol) (s : State) : EmitsAlone s (offerSymbol l y s) := by
  have lost : EmitsAlone s (if s.lanes[l].mode = .running then countFillingLost 1 (modifyLane l discardSymbol s)
      else modifyLane l discardSymbol s) :=
    .ite ((modify l _ s).trans (counted 1 _)) (modify l _ s)
  exact .ite (modify l _ s) (.ite (lost.trans (noticed l _)) lost)

theorem handed (l : Fin 4) (y : Symbol) (s : State) : EmitsAlone s (handOn l y s) :=
  (received l y s).trans (offered l y _)

theorem fields (l : Fin 4) (y : Symbol) (s : State) : EmitsAlone s (extractFields l y s) :=
  .ite (modify l _ s) (.ite ((modify l _ s).trans (.foldl (fun _ _ => handed l _ _) _ _)) (.refl s))

theorem emitted (l : Fin 4) (es : List Emitted) (s : State) : EmitsAlone s (emitSymbols l es s) :=
  .foldl (fun _ _ => ((modify l _ _).trans (handed l _ _)).trans (fields l _ _)) s es

end EmitsAlone

theorem lanesSample_alone (period : Nat) (x : Sample) (s : State) : EmitsAlone s (lanesSample period x s) :=
  .foldl (fun _ _ => .ite (.refl _) ((EmitsAlone.modify _ _ _).trans (.emitted _ _ _))) s _

theorem finishLanes_alone (period : Nat) (s : State) : EmitsAlone s (finishLanes period s) :=
  .foldl (fun _ _ => .ite (.refl _) (((EmitsAlone.modify _ _ _).trans (.emitted _ _ _)).trans (.modify _ _ _))) s _

theorem endRuns_alone (s : State) : EmitsAlone s (endRuns s) := .ite (finishLanes_alone _ _) (.refl s)

theorem stampNoted_ce (stamp : Time) (s : State) : (stampNoted stamp s).ce = s.ce := rfl

theorem stampNoted_alone (stamp : Time) (s : State) : EmitsAlone s (stampNoted stamp s) :=
  ⟨(update_sm _ _).mono (by decide), rfl, fun n _ => ⟨s.segments[n].symbolLost, rfl⟩, fun _ _ => rfl, fun _ _ => rfl⟩

theorem takeSample_eq (x : Sample) (s : State) : takeSample x s =
    endRuns (stampNoted x.stamp (lanesSample s.ce.table.divisor x (ceSample x s))) := rfl

/-- After the Capture Engine the lanes take a sample. -/
theorem takeSample_alone (x : Sample) (s : State) : EmitsAlone (ceSample x s) (takeSample x s) := by
  rw [takeSample_eq]
  have first := lanesSample_alone s.ce.table.divisor x (ceSample x s)
  generalize lanesSample s.ce.table.divisor x (ceSample x s) = t at first
  exact (first.trans (stampNoted_alone x.stamp t)).trans (endRuns_alone _)

/-- While the capture goes on the lanes are as the sample leaves them. -/
theorem takeSample_lanes {x : Sample} {s : State} (goes_on : (ceSample x s).ce.engine ≠ .closing) :
    (takeSample x s).lanes = (lanesSample s.ce.table.divisor x (ceSample x s)).lanes := by
  have same := (lanesSample_alone s.ce.table.divisor x (ceSample x s)).ce
  rw [takeSample_eq]
  generalize lanesSample s.ce.table.divisor x (ceSample x s) = t at same ⊢
  rw [← same] at goes_on
  rw [endRuns, if_neg (by rw [stampNoted_ce]; exact goes_on), stampNoted_lanes]

theorem takeSample_idle {x : Sample} {s : State} (closes : (ceSample x s).ce.engine = .closing) (l : Fin 4) :
    (takeSample x s).lanes[l].mode = .idle := by
  have same := (lanesSample_alone s.ce.table.divisor x (ceSample x s)).ce
  rw [takeSample_eq]
  generalize lanesSample s.ce.table.divisor x (ceSample x s) = t at same ⊢
  rw [← same] at closes
  exact endRuns_closing (by rw [stampNoted_ce]; exact closes) l

theorem LanesGiven.of_same {period : Nat} {z : Sample} {s t u v : State} (given : LanesGiven period z u v)
    (before : u.lanes = s.lanes) (table : u.laneTable = s.laneTable) (after : t.lanes = v.lanes) :
    LanesGiven period z s t := by
  unfold LanesGiven at given ⊢
  rw [← before, ← table, after]
  exact given

end Sys2Proof.Machine
end

section
/-! SUPPORT. The compressor (R20 to R27, R38): records pushed with room, samples handled, and the sample that the
sampler takes. -/

namespace Sys2Proof.Machine

/-! ### Records pushed with room (R24) -/

/-- The part with records pushed into the write queue. -/
def pushed (rs : List Record) (s : State) : State :=
  { s with ce := { s.ce with
      queue := s.ce.queue ++ rs, lastValue := (rs.getLast?.map (·.value)).getD s.ce.lastValue } }

/-- The slots that a record may use (R24). -/
def slotsOf (r : Record) : Nat := if r.triggerPoint then 512 else 510

/-- There is a slot for every one of some records. -/
def Fits (s : State) (rs : List Record) : Prop :=
  ∀ i (inside : i < rs.length), s.ce.queue.length + i < slotsOf rs[i]

theorem Fits.one {s : State} {r : Record} (room : s.ce.queue.length < slotsOf r) : Fits s [r] := fun i inside => by
  have first : i = 0 := by
    rw [List.length_singleton] at inside
    omega
  subst first
  exact room

theorem Fits.of_normal {s : State} {rs : List Record} (room : s.ce.queue.length + rs.length ≤ 510) : Fits s rs :=
  fun i inside => by
    unfold slotsOf
    split <;> omega

theorem Fits.none (s : State) : Fits s [] := fun _ inside => absurd inside (Nat.not_lt_zero _)

section

variable {s : State} {r : Record} {start : Time}

theorem pushRecord_room (captures : capturing s = true) (fresh : s.ce.episode = none)
    (room : s.ce.queue.length < slotsOf r) : pushRecord (start, r) s = pushed [r] s := by
  unfold slotsOf at room
  rw [pushRecord, if_pos captures]
  split
  · next trigger =>
    rw [if_pos (show r.triggerPoint = true from trigger)] at room
    unfold pushTrigger
    rw [fresh]
    dsimp only [Option.map_none, Option.toList_none, List.nil_append, List.length_singleton]
    rw [if_pos (show s.ce.queue.length + 1 ≤ Config.queueSlots from room), ← fresh]
    rfl
  · next normal =>
    rw [if_neg (show ¬r.triggerPoint = true from normal)] at room
    exact if_pos ⟨by rw [fresh]; rfl, room⟩

theorem pushed_nil : pushed [] s = s := by
  unfold pushed
  rw [List.append_nil]
  rfl

theorem pushed_cons (rs : List Record) : pushed rs (pushed [r] s) = pushed (r :: rs) s := by
  unfold pushed
  dsimp only
  rw [List.append_assoc]
  cases rs <;> rfl

theorem pushRecords_fits {ps : List (Time × Record)} (captures : capturing s = true) (fresh : s.ce.episode = none)
    (room : Fits s (ps.map (·.2))) : pushRecords ps s = pushed (ps.map (·.2)) s := by
  induction ps generalizing s with
  | nil => exact pushed_nil.symm
  | cons p ps ih =>
    have first : s.ce.queue.length < slotsOf p.2 := room 0 (Nat.succ_pos _)
    have step : pushRecords (p :: ps) s = pushRecords ps (pushed [p.2] s) :=
      congrArg (pushRecords ps) (pushRecord_room captures fresh first)
    rw [step, ih (s := pushed [p.2] s) captures fresh fun i inside => ?_, pushed_cons]
    · rfl
    · have next := room (i + 1) (Nat.succ_lt_succ inside)
      have longer : (pushed [p.2] s).ce.queue.length = s.ce.queue.length + 1 := List.length_append
      rw [longer]
      simp only [List.map_cons, List.getElem_cons_succ] at next
      omega

end

/-! ### Samples handled (R21 to R23) -/

/-- The part after a sample handled: the records it closes pushed, and a record open. -/
def handledWith (x : Sample) (rs : List Record) (o : OpenRecord) (s : State) : State :=
  { s with ce := { s.ce with
      queue := s.ce.queue ++ rs, lastValue := (rs.getLast?.map (·.value)).getD s.ce.lastValue
      openRecord := some o, handled := s.ce.handled + 1, previous := some x.levels } }

section

variable {s : State} {x : Sample} {o : OpenRecord}

theorem openRecordAt_captures (trigger : Bool) (captures : capturing s = true) :
    openRecordAt trigger x s = handledWith x [] (openAt s trigger x) s := by
  unfold handledWith
  rw [openRecordAt, if_pos captures, List.append_nil]
  rfl

theorem openRecordAt_pushed (trigger : Bool) {rs : List Record} (captures : capturing s = true) :
    openRecordAt trigger x (pushed rs s) = handledWith x rs (openAt s trigger x) s :=
  if_pos (by exact captures)

/-- The first sample of a segment starts it (R21). -/
theorem handleSample_first (none_open : s.ce.openRecord = none) (captures : capturing (noteStart x.stamp s) = true) :
    handleSample x s = handledWith x [] (openAt (noteStart x.stamp s) false x) (noteStart x.stamp s) := by
  unfold handleSample
  rw [none_open]
  exact openRecordAt_captures false captures

/-- In timing capture a sample of the open record's value extends it, split at the largest duration (R22, R23). -/
theorem handleSample_same (record : s.ce.openRecord = some o) (timing : s.ce.table.mode = .timing)
    (same : o.value = x.levels) (captures : capturing s = true) (fresh : s.ce.episode = none)
    (room : Fits s ((splitAt x.stamp o).1.map (·.2))) :
    handleSample x s = handledWith x ((splitAt x.stamp o).1.map (·.2)) (splitAt x.stamp o).2 s := by
  unfold handleSample
  rw [record]
  dsimp only
  rw [if_pos ⟨timing, same⟩, pushRecords_fits captures fresh room]
  exact if_pos (by exact captures)

/-- Any other sample closes the open record and opens its own (R22). -/
theorem handleSample_other (record : s.ce.openRecord = some o)
    (other : ¬(s.ce.table.mode = .timing ∧ o.value = x.levels)) (captures : capturing s = true)
    (fresh : s.ce.episode = none) (room : Fits s ((closeAt x.stamp o).map (·.2))) :
    handleSample x s = handledWith x ((closeAt x.stamp o).map (·.2)) (openAt s false x) s := by
  unfold handleSample
  rw [record]
  dsimp only
  rw [if_neg other, pushRecords_fits captures fresh room]
  exact openRecordAt_pushed false captures

end

/-! ### An open record split at the largest duration (R23) -/

/-- What stays open after a number of splits, each of a number of ticks. -/
def splitRest (ticks n : Nat) (o : OpenRecord) : OpenRecord :=
  { value := o.value, start := o.start + BitVec.ofNat 48 (n * ticks), triggerPoint := false, continuation := true
    loop := o.loop }

section

variable {ticks : Nat} (largest : Config.maxDuration = ticks) (o : OpenRecord)

include largest

theorem continuationOf_eq : continuationOf o = { value := o.value, start := addTicks o.start ticks, triggerPoint := false
                                                 continuation := true, loop := o.loop } := by
  subst largest
  rfl

theorem splitRecord_succ (n : Nat) : splitRecord (n + 1) o =
    ((o.start, closedRecord o ticks) :: (splitRecord n (continuationOf o)).1, (splitRecord n (continuationOf o)).2) := by
  subst largest
  rfl

theorem splitRecord_records (n : Nat) : (splitRecord n o).1.map (·.2) = (List.range n).map fun i => ({
    value := o.value, duration := ticks, triggerPoint := o.triggerPoint && i == 0
    continuation := o.continuation || i != 0, gap := false, loop := o.loop } : Record) := by
  induction n generalizing o with
  | zero => rfl
  | succ n ih =>
    rw [splitRecord_succ largest, List.map_cons, ih, continuationOf_eq largest, List.range_succ_eq_map, List.map_cons,
      List.map_map]
    simp [closedRecord, Function.comp_def]

theorem splitRecord_rest (n : Nat) (some_split : 1 ≤ n) : (splitRecord n o).2 = splitRest ticks n o := by
  induction n generalizing o with
  | zero => exact absurd some_split (Nat.not_lt_zero 0)
  | succ n ih =>
    rw [splitRecord_succ largest]
    dsimp only
    unfold splitRest
    rw [stamp_later]
    cases n with
    | zero =>
      rw [splitRecord, continuationOf_eq largest, Nat.zero_mul]
      simp
    | succ n => rw [ih _ (Nat.succ_pos n), continuationOf_eq largest, splitRest]

/-- The number of splits before a time (R23). -/
theorem splitCount_eq {t : Time} {n : Nat} (past : n * ticks < elapsed t o.start)
    (within : elapsed t o.start ≤ (n + 1) * ticks) : splitCount t o = n := by
  rw [splitCount, largest]
  exact Nat.div_eq_of_lt_le (by omega) (by omega)

omit largest in
theorem elapsed_splitRest {t : Time} {n : Nat} (past : n * ticks < elapsed t o.start) :
    elapsed t (splitRest ticks n o).start = elapsed t o.start - n * ticks := by
  have bound : elapsed t o.start < 2 ^ 48 := (t - o.start).isLt
  have small : (BitVec.ofNat 48 (n * ticks)).toNat = n * ticks := by
    rw [BitVec.toNat_ofNat]
    exact Nat.mod_eq_of_lt (by omega)
  unfold elapsed at past ⊢
  unfold splitRest
  dsimp only
  generalize BitVec.ofNat 48 (n * ticks) = k at small ⊢
  rw [← small] at past ⊢
  bv_omega

end

/-! ### The sample that the sampler takes (R11, R12, R20) -/

/-- The sample of this tick. -/
def sampleHere (s : State) : Sample := { stamp := s.time, levels := sampleLevels s }

/-- A sample is taken at an examination: always in timing capture, and at a qualifying edge in state capture. -/
def Takes (s : State) : Prop := s.ce.table.mode = .timing ∨ ∃ old, s.ce.clock = some old ∧
  qualifies s.ce.table.clockEdge old ((sampleLevels s).getLsbD s.ce.table.clockChannel) = true

/-- The part whose sampler has moved on, with one sample more taken. -/
def takenOne (levels : Word) (s : State) : State :=
  { s with ce := { s.ce with
      nextTick := addTicks s.ce.nextTick (samplerStep s.ce.table)
      clock := some (levels.getLsbD s.ce.table.clockChannel), taken := s.ce.taken + 1 } }

section

variable {s : State}

theorem takenOne_frame (levels : Word) (s : State) : ChangesOnly [.ce] s (takenOne levels s) := update_ce s _ rfl

theorem ceSample_held (levels : Word) (x : Sample) (held : s.ce.heldForce = true) :
    ceSample x (advanceSampler levels s) = forceAfter s.ce.staging x (takenOne levels s) := if_pos held

theorem ceSample_met (levels : Word) (x : Sample) (free : s.ce.heldForce = false) (triggered : s.ce.engine = .triggered) :
    ceSample x (advanceSampler levels s) = triggeredSample (takenOne levels s) x :=
  (if_neg (by exact Bool.eq_false_iff.1 free)).trans (if_pos triggered)

theorem ceSample_staged (levels : Word) (x : Sample) (free : s.ce.heldForce = false)
    (waits : s.ce.engine ≠ .triggered) :
    ceSample x (advanceSampler levels s) = stageSample x (takenOne levels s) :=
  (if_neg (by exact Bool.eq_false_iff.1 free)).trans (if_neg waits)

/-- The lanes take the sample while the capture goes on. -/
theorem sample_decodes {x : Sample} {c : State} {levels : Word} (engine : ceSample x (advanceSampler levels s) = c)
    (stamp : x.stamp = s.time) (lanes : c.lanes = s.lanes) (table : c.laneTable = s.laneTable)
    (running : c.ce.engine ≠ .closing) : LanesDecode x.levels s (takeSample x (advanceSampler levels s)) := by
  have goes := takeSample_lanes (x := x) (s := advanceSampler levels s)
  rw [engine] at goes
  have given := lanesSample_given s.ce.table.divisor x c
  unfold LanesDecode
  rw [← stamp]
  exact given.of_same lanes table (goes running)

/-- What follows the Capture Engine's part of a sample that brings no trigger. -/
theorem sample_after {x : Sample} {c : State} {levels : Word} (engine : ceSample x (advanceSampler levels s) = c)
    (stamp : x.stamp = s.time) (kept : ChangesOnly [.ce, .ts, .segments] s c) :
    EmitsAlone c (takeSample x (advanceSampler levels s)) ∧
      (c.ce.engine ≠ .closing → LanesDecode x.levels s (takeSample x (advanceSampler levels s))) ∧
      (c.ce.engine = .closing → ∀ l : Fin 4, (takeSample x (advanceSampler levels s)).lanes[l].mode = .idle) ∧
      ChangesOnly [.ce, .sm, .lanes, .ts, .segments, .notices] s (takeSample x (advanceSampler levels s)) := by
  have alone := takeSample_alone x (advanceSampler levels s)
  have ends := takeSample_idle (x := x) (s := advanceSampler levels s)
  rw [engine] at alone ends
  exact ⟨alone, sample_decodes engine stamp (kept .lanes (by decide)) (kept .laneTable (by decide)), ends,
    (kept.mono (by decide)).trans (alone.frame.mono (by decide))⟩

end

end Sys2Proof.Machine
end

section
/-! SUPPORT. Samples met in Triggered, and in the staging line before the trigger: the open record (R21 to R23), a
loss episode (R25, R27), and the end cut (R38, R40). -/

namespace Sys2Proof.Machine

section

variable {s : State}

/-- A sample met in Triggered: what the engine does with it, and the rest of the part with it. -/
theorem exec_sample_met (quiet : Quiet s) (triggered : s.ce.engine = .triggered) (free : s.ce.heldForce = false)
    (due : s.ce.nextTick = s.time) (takes : Takes s) :
    ∃ t, exec .sample s = .next t ∧
      EmitsAlone (triggeredSample (takenOne (sampleLevels s) s) (sampleHere s)) t ∧
      ((triggeredSample (takenOne (sampleLevels s) s) (sampleHere s)).ce.engine ≠ .closing →
        LanesDecode (sampleLevels s) s t) ∧
      ((triggeredSample (takenOne (sampleLevels s) s) (sampleHere s)).ce.engine = .closing →
        ∀ l : Fin 4, t.lanes[l].mode = .idle) ∧
      ChangesOnly [.ce, .sm, .lanes, .ts, .segments, .notices] s t := by
  have captures : capturing s = true := capturing_iff.2 (.inr (.inr triggered))
  exact ⟨_, exec_sample_take quiet due captures takes (ceSample_gen free (.inl triggered) _),
    sample_after (ceSample_met _ _ free triggered) rfl
      (((takenOne_frame _ _).mono (by decide)).trans (triggeredSample_frame _ _))⟩

/-- Before sample m + P a sample met in Triggered is handled (R38). -/
theorem triggeredSample_handles (triggered : s.ce.engine = .triggered) (goes_on : s.ce.endIndex ≠ some s.ce.handled)
    (x : Sample) : triggeredSample s x = handleSample x s :=
  (if_pos triggered).trans (if_neg goes_on)

/-- Sample m + P makes the end cut (R38). -/
theorem triggeredSample_cuts (triggered : s.ce.engine = .triggered) (last : s.ce.endIndex = some s.ce.handled)
    (x : Sample) : triggeredSample s x = endCut .postComplete x.stamp s :=
  (if_pos triggered).trans (if_pos last)

end

/-- Settles O20: the end cut. -/
theorem endCutEntersClosing : Obligations.EndCutEntersClosing := by
  intro s o quiet triggered free due timing record some_tick within last fresh
  obtain ⟨t, step, alone, -, ends, frame⟩ := exec_sample_met quiet triggered free due (.inl timing)
  have cuts : triggeredSample (takenOne (sampleLevels s) s) (sampleHere s) =
      enterClosing .postComplete s.time [closedRecord o (elapsed s.time o.start)] (takenOne (sampleLevels s) s) := by
    rw [triggeredSample_cuts (s := takenOne (sampleLevels s) s) triggered last]
    have cut : cutRecords s.time o = [closedRecord o (elapsed s.time o.start)] := by
      have kept : (closedRecord o (elapsed s.time o.start)).duration ≠ 0 := by
        show elapsed s.time o.start ≠ 0
        omega
      simp [cutRecords, (closeAt_within s.time o within).2, kept]
    have episode : (takenOne (sampleLevels s) s).ce.episode = none := fresh
    have opened : (takenOne (sampleLevels s) s).ce.openRecord = some o := record
    unfold endCut
    rw [episode, opened]
    dsimp only
    rw [show (sampleHere s).stamp = s.time from rfl, cut]
    rfl
  rw [cuts] at alone ends
  refine ⟨t, step, ?_, ?_, ?_, ?_, ?_, ?_, ends rfl, frame⟩ <;> rw [alone.ce, enterClosing_eq]
  · rfl
  · exact feedQueue_append _ _

/-! ### A record that is lost (R25, R27) -/

/-- The episode that a record lost in it opens or extends. -/
def lostInto (start : Time) (ticks : Nat) (s : State) : Episode :=
  match s.ce.episode with
  | some e => { e with lost := e.lost + ticks }
  | none => { value := s.ce.lastValue, lost := ticks, start := start }

section

variable {s : State} {x : Sample} {o : OpenRecord} {r : Record} {start : Time}

theorem loseRecord_eq (start : Time) (r : Record) (s : State) : loseRecord start r s =
    if 16777215 ≤ (lostInto start r.duration s).lost then stall (lostInto start r.duration s) s
    else { s with ce.episode := some (lostInto start r.duration s) } := by
  unfold loseRecord lostInto
  cases s.ce.episode <;> rfl

/-- A normal record finds no slot while an episode is open, or with the normal slots taken (R24, R26). -/
theorem pushRecord_lost (captures : capturing s = true) (normal : r.triggerPoint = false)
    (no_slot : s.ce.episode.isSome ∨ 510 ≤ s.ce.queue.length) : pushRecord (start, r) s = loseRecord start r s := by
  rw [pushRecord, if_pos captures, if_neg (Bool.eq_false_iff.1 normal)]
  refine if_neg fun slot => ?_
  rcases no_slot with lost | full
  · rw [Option.isNone_iff_eq_none.1 slot.1] at lost
    cases lost
  · exact absurd slot.2 (not_lt.2 full)

/-- A sample that closes a record without a slot: the capture goes on without the record, or ends Stalled. -/
theorem handleSample_loses (record : s.ce.openRecord = some o)
    (other : ¬(s.ce.table.mode = .timing ∧ o.value = x.levels)) (captures : capturing s = true)
    (within : elapsed x.stamp o.start ≤ 16777215) (normal : o.triggerPoint = false)
    (no_slot : s.ce.episode.isSome ∨ 510 ≤ s.ce.queue.length) :
    handleSample x s = openRecordAt false x (loseRecord o.start (closedRecord o (elapsed x.stamp o.start)) s) := by
  unfold handleSample
  rw [record]
  dsimp only
  rw [if_neg other, (closeAt_within _ _ within).2]
  exact congrArg (openRecordAt false x) (pushRecord_lost captures normal no_slot)

end

/-- Settles O19: a record without a slot. -/
theorem lostRecordOpensOrExtendsAnEpisode : Obligations.LostRecordOpensOrExtendsAnEpisode := by
  intro s o quiet triggered free due timing record within goes_on normal other no_slot
  obtain ⟨t, step, alone, -, -, frame⟩ := exec_sample_met quiet triggered free due (.inl timing)
  refine ⟨t, step, fun e he => ?_, frame⟩
  have loses : triggeredSample (takenOne (sampleLevels s) s) (sampleHere s) = openRecordAt false (sampleHere s)
      (loseRecord o.start (closedRecord o (elapsed s.time o.start)) (takenOne (sampleLevels s) s)) := by
    rw [triggeredSample_handles (s := takenOne (sampleLevels s) s) triggered goes_on]
    exact handleSample_loses (s := takenOne (sampleLevels s) s) record (fun same => other same.2)
      (capturing_iff.2 (.inr (.inr triggered))) within normal no_slot
  have episode : lostInto o.start (elapsed s.time o.start) (takenOne (sampleLevels s) s) = e := by
    have same : (takenOne (sampleLevels s) s).ce.episode = s.ce.episode := rfl
    rw [he, lostInto, same]
    cases s.ce.episode <;> rfl
  rw [loseRecord_eq, show (closedRecord o (elapsed s.time o.start)).duration = elapsed s.time o.start from rfl,
    episode] at loses
  refine ⟨fun small => ?_, fun large => ?_⟩
  · have captures : capturing { takenOne (sampleLevels s) s with ce.episode := some e } = true :=
      capturing_iff.2 (.inr (.inr triggered))
    rw [if_neg (not_le.2 small), openRecordAt_captures false captures] at loses
    rw [loses] at alone
    refine ⟨?_, ?_, ?_, ?_⟩ <;> rw [alone.ce]
    · exact triggered
    · rfl
    · exact List.append_nil _
    · rfl
  · have ended : capturing (stall e (takenOne (sampleLevels s) s)) ≠ true := Bool.false_ne_true
    rw [if_pos large, openRecordAt, if_neg ended, stall, enterClosing_eq] at loses
    rw [loses] at alone
    refine ⟨?_, ?_, ?_, ?_, ?_, ?_⟩ <;> rw [alone.ce]
    · rfl
    · exact feedQueue_append _ _

end Sys2Proof.Machine
end

section
/-! SUPPORT. Samples handled in timing and in state capture, with records split at the largest duration, and from the
staging line before the trigger (R20 to R23, R34, R63). -/

namespace Sys2Proof.Machine

section

variable {s : State}

/-- A sample met in Triggered that is handled, by the records it closes and the record it leaves open. -/
theorem exec_sample_handles {rs : List Record} {o : OpenRecord} (quiet : Quiet s) (triggered : s.ce.engine = .triggered)
    (free : s.ce.heldForce = false) (due : s.ce.nextTick = s.time) (takes : Takes s)
    (goes_on : s.ce.endIndex ≠ some s.ce.handled)
    (handles : handleSample (sampleHere s) (takenOne (sampleLevels s) s) =
      handledWith (sampleHere s) rs o (takenOne (sampleLevels s) s)) :
    ∃ t, exec .sample s = .next t ∧ t.ce.engine = .triggered ∧ t.ce.handled = s.ce.handled + 1 ∧
      t.ce.episode = s.ce.episode ∧ t.ce.queue = s.ce.queue ++ rs ∧ t.ce.openRecord = some o ∧
      LanesDecode (sampleLevels s) s t ∧ ChangesOnly [.ce, .sm, .lanes, .ts, .segments, .notices] s t := by
  obtain ⟨t, step, alone, decodes, -, frame⟩ := exec_sample_met quiet triggered free due takes
  rw [triggeredSample_handles (s := takenOne (sampleLevels s) s) triggered goes_on, handles] at alone decodes
  have running : (handledWith (sampleHere s) rs o (takenOne (sampleLevels s) s)).ce.engine = .triggered := triggered
  refine ⟨t, step, ?_, ?_, ?_, ?_, ?_, decodes (by rw [running]; decide), frame⟩ <;> rw [alone.ce]
  · exact running
  all_goals rfl

/-- The sample of the sampler that closes the open record. -/
theorem handles_other {o : OpenRecord} (captures : capturing s = true) (record : s.ce.openRecord = some o)
    (other : s.ce.table.mode = .state ∨ o.value ≠ sampleLevels s) (fresh : s.ce.episode = none)
    (room : Fits s ((closeAt s.time o).map (·.2))) :
    handleSample (sampleHere s) (takenOne (sampleLevels s) s) =
      handledWith (sampleHere s) ((closeAt s.time o).map (·.2)) (openAt s false (sampleHere s))
        (takenOne (sampleLevels s) s) := by
  refine handleSample_other (s := takenOne (sampleLevels s) s) record (fun ⟨timing, same⟩ => ?_) captures fresh room
  rcases other with state | different
  · rw [show s.ce.table.mode = .timing from timing] at state
    cases state
  · exact different same

/-- The sample of the sampler that extends the open record. -/
theorem handles_same {o : OpenRecord} (captures : capturing s = true) (record : s.ce.openRecord = some o)
    (timing : s.ce.table.mode = .timing) (same : o.value = sampleLevels s) (fresh : s.ce.episode = none)
    (room : Fits s ((splitAt s.time o).1.map (·.2))) :
    handleSample (sampleHere s) (takenOne (sampleLevels s) s) =
      handledWith (sampleHere s) ((splitAt s.time o).1.map (·.2)) (splitAt s.time o).2
        (takenOne (sampleLevels s) s) :=
  handleSample_same (s := takenOne (sampleLevels s) s) record timing same captures fresh room

end

/-! ### Samples handled from the staging line (R20, R34, R63) -/

/-- What the handling of a staged sample does before the trigger, with room for a record. -/
structure HandledOne (n : Fin 32) (m : Sample) (s c : State) : Prop where
  ts : c.ts = s.ts
  frame : ChangesOnly compressParts s c
  own : c.ce = { s.ce with
    handled := s.ce.handled + 1, previous := some m.levels, queue := c.ce.queue, lastValue := c.ce.lastValue
    openRecord := c.ce.openRecord }
  first : s.ce.openRecord = none → c.ce.queue = s.ce.queue ∧ c.segments[n].startTime = some m.stamp ∧
    c.ce.openRecord = some (openAt s false m)
  later : ∀ o, s.ce.openRecord = some o → c.segments = s.segments ∧
    (s.ce.table.mode = .timing → o.value = m.levels → c.ce.queue = s.ce.queue ∧ c.ce.openRecord = some o) ∧
    (s.ce.table.mode = .state ∨ o.value ≠ m.levels →
      c.ce.queue = s.ce.queue ++ [closedRecord o (elapsed m.stamp o.start)] ∧
      c.ce.openRecord = some (openAt s false m))

section

variable {s : State} {n : Fin 32} {m : Sample}

theorem noteStart_some (current : s.ce.segment = some n) (t : Time) :
    noteStart t s = modifySegment n (fun g => { g with startTime := some t }) s := by
  rw [noteStart, current]

theorem handleSample_one (captures : capturing s = true) (current : s.ce.segment = some n) (fresh : s.ce.episode = none)
    (within : ∀ o, s.ce.openRecord = some o → o.triggerPoint = false ∧ elapsed m.stamp o.start ≤ 16777215)
    (room : s.ce.queue.length < 510) : HandledOne n m s (handleSample m s) := by
  have frame := handleSample_frame m s
  cases record : s.ce.openRecord with
  | none =>
    have handled := handleSample_first (x := m) record (by rw [noteStart_some current]; exact captures)
    rw [noteStart_some current] at handled
    rw [handled] at frame ⊢
    refine ⟨rfl, frame, rfl, fun _ => ⟨List.append_nil _, ?_, rfl⟩, fun o some_open => ?_⟩
    · exact congrArg SegmentStatus.startTime
        ((modifySegment_segment n n (fun g => { g with startTime := some m.stamp }) s).trans (if_pos rfl))
    · rw [record] at some_open
      cases some_open
  | some o =>
    obtain ⟨normal, short⟩ := within o record
    obtain ⟨split, closed⟩ := closeAt_within m.stamp o short
    by_cases same : s.ce.table.mode = .timing ∧ o.value = m.levels
    · have handled := handleSample_same record same.1 same.2 captures fresh (by rw [split]; exact .none s)
      rw [split] at handled
      rw [handled] at frame ⊢
      refine ⟨rfl, frame, rfl, fun none_open => ?_, fun p some_open => ?_⟩
      · rw [record] at none_open
        cases none_open
      · rw [record] at some_open
        cases some_open
        refine ⟨rfl, fun _ _ => ⟨List.append_nil _, rfl⟩, fun other => ?_⟩
        rcases other with state | different
        · rw [same.1] at state
          cases state
        · exact absurd same.2 different
    · have free : s.ce.queue.length < slotsOf (closedRecord o (elapsed m.stamp o.start)) := by
        unfold slotsOf
        split <;> omega
      have handled := handleSample_other record same captures fresh (by rw [closed]; exact .one free)
      rw [closed] at handled
      rw [handled] at frame ⊢
      refine ⟨rfl, frame, rfl, fun none_open => ?_, fun p some_open => ?_⟩
      · rw [record] at none_open
        cases none_open
      · rw [record] at some_open
        cases some_open
        exact ⟨rfl, fun timing equal => absurd ⟨timing, equal⟩ same, fun _ => ⟨rfl, rfl⟩⟩

end

/-- The part with another staging line. -/
def withLine (line : List Sample) (s : State) : State := { s with ce := { s.ce with staging := line } }

/-- The part with another sequencer. -/
def withTs (ts : Ts) (s : State) : State := { s with ts := ts }

section

variable {s : State} {m q x : Sample} {rest : List Sample}

/-- A sample that enters a full staging line has the oldest one handled (R20). -/
theorem stageSample_full (line : s.ce.staging = m :: q :: rest) (full : rest.length = 14) :
    stageSample x s = handleStaged m q (withLine (q :: rest ++ [x]) s) := by
  have long : Config.stagingDepth < (s.ce.staging ++ [x]).length := by
    rw [line, List.length_append, List.length_cons, List.length_cons, full, List.length_singleton]
    decide
  unfold stageSample
  dsimp only
  rw [if_pos long, line]
  rfl

/-- With the TS Off the symbols pass, and the sample is handled (R34, R65). -/
theorem handleStaged_off (off : s.ts.run = .off) :
    handleStaged m q s = checkPreFill (handleSample m (withTs (passSymbols q.stamp s.ts) s)) :=
  if_neg (by rw [off]; decide)

/-- With the TS Running the sample is evaluated, and handled where no stage fires (R63, R74). -/
theorem handleStaged_running (running : s.ts.run = .running) (quiet : (evaluate s.ts (presentedAt s m q)).2 = none) :
    handleStaged m q s = handleSample m (withTs (evaluate s.ts (presentedAt s m q)).1 s) := by
  unfold handleStaged
  dsimp only
  rw [if_pos running, quiet]
  rfl

theorem withTs_frame (ts : Ts) (s : State) (tables : ts.terms = s.ts.terms ∧ ts.stages = s.ts.stages ∧
    ts.counterTable = s.ts.counterTable) : ChangesOnly [.ts] s (withTs ts s) := update_ts s _ tables

/-- What the handling of the oldest staged sample changes where no stage fires. -/
theorem handleStaged_quiet_frame (quiet : s.ts.run = .running → (evaluate s.ts (presentedAt s m q)).2 = none) :
    ChangesOnly compressParts s (handleStaged m q s) := by
  by_cases running : s.ts.run = .running
  · rw [handleStaged_running running (quiet running)]
    exact ((withTs_frame _ _ (evaluate_tables _ _)).mono (by decide)).trans (handleSample_frame _ _)
  · rw [show handleStaged m q s = checkPreFill (handleSample m (withTs (passSymbols q.stamp s.ts) s)) from
      if_neg running]
    exact (((withTs_frame _ _ (passSymbols_tables _ _)).mono (by decide)).trans (handleSample_frame _ _)).trans
      (checkPreFill_frame _)

/-- The levels of a sample whose evaluation fires no stage are those of the pads: it changes no output. -/
theorem ceSample_staged_gen (free : s.ce.heldForce = false) (waits : s.ce.engine ≠ .triggered)
    (line : s.ce.staging = m :: q :: rest) (full : rest.length = 14)
    (quiet : s.ts.run = .running → (evaluate s.ts (presentedAt s m q)).2 = none) : (ceSample x s).gen = s.gen := by
  have staged : ceSample x s = stageSample x { s with ce := { s.ce with taken := s.ce.taken + 1 } } :=
    (if_neg (by exact Bool.eq_false_iff.1 free)).trans (if_neg waits)
  rw [staged, stageSample_full (s := { s with ce := { s.ce with taken := s.ce.taken + 1 } }) line full]
  have frame := handleStaged_quiet_frame (m := m) (q := q)
    (s := withLine (q :: rest ++ [x]) { s with ce := { s.ce with taken := s.ce.taken + 1 } }) quiet
  exact (same_gen frame (by decide) (by decide) (by decide)).trans rfl

theorem passSymbols_off {ts : Ts} (off : ts.run = .off) (next : Time) :
    passSymbols next ts = { ts with waiting := (passSymbols next ts).waiting } := by
  unfold passSymbols
  rw [if_pos off]

/-- PreFill goes on, or ends with the sample that completes F (R34). -/
theorem checkPreFill_eq (s : State) : checkPreFill s =
    if s.ce.engine = .preFill ∧ s.ce.preFill ≤ s.ce.handled then
      { s with ce.engine := .armed, ts := runTs s.ts } else s := rfl

end

/-- The part whose sampler has moved on, with its sample at the end of the staging line and the oldest out of it. -/
def lineMoved (q : Sample) (rest : List Sample) (s : State) : State :=
  withLine (q :: rest ++ [sampleHere s]) (takenOne (sampleLevels s) s)

theorem handleSample_lineMoved {s : State} {n : Fin 32} {m q : Sample} {rest : List Sample} {ts : Ts}
    (captures : capturing s = true) (current : s.ce.segment = some n) (fresh : s.ce.episode = none)
    (within : ∀ o, s.ce.openRecord = some o → o.triggerPoint = false ∧ elapsed m.stamp o.start ≤ 16777215)
    (room : s.ce.queue.length < 510) :
    HandledOne n m (withTs ts (lineMoved q rest s)) (handleSample m (withTs ts (lineMoved q rest s))) :=
  handleSample_one captures current fresh within room

/-- What a sample taken with a full staging line leaves in the engine and in the segment being filled. -/
theorem HandledOne.effects {s h c t : State} {n : Fin 32} {m q : Sample} {rest : List Sample} {ts : Ts}
    (one : HandledOne n m (withTs ts (lineMoved q rest s)) h) (ce : c.ce = { h.ce with engine := c.ce.engine })
    (segments : c.segments = h.segments) (alone : EmitsAlone c t) (current : s.ce.segment = some n) :
    t.ce.staging = q :: rest ++ [sampleHere s] ∧ t.ce.taken = s.ce.taken + 1 ∧ t.ce.handled = s.ce.handled + 1 ∧
      t.ce.previous = some m.levels ∧ t.ce.episode = s.ce.episode ∧
      (s.ce.openRecord = none → t.ce.queue = s.ce.queue ∧ t.segments[n].startTime = some m.stamp ∧
        t.ce.openRecord = some (openAt s false m)) ∧
      ∀ o, s.ce.openRecord = some o → t.segments[n].startTime = s.segments[n].startTime ∧
        (s.ce.table.mode = .timing → o.value = m.levels → t.ce.queue = s.ce.queue ∧ t.ce.openRecord = some o) ∧
        (s.ce.table.mode = .state ∨ o.value ≠ m.levels →
          t.ce.queue = s.ce.queue ++ [closedRecord o (elapsed m.stamp o.start)] ∧
          t.ce.openRecord = some (openAt s false m)) := by
  have own := one.own
  have in_segment : c.ce.segment = some n := by
    rw [ce, own]
    exact current
  obtain ⟨lost, started⟩ := alone.current n in_segment
  have start : t.segments[n].startTime = h.segments[n].startTime := by rw [started, segments]
  have queue : t.ce.queue = h.ce.queue := by rw [alone.ce, ce]
  have opened : t.ce.openRecord = h.ce.openRecord := by rw [alone.ce, ce]
  refine ⟨?_, ?_, ?_, ?_, ?_, fun none_open => ?_, fun o some_open => ?_⟩
  · rw [alone.ce, ce, own]
    rfl
  · rw [alone.ce, ce, own]
    rfl
  · rw [alone.ce, ce, own]
    rfl
  · rw [alone.ce, ce, own]
  · rw [alone.ce, ce, own]
    rfl
  · rw [start, queue, opened]
    exact one.first none_open
  · obtain ⟨kept, same, other⟩ := one.later o some_open
    rw [start, queue, opened, kept]
    exact ⟨rfl, same, other⟩

/-- The oldest staged sample handled before the trigger, where no stage fires: in PreFill with the TS Off, until F
samples are handled, and in Armed with it Running. -/
theorem handleStaged_lineMoved {s c : State} {n : Fin 32} {m q : Sample} {rest : List Sample}
    (captures : capturing s = true) (current : s.ce.segment = some n) (fresh : s.ce.episode = none)
    (within : ∀ o, s.ce.openRecord = some o → o.triggerPoint = false ∧ elapsed m.stamp o.start ≤ 16777215)
    (room : s.ce.queue.length < 510)
    (before : s.ce.engine = .preFill ∧ s.ts.run = .off ∨ s.ce.engine = .armed ∧ s.ts.run = .running ∧
      (evaluate s.ts (presentedAt s m q)).2 = none)
    (handled : handleStaged m q (lineMoved q rest s) = c) : ∃ ts h,
      HandledOne n m (withTs ts (lineMoved q rest s)) h ∧ c.ce = { h.ce with engine := c.ce.engine } ∧
      c.segments = h.segments ∧
      (s.ce.engine = .armed → c.ce.engine = .armed ∧ c.ts = (evaluate s.ts (presentedAt s m q)).1) ∧
      c.ce.engine ≠ .closing ∧
      (s.ce.engine = .preFill → s.ce.handled + 1 < s.ce.preFill →
        c.ce.engine = .preFill ∧ c.ts = { s.ts with waiting := c.ts.waiting }) ∧
      (s.ce.engine = .preFill → s.ce.preFill ≤ s.ce.handled + 1 → c.ce.engine = .armed ∧
        c.ts = { s.ts with run := .running, stage := some 0, primary := 0, secondary := 0
                           waiting := c.ts.waiting }) := by
  have one (ts : Ts) := handleSample_lineMoved (q := q) (rest := rest) (ts := ts) captures current fresh within room
  rcases before with ⟨preFill, off⟩ | ⟨armed, running, none_fires⟩
  · have handles := (handleStaged_off (m := m) (q := q) (s := lineMoved q rest s) off).symm.trans handled
    have one := one (passSymbols q.stamp s.ts)
    have one_ts : (handleSample m (withTs (passSymbols q.stamp s.ts) (lineMoved q rest s))).ts =
        { s.ts with waiting := (passSymbols q.stamp s.ts).waiting } := one.ts.trans (passSymbols_off off _)
    refine ⟨_, _, one, ?_⟩
    change checkPreFill (handleSample m (withTs (passSymbols q.stamp s.ts) (lineMoved q rest s))) = c at handles
    generalize handleSample m (withTs (passSymbols q.stamp s.ts) (lineMoved q rest s)) = h at one one_ts handles ⊢
    have engine : h.ce.engine = .preFill := by
      rw [one.own]
      exact preFill
    have target : h.ce.preFill = s.ce.preFill := by
      rw [one.own]
      rfl
    have count : h.ce.handled = s.ce.handled + 1 := by
      rw [one.own]
      rfl
    rw [checkPreFill_eq, engine, target, count] at handles
    have not_armed (armed : s.ce.engine = .armed) : False := by
      rw [preFill] at armed
      cases armed
    by_cases many : s.ce.preFill ≤ s.ce.handled + 1
    · rw [if_pos ⟨rfl, many⟩] at handles
      subst handles
      refine ⟨rfl, rfl, fun armed => (not_armed armed).elim, (by dsimp only; decide), fun _ few => absurd many (not_le.2 few),
        fun _ _ => ⟨rfl, ?_⟩⟩
      rw [one_ts]
      rfl
    · rw [if_neg fun both => many both.2] at handles
      subst handles
      exact ⟨rfl, rfl, fun armed => (not_armed armed).elim, by rw [engine]; decide,
        fun _ _ => ⟨engine, by rw [one_ts]⟩, fun _ enough => absurd enough many⟩
  · have handles := (handleStaged_running (m := m) (q := q) (s := lineMoved q rest s) running none_fires).symm.trans
      handled
    have one := one (evaluate s.ts (presentedAt s m q)).1
    refine ⟨_, _, one, ?_⟩
    change handleSample m (withTs (evaluate s.ts (presentedAt s m q)).1 (lineMoved q rest s)) = c at handles
    rw [handles] at one ⊢
    have engine : c.ce.engine = .armed := by
      rw [one.own]
      exact armed
    have not_preFill (preFill : s.ce.engine = .preFill) : False := by
      rw [armed] at preFill
      cases preFill
    exact ⟨rfl, rfl, fun _ => ⟨engine, one.ts⟩, by rw [engine]; decide,
      fun preFill _ => (not_preFill preFill).elim, fun preFill _ => (not_preFill preFill).elim⟩

/-- A sample taken with a full staging line before the trigger, where no stage fires. -/
theorem exec_sample_staged {s : State} {m q : Sample} {rest : List Sample} (quiet : Quiet s)
    (waits : s.ce.engine = .preFill ∨ s.ce.engine = .armed) (free : s.ce.heldForce = false)
    (due : s.ce.nextTick = s.time) (takes : Takes s) (line : s.ce.staging = m :: q :: rest) (full : rest.length = 14)
    (no_fire : s.ts.run = .running → (evaluate s.ts (presentedAt s m q)).2 = none) :
    ∃ t c, exec .sample s = .next t ∧
      handleStaged m q (lineMoved q rest s) = c ∧
      EmitsAlone c t ∧ (c.ce.engine ≠ .closing → LanesDecode (sampleLevels s) s t) ∧
      ChangesOnly [.ce, .sm, .lanes, .ts, .segments, .notices] s t := by
  have captures : capturing s = true := capturing_iff.2 (by rcases waits with e | e <;> simp [e])
  have not_met : s.ce.engine ≠ .triggered := by rcases waits with e | e <;> rw [e] <;> decide
  have staged : ceSample (sampleHere s) (advanceSampler (sampleLevels s) s) =
      handleStaged m q (lineMoved q rest s) := by
    rw [ceSample_staged _ _ free not_met]
    exact stageSample_full (s := takenOne (sampleLevels s) s) line full
  have kept := handleStaged_quiet_frame (m := m) (q := q)
    (s := lineMoved q rest s) no_fire
  have before : ChangesOnly [.ce] s (lineMoved q rest s) :=
    update_ce s _ rfl
  obtain ⟨alone, decodes, -, frame⟩ := sample_after staged rfl ((before.mono (by decide)).trans kept)
  exact ⟨_, _, exec_sample_take quiet due captures takes (ceSample_staged_gen free not_met line full no_fire), rfl,
    alone, decodes, frame⟩

/-- A sample met in Triggered past the largest duration: the open record is split first (R23). -/
theorem exec_sample_splits {s : State} {o : OpenRecord} {n ticks : Nat} {split : List Record}
    (largest : Config.maxDuration = ticks) (quiet : Quiet s) (triggered : s.ce.engine = .triggered)
    (free : s.ce.heldForce = false) (due : s.ce.nextTick = s.time) (takes : Takes s) (record : s.ce.openRecord = some o)
    (some_split : 1 ≤ n) (past : n * ticks < elapsed s.time o.start) (within : elapsed s.time o.start ≤ (n + 1) * ticks)
    (goes_on : s.ce.endIndex ≠ some s.ce.handled) (fresh : s.ce.episode = none)
    (room : s.ce.queue.length + n + 1 ≤ 510)
    (hsplit : split = (List.range n).map fun i => ({
      value := o.value, duration := ticks, triggerPoint := o.triggerPoint && i == 0
      continuation := o.continuation || i != 0, gap := false, loop := o.loop } : Record)) :
    ∃ t, exec .sample s = .next t ∧
      t.ce.engine = .triggered ∧ t.ce.handled = s.ce.handled + 1 ∧ t.ce.episode = none ∧
      (s.ce.table.mode = .timing → o.value = sampleLevels s →
        t.ce.queue = s.ce.queue ++ split ∧
        t.ce.openRecord = some { value := o.value, start := o.start + BitVec.ofNat 48 (n * ticks), triggerPoint := false
                                 continuation := true, loop := o.loop }) ∧
      (s.ce.table.mode = .state ∨ o.value ≠ sampleLevels s →
        t.ce.queue = s.ce.queue ++ split ++ [{
          value := o.value, duration := elapsed s.time o.start - n * ticks, triggerPoint := false, continuation := true
          gap := false, loop := o.loop }] ∧
        t.ce.openRecord = some { value := sampleLevels s, start := s.time, triggerPoint := false, continuation := false
                                 loop := s.ce.table.loop }) ∧
      LanesDecode (sampleLevels s) s t ∧ ChangesOnly [.ce, .sm, .lanes, .ts, .segments, .notices] s t := by
  have captures : capturing s = true := capturing_iff.2 (.inr (.inr triggered))
  have splits : splitAt s.time o = splitRecord n o := by rw [splitAt, splitCount_eq largest o past within]
  have records : (splitRecord n o).1.map (·.2) = split := by rw [splitRecord_records largest, hsplit]
  have rest : (splitRecord n o).2 = splitRest ticks n o := splitRecord_rest largest o n some_split
  have count : split.length = n := by rw [hsplit, List.length_map, List.length_range]
  have closed : (closeAt s.time o).map (·.2) = split ++
      [{ value := o.value, duration := elapsed s.time o.start - n * ticks, triggerPoint := false
         continuation := true, gap := false, loop := o.loop }] := by
    rw [closeAt, splits, rest, elapsed_splitRest o past, List.map_append, records]
    rfl
  by_cases same : s.ce.table.mode = .timing ∧ o.value = sampleLevels s
  · have handles := handles_same captures record same.1 same.2 fresh
      (by rw [splits, records]; exact .of_normal (by omega))
    rw [splits, records, rest] at handles
    obtain ⟨t, step, engine, handled, episode, queue, opened, decodes, frame⟩ :=
      exec_sample_handles quiet triggered free due takes goes_on handles
    refine ⟨t, step, engine, handled, episode.trans fresh, fun _ _ => ⟨queue, opened⟩, fun other => ?_, decodes, frame⟩
    rcases other with state | different
    · rw [same.1] at state
      cases state
    · exact absurd same.2 different
  · have other : s.ce.table.mode = .state ∨ o.value ≠ sampleLevels s := by
      cases mode : s.ce.table.mode with
      | timing => exact .inr fun equal => same ⟨mode, equal⟩
      | state => exact .inl rfl
    have handles := handles_other captures record other fresh (by
      rw [closed]
      refine .of_normal ?_
      rw [List.length_append, List.length_singleton, count, ← Nat.add_assoc]
      exact room)
    rw [closed] at handles
    obtain ⟨t, step, engine, handled, episode, queue, opened, decodes, frame⟩ :=
      exec_sample_handles quiet triggered free due takes goes_on handles
    exact ⟨t, step, engine, handled, episode.trans fresh, fun timing equal => absurd ⟨timing, equal⟩ same,
      fun _ => ⟨by rw [queue, List.append_assoc], opened⟩, decodes, frame⟩

/-- Settles O18: samples that extend, close and split the open record, and those handled before the trigger. -/
theorem sampleExtendsOrClosesTheOpenRecord : Obligations.SampleExtendsOrClosesTheOpenRecord := by
  refine ⟨?_, ?_, ?_, ?_⟩
  · intro s o quiet triggered free due timing record within goes_on fresh room
    have captures : capturing s = true := capturing_iff.2 (.inr (.inr triggered))
    obtain ⟨split, closed⟩ := closeAt_within s.time o within
    by_cases same : o.value = sampleLevels s
    · have handles := handles_same captures record timing same fresh (by rw [split]; exact .none s)
      rw [split] at handles
      obtain ⟨t, step, engine, handled, episode, queue, opened, decodes, frame⟩ :=
        exec_sample_handles quiet triggered free due (.inl timing) goes_on handles
      exact ⟨t, step, engine, handled, episode.trans fresh, fun _ => ⟨queue.trans (List.append_nil _), opened⟩,
        fun other => absurd same other, decodes, frame⟩
    · have handles := handles_other captures record (.inr same) fresh (by rw [closed]; exact .one room)
      rw [closed] at handles
      obtain ⟨t, step, engine, handled, episode, queue, opened, decodes, frame⟩ :=
        exec_sample_handles quiet triggered free due (.inl timing) goes_on handles
      exact ⟨t, step, engine, handled, episode.trans fresh, fun equal => absurd equal same,
        fun _ => ⟨queue, opened⟩, decodes, frame⟩
  · intro s o old quiet triggered free due state clock qualified record within goes_on fresh room
    have captures : capturing s = true := capturing_iff.2 (.inr (.inr triggered))
    obtain ⟨-, closed⟩ := closeAt_within s.time o within
    have handles := handles_other captures record (.inl state) fresh (by rw [closed]; exact .one room)
    rw [closed] at handles
    obtain ⟨t, step, engine, handled, episode, queue, opened, decodes, frame⟩ :=
      exec_sample_handles quiet triggered free due (.inr ⟨old, clock, qualified⟩) goes_on handles
    exact ⟨t, step, engine, handled, episode.trans fresh, queue, opened, decodes, frame⟩
  · intro s o n split quiet triggered free due takes record some_split past within goes_on fresh room hsplit
    exact exec_sample_splits rfl quiet triggered free due takes record some_split past within goes_on fresh room hsplit
  · intro s m q rest n quiet before free due takes current line full within fresh room
    have no_fire : s.ts.run = .running → (evaluate s.ts (presentedAt s m q)).2 = none := fun running => by
      rcases before with ⟨-, off⟩ | ⟨-, -, none_fires⟩
      · rw [running] at off
        cases off
      · exact none_fires
    have waits : s.ce.engine = .preFill ∨ s.ce.engine = .armed := by
      rcases before with ⟨preFill, -⟩ | ⟨armed, -⟩
      · exact .inl preFill
      · exact .inr armed
    have captures : capturing s = true := capturing_iff.2 (by rcases waits with e | e <;> simp [e])
    obtain ⟨t, c, step, handled, alone, decodes, frame⟩ := exec_sample_staged quiet waits free due takes line full no_fire
    obtain ⟨ts, h, one, ce, segments, armed, on, goes_on, ends⟩ :=
      handleStaged_lineMoved captures current fresh within room before handled
    obtain ⟨line, taken, handled, previous, episode, first, later⟩ := one.effects ce segments alone current
    refine ⟨t, step, line, taken, handled, previous, episode.trans fresh, first, fun o some_open => ?_, fun engine => ?_,
      fun engine few => ?_, fun engine many => ?_, decodes on, frame⟩
    · have normal := (within o some_open).1
      have effect := later o some_open
      rw [closedRecord, normal] at effect
      exact effect
    · obtain ⟨armed, evaluated⟩ := armed engine
      exact ⟨by rw [alone.ce, armed], by rw [alone.ts, evaluated]⟩
    · obtain ⟨preFill, off⟩ := goes_on engine few
      exact ⟨by rw [alone.ce, preFill], by rw [alone.ts, off]⟩
    · obtain ⟨armed, runs⟩ := ends engine many
      exact ⟨by rw [alone.ce, armed], by rw [alone.ts, runs]⟩

end Sys2Proof.Machine
end

section
/-! SUPPORT. The branches of a stage, and the counters (R72 to R78, R83). -/

namespace Sys2Proof.Machine

/-! ### Branches (R72 to R74, R83) -/

theorem conditionHolds_iff (b : Branch) (truth : Fin 16 → Bool) : conditionHolds b truth = true ↔
    b.terms ≠ [] ∧ (b.any = true → ∃ j ∈ b.terms, truth j = true) ∧
      (b.any = false → ∀ j ∈ b.terms, truth j = true) := by
  unfold conditionHolds
  rw [← List.isEmpty_eq_false_iff]
  cases b.terms.isEmpty <;> cases b.any <;> simp

/-- The occurrence count of a branch after a sample, as the condition decides it (R72). -/
theorem advanceCount_eq {b : Branch} {truth : Fin 16 → Bool} {holds : Prop} {before after : Nat}
    (condition : holds ↔ conditionHolds b truth = true) (counts : holds → after = before + 1)
    (keeps : ¬holds → after = if b.consecutive then 0 else before) :
    advanceCount b (conditionHolds b truth) before = after := by
  unfold advanceCount
  by_cases met : holds
  · rw [if_pos (condition.1 met), counts met]
  · rw [if_neg fun true_here => met (condition.2 true_here), keeps met]

theorem appendHistory_eq (h : List HistoryEntry) (e : HistoryEntry) :
    appendHistory h e = (if h.length < 16 then h else h.drop 1) ++ [e] := by
  unfold appendHistory
  split
  · next room => rw [if_pos (by exact room)]
  · next full => rw [if_neg (by exact full)]

/-- What a branch that is taken does (R74, R76, R83). -/
theorem takeBranch_spec (ts : Ts) (n : Fin 8) (second : Bool) (b : Branch) (stamp : Time) :
    ∃ u fired, takeBranch ts n second b stamp = (u, fired) ∧
      u.history = (if ts.history.length < 16 then ts.history else ts.history.drop 1) ++
        [{ stage := n, secondary := second, target := b.target, time := stamp }] ∧
      (∀ (c : Fin 2) (a : CounterAction), a = (if c = 0 then b.action0 else b.action1) →
        u.counters[c] = counterAction ts.counterTable[c] a ts.counters[c]) ∧
      match b.target with
      | .stage k => fired = none ∧ u.stage = some k ∧ u.primary = 0 ∧ u.secondary = 0 ∧ u.run = ts.run
      | .stay => fired = none ∧ u.stage = ts.stage ∧ u.primary = 0 ∧ u.secondary = 0 ∧ u.run = ts.run
      | .fire => fired = some n ∧ u.run = .fired ∧ u.stage = ts.stage ∧ u.primary = ts.primary ∧
          u.secondary = ts.secondary ∧ u.triggerTime = some stamp ∧ u.triggerCause = some (.stage n) := by
  have actions (c : Fin 2) (a : CounterAction) (own : a = if c = 0 then b.action0 else b.action1) :
      #v[counterAction ts.counterTable[0] b.action0 ts.counters[0],
        counterAction ts.counterTable[1] b.action1 ts.counters[1]][c] =
        counterAction ts.counterTable[c] a ts.counters[c] := by
    subst own
    match c with
    | 0 => rfl
    | 1 => rfl
  unfold takeBranch
  dsimp only
  cases b.target with
  | stage k => exact ⟨_, _, rfl, appendHistory_eq _ _, actions, rfl, rfl, rfl, rfl, rfl⟩
  | stay => exact ⟨_, _, rfl, appendHistory_eq _ _, actions, rfl, rfl, rfl, rfl, rfl⟩
  | fire => exact ⟨_, _, rfl, appendHistory_eq _ _, actions, rfl, rfl, rfl, rfl, rfl, rfl, rfl⟩

/-- Settles O22: the counts, the branch taken, and what it does. -/
theorem primaryBranchIsTakenBeforeSecondary : Obligations.PrimaryBranchIsTakenBeforeSecondary := by
  intro ts n truth stamp p q holds condition primary_counts primary_keeps secondary_counts secondary_keeps
  have first := advanceCount_eq ((condition _).trans (conditionHolds_iff _ truth).symm) primary_counts primary_keeps
  have second := advanceCount_eq ((condition _).trans (conditionHolds_iff _ truth).symm) secondary_counts secondary_keeps
  have step : stepBranches ts n truth stamp =
      if ts.stages[n].primary.count ≤ p then
        takeBranch { ts with primary := p, secondary := q } n false ts.stages[n].primary stamp
      else if ts.stages[n].secondary.count ≤ q then
        takeBranch { ts with primary := p, secondary := q } n true ts.stages[n].secondary stamp
      else ({ ts with primary := p, secondary := q }, none) := by
    unfold stepBranches
    dsimp only
    rw [first, second]
  rw [step]
  refine ⟨fun below few => ?_, fun secondary b taken => ?_⟩
  · rw [if_neg (not_le.2 below), if_neg (not_le.2 few)]
  · have takes : (if ts.stages[n].primary.count ≤ p then
          takeBranch { ts with primary := p, secondary := q } n false ts.stages[n].primary stamp
        else if ts.stages[n].secondary.count ≤ q then
          takeBranch { ts with primary := p, secondary := q } n true ts.stages[n].secondary stamp
        else ({ ts with primary := p, secondary := q }, none)) =
        takeBranch { ts with primary := p, secondary := q } n secondary b stamp := by
      rcases taken with ⟨rfl, rfl, reached⟩ | ⟨rfl, rfl, below, reached⟩
      · rw [if_pos reached]
      · rw [if_neg (not_le.2 below), if_pos reached]
    rw [takes]
    obtain ⟨u, fired, branch, history, counters, target⟩ :=
      takeBranch_spec { ts with primary := p, secondary := q } n secondary b stamp
    refine ⟨u, fired, branch, history, fun c a own => ?_, target⟩
    rw [counters c a own]
    refine ⟨fun idle => ?_, fun starts => ?_, fun stops => ?_⟩
    · rw [idle]
      rfl
    · rw [starts]
      rfl
    · rw [stops]
      rfl

/-! ### Counters (R77, R78) -/

section

variable {e : CounterEntry} {events : Nat} {c : CounterState}

theorem countCounter_rests (untaken : c.expiredEarly = false) (nothing : c.running = false ∨ events = 0) :
    countCounter e events c = (c, false) := by
  unfold countCounter
  rw [if_neg (Bool.eq_false_iff.1 untaken), if_neg]
  rintro ⟨running, some_events⟩
  rcases nothing with stopped | none_there
  · rw [running] at stopped
    cases stopped
  · omega

theorem countCounter_counts (untaken : c.expiredEarly = false) (running : c.running = true) (more : events < c.value) :
    countCounter e events c = ({ c with value := c.value - events }, false) := by
  unfold countCounter
  rw [if_neg (Bool.eq_false_iff.1 untaken)]
  by_cases some_events : 0 < events
  · rw [if_pos ⟨running, some_events⟩, if_neg (not_le.2 more)]
  · rw [if_neg fun both => some_events both.2, Nat.eq_zero_of_not_pos some_events]
    rfl

theorem countCounter_expires (untaken : c.expiredEarly = false) (running : c.running = true) (some_events : 1 ≤ events)
    (reached : c.value ≤ events) : countCounter e events c =
      (if e.autoReload then { c with value := e.preload } else { c with running := false, value := 0 }, true) := by
  unfold countCounter
  rw [if_neg (Bool.eq_false_iff.1 untaken), if_pos ⟨running, some_events⟩, if_pos reached]

end

/-- The multiples among the numbers of an interval, counted one by one. -/
theorem multiplesIn_eq {k : Nat} (positive : 0 < k) (a n : Nat) :
    multiplesIn k a n = ((List.range n).filter fun i => (a + i) % k == 0).length := by
  induction n with
  | zero =>
    unfold multiplesIn
    exact Nat.sub_self _
  | succ n ih =>
    have below : (a + k - 1) / k ≤ (a + n + k - 1) / k := Nat.div_le_div_right (by omega)
    have next : (a + (n + 1) + k - 1) / k = (a + n + k - 1) / k + if k ∣ a + n then 1 else 0 := by
      have moved : a + (n + 1) + k - 1 = (a + n + k - 1) + 1 := by omega
      have whole : a + n + k - 1 + 1 = a + n + k := by omega
      rw [moved, Nat.succ_div, whole]
      simp only [Nat.dvd_add_self_right]
    rw [List.range_succ, List.filter_append, List.length_append, ← ih]
    unfold multiplesIn
    rw [next]
    by_cases divides : k ∣ a + n
    · rw [if_pos divides, List.filter_cons_of_pos (by simpa using Nat.mod_eq_zero_of_dvd divides)]
      simp only [List.filter_nil, List.length_singleton]
      omega
    · rw [if_neg divides, List.filter_cons_of_neg (by simpa using fun zero => divides (Nat.dvd_of_mod_eq_zero zero))]
      simp only [List.filter_nil, List.length_nil]
      omega

/-- The events of the prescaler in a period: the tick of its clearing makes none (R8, R77). -/
theorem prescalerEvents_eq {a n : Nat} {atClear : Bool} (p : Nat) (clear : atClear = true → a = 0 ∧ n ≠ 0) :
    prescalerEvents p a n atClear =
      ((List.range n).filter fun i => (a + i) % 2 ^ p == 0 && !(atClear && i == 0)).length := by
  unfold prescalerEvents
  rw [multiplesIn_eq (Nat.two_pow_pos p)]
  cases atClear with
  | false => simp [flag]
  | true =>
    obtain ⟨rfl, some_ticks⟩ := clear rfl
    obtain ⟨n, rfl⟩ := Nat.exists_eq_succ_of_ne_zero some_ticks
    simp [List.range_succ_eq_map, List.filter_map, Function.comp_def, flag]

theorem exec_counterExpiry {s : State} {x : Presented} {ts : Ts} {i : Fin 2} (due : sampleDue s = true)
    (comes : (sampleNow (settle s)).isSome) (evaluates : dueEvaluation s = some x)
    (expires : expireEarly i s.ts x = some ts) : exec (.counterExpiry i) s = .next { s with ts := ts } := by
  change execCounterExpiry i s = _
  unfold execCounterExpiry
  rw [if_pos ⟨due, comes⟩, evaluates]
  dsimp only
  rw [expires]
  rfl

theorem expireEarly_eq {ts : Ts} {x : Presented} {i : Fin 2} {c : CounterState}
    (untaken : ts.counters[i].expiredEarly = false) (expires : countOf ts x i = (c, true)) :
    expireEarly i ts x = some { ts with counters := ts.counters.set i { c with expiredEarly := true } } := by
  unfold expireEarly
  rw [if_neg (Bool.eq_false_iff.1 untaken), expires]

/-- Settles O24: the expiry ahead of the evaluation, and the events of the sources. -/
theorem counterExpiryStopsOrReloads : Obligations.CounterExpiryStopsOrReloads := by
  constructor
  · intro i s x due comes evaluates running untaken some_events reached
    have expires : countOf s.ts x i = _ := countCounter_expires untaken running some_events reached
    have step := exec_counterExpiry due comes evaluates (expireEarly_eq untaken expires)
    refine ⟨_, step, ?_, ?_, fun j other => ?_, rfl, rfl, rfl, update_ts _ _ ⟨rfl, rfl, rfl⟩⟩
    · refine (congrArg CounterState.running ((set_getElem _ _ _ _).trans (if_pos rfl))).trans ?_
      cases s.ts.counterTable[i].autoReload
      · rfl
      · exact running
    · refine (congrArg CounterState.value ((set_getElem _ _ _ _).trans (if_pos rfl))).trans ?_
      cases s.ts.counterTable[i].autoReload <;> rfl
    · exact (set_getElem _ _ _ _).trans (if_neg other)
  · intro ts x
    refine ⟨rfl, fun p clear => ?_, fun j => ?_, fun k p seen hseen => ⟨fun edge => ?_, fun no_edge => ?_⟩, ?_⟩
    · refine prescalerEvents_eq p.val fun at_clear => ?_
      obtain ⟨same, moves⟩ := clear at_clear
      rw [same]
      refine ⟨by simp [elapsed], fun none_there => moves ?_⟩
      rw [← same] at none_there
      unfold elapsed at none_there
      bv_omega
    · rfl
    · have seen_here : edgeSeen x k p = true := (edgeSeen_iff x k p).2 (hseen.1 edge)
      simp [sourceEvents, seen_here, flag]
    · have unseen : edgeSeen x k p = false :=
        Bool.eq_false_iff.2 fun there => no_edge (hseen.2 ((edgeSeen_iff x k p).1 there))
      simp [sourceEvents, unseen, flag]
    · rintro i events rfl untaken
      exact ⟨countCounter_rests untaken, countCounter_counts untaken, countCounter_expires untaken⟩

end Sys2Proof.Machine
end

section
/-! SUPPORT. The trigger (R14, R17, R35, R36): the cut, the outputs and the notice, and what handling the samples after
it leaves. -/

namespace Sys2Proof.Machine

/-! ### The trigger at the Signal Generator (R14, R17) -/

section

variable (g : Gen) (i : Fin 2)

/-- An output in BurstOnTrigger begins its burst. -/
theorem triggerOutput_begins {g : Gen} {i : Fin 2} (waits : g.table[i].mode = .burstOnTrigger) :
    (triggerOutput g i).outputs[i] =
      { level := true, run := .bursting, ticksLeft := g.table[i].half, periodsLeft := g.table[i].burst } := by
  unfold triggerOutput
  dsimp only
  rw [if_pos waits]
  exact setOutput_self _ _ _

theorem triggerOutput_keeps {g : Gen} {i : Fin 2} (other : g.table[i].mode ≠ .burstOnTrigger) : triggerOutput g i = g :=
  if_neg other

theorem triggerOutput_other {j : Fin 2} (apart : j ≠ i) : (triggerOutput g i).outputs[j] = g.outputs[j] := by
  unfold triggerOutput
  dsimp only
  split
  · exact setOutput_other apart _ _
  · rfl

theorem triggerOutput_counter : (triggerOutput g i).loopCounter =
    if i = 0 ∧ g.table[i].mode = .burstOnTrigger ∧ g.outputs[i].level = false then g.loopCounter + 1
    else g.loopCounter := by
  unfold triggerOutput
  dsimp only
  split
  · next waits =>
    rw [setOutput_loopCounter]
    simp only [waits, true_and, and_true]
  · next other => simp only [other, false_and, and_false, if_false]

/-- A trigger begins the bursts. -/
theorem triggerGenerator_begins : BurstsBegun g (triggerGenerator g) := by
  have table := triggerOutput_table g 0
  refine ⟨(triggerOutput_table _ 1).trans table, fun i waits => ?_, fun i other => ?_, ?_⟩
  · match i with
    | 0 => exact (triggerOutput_other _ 1 (by decide)).trans (triggerOutput_begins waits)
    | 1 =>
      have begins := triggerOutput_begins (g := triggerOutput g 0) (i := 1) (by rw [table]; exact waits)
      rw [table] at begins
      exact begins
  · match i with
    | 0 => exact (triggerOutput_other _ 1 (by decide)).trans (by rw [triggerOutput_keeps other])
    | 1 =>
      have kept : triggerOutput (triggerOutput g 0) 1 = triggerOutput g 0 :=
        triggerOutput_keeps (by rw [table]; exact other)
      rw [triggerGenerator, kept]
      exact triggerOutput_other g 0 (by decide)
  · have second := triggerOutput_counter (triggerOutput g 0) 1
    have first := triggerOutput_counter g 0
    rw [if_neg (by simp)] at second
    rw [triggerGenerator, second, first]
    simp

end

/-! ### What handling samples and records does beside its records -/

/-- The capture has ended and waits for its close. -/
def Closed (s : State) : Prop := s.ce.engine = .closing ∧ s.ce.staging = [] ∧ s.ce.openRecord = none

/-- What the handling of samples keeps. -/
structure Compresses (s t : State) : Prop where
  frame : ChangesOnly compressParts s t
  segment : t.ce.segment = s.ce.segment
  stop : t.ce.stopTaken = s.ce.stopTaken
  ts : t.ts = s.ts ∨ t.ts = haltTs s.ts
  current : ∀ n, s.ce.segment = some n → ∃ start, t.segments[n] = { s.segments[n] with startTime := start }
  others : ∀ j : Fin 32, s.ce.segment ≠ some j → t.segments[j] = s.segments[j]
  outcome : capturing s = true ∨ Closed s → capturing t = true ∨ Closed t

theorem haltTs_haltTs (ts : Ts) : haltTs (haltTs ts) = haltTs ts := by
  unfold haltTs
  split
  · rfl
  · rfl

namespace Compresses

variable {s t u : State}

theorem refl (s : State) : Compresses s s :=
  ⟨.refl _ _, rfl, rfl, .inl rfl, fun n _ => ⟨s.segments[n].startTime, rfl⟩, fun _ _ => rfl, id⟩

theorem trans (h : Compresses s t) (k : Compresses t u) : Compresses s u := by
  refine ⟨h.frame.trans k.frame, k.segment.trans h.segment, k.stop.trans h.stop, ?_, fun n current => ?_,
    fun j other => ?_, fun before => k.outcome (h.outcome before)⟩
  · rcases h.ts with kept | halted
    · rw [← kept]
      exact k.ts
    · rcases k.ts with kept | again
      · exact .inr (kept.trans halted)
      · exact .inr (by rw [again, halted, haltTs_haltTs])
  · obtain ⟨start, first⟩ := h.current n current
    obtain ⟨later, second⟩ := k.current n (by rw [h.segment]; exact current)
    exact ⟨later, by rw [second, first]⟩
  · exact (k.others j (by rw [h.segment]; exact other)).trans (h.others j other)

theorem foldl {α : Type} {f : State → α → State} (step : ∀ s a, Compresses s (f s a)) (s : State) (xs : List α) :
    Compresses s (xs.foldl f s) := by
  induction xs generalizing s with
  | nil => exact refl s
  | cons a xs ih => exact (step s a).trans (ih _)

theorem ite {p : Prop} [Decidable p] (h : p → Compresses s t) (k : ¬p → Compresses s u) :
    Compresses s (if p then t else u) := by
  split
  · next holds => exact h holds
  · next fails => exact k fails

/-- The engine alone changes, and the capture goes on where it went on. -/
theorem engine (ce : Ce) (table : ce.table = s.ce.table) (segment : ce.segment = s.ce.segment)
    (stop : ce.stopTaken = s.ce.stopTaken)
    (outcome : capturing s = true ∨ Closed s → capturing { s with ce := ce } = true ∨ Closed { s with ce := ce }) :
    Compresses s { s with ce := ce } :=
  ⟨(update_ce s ce table).mono (by decide), segment, stop, .inl rfl, fun n _ => ⟨s.segments[n].startTime, rfl⟩,
    fun _ _ => rfl, outcome⟩

theorem closes (reason : EndReason) (stop : Time) (records : List Record) (s : State) :
    Compresses s (enterClosing reason stop records s) :=
  ⟨(enterClosing_frame _ _ _ _).mono (by decide), rfl, rfl, .inr rfl, fun n _ => ⟨s.segments[n].startTime, rfl⟩,
    fun _ _ => rfl, fun _ => .inr ⟨rfl, rfl, rfl⟩⟩

theorem lost (start : Time) (r : Record) (s : State) (captures : capturing s = true) :
    Compresses s (loseRecord start r s) :=
  .ite (fun _ => closes _ _ _ _) fun _ => engine _ rfl rfl rfl fun _ => .inl captures

theorem record (p : Time × Record) (s : State) : Compresses s (pushRecord p s) := by
  refine .ite (fun captures => .ite (fun _ => ?_) fun _ => ?_) fun _ => refl s
  · exact .ite (fun _ => engine _ rfl rfl rfl fun _ => .inl captures) fun _ => lost _ _ _ captures
  · exact .ite (fun _ => engine _ rfl rfl rfl fun _ => .inl captures) fun _ => lost _ _ _ captures

theorem records (ps : List (Time × Record)) (s : State) : Compresses s (pushRecords ps s) :=
  foldl (fun s p => record p s) s ps

theorem started (t : Time) (s : State) : Compresses s (noteStart t s) := by
  unfold noteStart
  split
  · next n current =>
    refine ⟨(modifySegment_frame n (fun g => { g with startTime := some t }) s fun _ => rfl).mono (by decide), rfl, rfl,
      .inl rfl, fun k in_k => ⟨some t, ?_⟩, fun j other => ?_, id⟩
    · have same : n = k := Option.some.inj (current.symm.trans in_k)
      exact (modifySegment_segment _ _ _ _).trans (if_pos same)
    · exact (modifySegment_segment _ _ _ _).trans (if_neg fun same => other (by rw [current, same]))
  · exact refl s

theorem opened (trigger : Bool) (x : Sample) (s : State) : Compresses s (openRecordAt trigger x s) :=
  .ite (fun captures => engine _ rfl rfl rfl fun _ => .inl captures) fun _ => refl s

theorem sample (x : Sample) (s : State) : Compresses s (handleSample x s) := by
  unfold handleSample
  split
  · exact (started _ _).trans (opened _ _ _)
  · refine .ite (fun _ => ?_) fun _ => (records _ _).trans (opened _ _ _)
    exact (records _ _).trans (.ite (fun captures => engine _ rfl rfl rfl fun _ => .inl captures) fun _ => refl _)

theorem samples (xs : List Sample) (s : State) : Compresses s (handleSamples xs s) :=
  foldl (fun _ _ => .ite (fun _ => sample _ _) fun _ => refl _) s xs

theorem met (s : State) (x : Sample) : Compresses s (triggeredSample s x) :=
  .ite (fun _ => .ite (fun _ => closes _ _ _ _) fun _ => sample _ _) fun _ => refl s

theorem after_trigger (x : Sample) (s : State) : Compresses s (afterTriggerCut x s) := by
  refine .ite (fun triggered => .ite (fun _ => closes _ _ _ _) fun _ => ?_) fun _ => refl s
  have emptied : Compresses s { s with ce := { s.ce with staging := [] } } :=
    engine _ rfl rfl rfl fun _ => .inl (capturing_iff.2 (.inr (.inr triggered)))
  exact emptied.trans (foldl met _ _)

end Compresses

/-! ### The trigger cut (R35) -/

/-- The part once a segment is cut at its trigger sample, by the records that the cut closes. -/
def cutAt (x : Sample) (cause : Cause) (n : Fin 32) (rs : List Record) (s : State) : State :=
  { s with
    ce := { s.ce with
      engine := .triggered, heldForce := false, endIndex := some (s.ce.handled + s.ce.post)
      openRecord := some (openAt s true x), handled := s.ce.handled + 1, previous := some x.levels
      queue := s.ce.queue ++ rs, lastValue := (rs.getLast?.map (·.value)).getD s.ce.lastValue }
    segments := s.segments.set n
      { s.segments[n] with triggerTime := some x.stamp, triggerCause := some cause } }

section

variable {s : State} {x : Sample} {o : OpenRecord} {n : Fin 32}

theorem noteTrigger_some (current : s.ce.segment = some n) (t : Time) (cause : Cause) :
    noteTrigger t cause s =
      modifySegment n (fun g => { g with triggerTime := some t, triggerCause := some cause }) s := by
  rw [noteTrigger, current]

theorem triggerCut_open (cause : Cause) (captures : capturing s = true) (current : s.ce.segment = some n)
    (record : s.ce.openRecord = some o) (within : elapsed x.stamp o.start ≤ 16777215) (fresh : s.ce.episode = none)
    (room : s.ce.queue.length < slotsOf (closedRecord o (elapsed x.stamp o.start))) :
    triggerCut x cause s = cutAt x cause n [closedRecord o (elapsed x.stamp o.start)] s := by
  have cut : cutOpenRecord x.stamp s = pushed [closedRecord o (elapsed x.stamp o.start)] s := by
    unfold cutOpenRecord
    rw [record]
    dsimp only
    rw [(closeAt_within _ _ within).2]
    exact pushRecord_room captures fresh room
  unfold triggerCut
  dsimp only
  rw [cut, if_pos (by exact captures), noteTrigger_some (n := n) (by exact current)]
  unfold openRecordAt
  rw [if_pos (by exact captures)]
  rfl

/-- At sample 0 no record is open, and the cut starts the segment. -/
theorem triggerCut_first (cause : Cause) (captures : capturing s = true) (current : s.ce.segment = some n)
    (none_open : s.ce.openRecord = none) : triggerCut x cause s = cutAt x cause n []
      (modifySegment n (fun g => { g with startTime := some x.stamp }) s) := by
  have cut : cutOpenRecord x.stamp s = modifySegment n (fun g => { g with startTime := some x.stamp }) s := by
    unfold cutOpenRecord
    rw [none_open]
    exact noteStart_some current _
  unfold triggerCut cutAt
  dsimp only
  rw [cut, if_pos (by exact captures), noteTrigger_some (n := n) (by exact current), List.append_nil]
  unfold openRecordAt
  rw [if_pos (by exact captures)]
  rfl

/-- A trigger that the engine passes on begins the bursts and raises Triggered (R17, R82). -/
theorem passTrigger_eq (current : s.ce.segment = some n) (t : Time) (cause : Cause) : passTrigger t cause s =
    { s with gen := triggerGenerator s.gen, lp.notices := (raiseNotice (.triggered n t cause) s).lp.notices } := by
  unfold passTrigger
  dsimp only
  rw [current]
  dsimp only
  rw [raiseNotice_eq, raiseNotice_notices s _ { s with gen := triggerGenerator s.gen } rfl rfl]

end

/-! ### The sample of a tick with its levels (R13, R14) -/

/-- SAMPLE at a quiet tick at which the sampler takes its sample. -/
theorem exec_sample_levels {s : State} (quiet : Quiet s) (due : s.ce.nextTick = s.time) (captures : capturing s = true)
    (takes : Takes s) : exec .sample s = .next (takeSample
      { stamp := s.time, levels := levelsTaken (sampleHere s) s }
      (advanceSampler (levelsTaken (sampleHere s) s) s)) := by
  have now : sampleNow s = some (sampleHere s) := by
    unfold sampleNow
    dsimp only
    rcases takes with timing | ⟨old, clock, qualified⟩
    · rw [timing]
      rfl
    · cases s.ce.table.mode
      · rfl
      · dsimp only
        rw [clock]
        exact if_pos qualified
  change execSample s = _
  unfold execSample sampleTick
  rw [if_pos (sampleDue_now due captures), settle_quiet quiet]
  unfold sampleTaken
  dsimp only
  rw [now]
  rfl

/-! ### A stage that fires (R74, R82) -/

theorem takeBranch_fired {ts : Ts} {n k : Fin 8} {second : Bool} {b : Branch} {stamp : Time}
    (fired : (takeBranch ts n second b stamp).2 = some k) :
    (takeBranch ts n second b stamp).1.run = .fired ∧
      (takeBranch ts n second b stamp).1.triggerTime = some stamp ∧
      (takeBranch ts n second b stamp).1.triggerCause = some (.stage k) := by
  obtain ⟨u, f, branch, -, -, target⟩ := takeBranch_spec ts n second b stamp
  rw [branch] at fired ⊢
  cases kind : b.target with
  | stage j =>
    rw [kind] at target
    exact absurd (target.1.symm.trans fired) (by simp)
  | stay =>
    rw [kind] at target
    exact absurd (target.1.symm.trans fired) (by simp)
  | fire =>
    rw [kind] at target
    obtain ⟨by_stage, run, -, -, -, time, cause⟩ := target
    have same : n = k := Option.some.inj (by_stage.symm.trans fired)
    exact ⟨run, time, same ▸ cause⟩

theorem stepBranches_fired {ts : Ts} {n k : Fin 8} {truth : Fin 16 → Bool} {stamp : Time}
    (fired : (stepBranches ts n truth stamp).2 = some k) :
    (stepBranches ts n truth stamp).1.run = .fired ∧
      (stepBranches ts n truth stamp).1.triggerTime = some stamp ∧
      (stepBranches ts n truth stamp).1.triggerCause = some (.stage k) := by
  unfold stepBranches at fired ⊢
  dsimp only at fired ⊢
  split at fired
  · next primary =>
    rw [if_pos primary]
    exact takeBranch_fired fired
  · next primary =>
    rw [if_neg primary]
    split at fired
    · next secondary =>
      rw [if_pos secondary]
      exact takeBranch_fired fired
    · cases fired

theorem evaluate_fired {ts : Ts} {x : Presented} {k : Fin 8} (fired : (evaluate ts x).2 = some k) :
    (evaluate ts x).1.run = .fired ∧ (evaluate ts x).1.triggerTime = some x.stamp ∧
      (evaluate ts x).1.triggerCause = some (.stage k) := by
  unfold evaluate at fired ⊢
  split at fired
  · cases fired
  · exact stepBranches_fired fired

/-- With the TS Running a sample whose evaluation fires a stage brings the trigger (R63, R74). -/
theorem handleStaged_fires {s : State} {m q : Sample} {n : Fin 8} (running : s.ts.run = .running)
    (fires : (evaluate s.ts (presentedAt s m q)).2 = some n) :
    handleStaged m q s = fireAt m n (withTs (evaluate s.ts (presentedAt s m q)).1 s) := by
  unfold handleStaged
  dsimp only
  rw [if_pos running, fires]
  rfl

theorem haltTs_fired {ts : Ts} (fired : ts.run = .fired) : haltTs ts = ts := if_neg (by rw [fired]; decide)

/-- What a Fire leaves, where the cut record finds a slot. -/
theorem fireAt_spec {s : State} {m : Sample} {n : Fin 8} {k : Fin 32} {o : OpenRecord} (captures : capturing s = true)
    (current : s.ce.segment = some k) (record : s.ce.openRecord = some o)
    (within : elapsed m.stamp o.start ≤ 16777215) (fresh : s.ce.episode = none)
    (room : s.ce.queue.length < slotsOf (closedRecord o (elapsed m.stamp o.start))) (fired : s.ts.run = .fired) :
    ∃ c, fireAt m n s = c ∧ c.ce.segment = some k ∧ c.ts = s.ts ∧ c.segments[k].triggerTime = some m.stamp ∧
      c.segments[k].triggerCause = some (.stage n) ∧ (∀ j : Fin 32, j ≠ k → c.segments[j] = s.segments[j]) ∧
      BurstsBegun s.gen c.gen ∧ c.lp.notices = (raiseNotice (.triggered k m.stamp (.stage n)) s).lp.notices := by
  have cut := triggerCut_open (n := k) (.stage n) (s := passTrigger m.stamp (.stage n) s) (x := m) (o := o)
    (by rw [passTrigger_eq current]; exact captures) (by rw [passTrigger_eq current]; exact current)
    (by rw [passTrigger_eq current]; exact record) within (by rw [passTrigger_eq current]; exact fresh)
    (by rw [passTrigger_eq current]; exact room)
  have whole : fireAt m n s = afterTriggerCut m (cutAt m (.stage n) k
      [closedRecord o (elapsed m.stamp o.start)] (passTrigger m.stamp (.stage n) s)) :=
    congrArg (afterTriggerCut m) cut
  have after := Compresses.after_trigger m (cutAt m (.stage n) k [closedRecord o (elapsed m.stamp o.start)]
    (passTrigger m.stamp (.stage n) s))
  rw [← whole, passTrigger_eq current] at after
  generalize fireAt m n s = c at after
  have ts : c.ts = s.ts := by
    rcases after.ts with kept | halted
    · exact kept
    · exact halted.trans (haltTs_fired fired)
  obtain ⟨start, own⟩ := after.current k current
  have cut_own := (set_getElem s.segments k k { s.segments[k] with
    triggerTime := some m.stamp, triggerCause := some (.stage n) }).trans (if_pos rfl)
  have gen := same_gen after.frame (by decide) (by decide) (by decide)
  refine ⟨c, rfl, after.segment.trans current, ts, ?_, ?_, fun j other => ?_, ?_, after.frame .notices (by decide)⟩
  · rw [own]
    exact congrArg SegmentStatus.triggerTime cut_own
  · rw [own]
    exact congrArg SegmentStatus.triggerCause cut_own
  · refine (after.others j fun same => other (Option.some.inj (current.symm.trans same)).symm).trans ?_
    exact (set_getElem _ _ _ _).trans (if_neg other)
  · rw [gen]
    exact triggerGenerator_begins s.gen

/-- Settles O23: the Fire of an evaluated sample. -/
theorem fireSetsTheTriggerOfTheSegment : Obligations.FireSetsTheTriggerOfTheSegment := by
  intro s m q rest n k o quiet armed free due timing running current line full fires record within normal fresh room
  have captures : capturing s = true := capturing_iff.2 (.inr (.inl armed))
  have step := exec_sample_levels quiet due captures (.inl timing)
  generalize levelsTaken (sampleHere s) s = w at step
  generalize hx : ({ stamp := s.time, levels := w } : Sample) = x at step
  obtain ⟨fired, time, cause⟩ := evaluate_fired fires
  obtain ⟨c, fire, in_k, ts, trigger_time, trigger_cause, others, bursts, notices⟩ := fireAt_spec (m := m) (n := n)
    (s := withTs (evaluate s.ts (presentedAt s m q)).1 (withLine (q :: rest ++ [x]) (takenOne w s))) captures current
    record within fresh (by
      show s.ce.queue.length < slotsOf (closedRecord o (elapsed m.stamp o.start))
      unfold slotsOf
      split <;> omega) fired
  have engine : ceSample x (advanceSampler w s) = c := by
    rw [ceSample_staged _ _ free (by rw [armed]; decide)]
    refine (stageSample_full (s := takenOne w s) line full).trans ?_
    exact (handleStaged_fires (s := withLine (q :: rest ++ [x]) (takenOne w s)) running fires).trans fire
  have frame := ((advanceSampler_frame w s).trans (takeSample_frame x (advanceSampler w s)))
  have alone := takeSample_alone x (advanceSampler w s)
  rw [engine] at alone
  obtain ⟨lost, own⟩ := alone.current k in_k
  refine ⟨_, step, ?_, ?_, ?_, ?_, ?_, ?_, ?_, fun j other => ?_, frame.mono (by decide)⟩
  · rw [own]
    exact trigger_time
  · rw [own]
    exact trigger_cause
  · rw [alone.ts, ts]
    exact fired
  · rw [alone.ts, ts]
    exact time
  · rw [alone.ts, ts]
    exact cause
  · rw [same_gen alone.frame (by decide) (by decide) (by decide)]
    exact bursts
  · refine (alone.notices 1 (by decide)).trans ?_
    rw [notices]
    exact congrArg (·[(1 : Fin 10)]) (raiseNotice_notices s _ _ rfl rfl)
  · refine (alone.others j fun same => other (Option.some.inj (in_k.symm.trans same)).symm).trans ?_
    exact others j other

end Sys2Proof.Machine
end

section
/-! SUPPORT. FORCE and STOP (R36, R39, R81): what is due at a tick, the forced trigger, and the end of a capture. -/

namespace Sys2Proof.Machine

/-! ### What a dispatched command leaves of the tick -/

/-- Two states in which the same is due at the tick. -/
structure TickAlike (s t : State) : Prop where
  ce : t.ce = s.ce
  time : t.time = s.time
  pfe : t.pfe = s.pfe
  gen : t.gen = s.gen
  power : t.pru.power = s.pru.power

namespace TickAlike

variable {s t : State}

theorem present (h : TickAlike s t) (pod : Fin 4) : TickAlike (changePresent pod s) (changePresent pod t) := by
  have part (u : State) := changePresent_frame pod u
  refine ⟨?_, ?_, ?_, ?_, ?_⟩
  · exact (part t .ce (by decide)).trans (h.ce.trans (part s .ce (by decide)).symm)
  · exact (part t .time (by decide)).trans (h.time.trans (part s .time (by decide)).symm)
  · rw [changePresent_pfe, changePresent_pfe, h.pfe]
  · exact (same_gen (part t) (by decide) (by decide) (by decide)).trans
      (h.gen.trans (same_gen (part s) (by decide) (by decide) (by decide)).symm)
  · exact (part t .power (by decide)).trans (h.power.trans (part s .power (by decide)).symm)

theorem foldl {α : Type} {f : State → α → State} (step : ∀ s t a, TickAlike s t → TickAlike (f s a) (f t a))
    (h : TickAlike s t) (xs : List α) : TickAlike (xs.foldl f s) (xs.foldl f t) := by
  induction xs generalizing s t with
  | nil => exact h
  | cons a xs ih => exact ih (step s t a h)

theorem settles (h : TickAlike s t) : TickAlike (settle s) (settle t) := by
  unfold settle
  dsimp only
  refine foldl (fun s t i h => ?_) (foldl (fun s t pod h => ?_) h _) _
  · have due : halfPeriodDue t i = halfPeriodDue s i := by
      unfold halfPeriodDue
      rw [h.gen, h.power]
    rw [due]
    split
    · exact ⟨h.ce, h.time, h.pfe, congrArg (endHalfPeriod i) h.gen, h.power⟩
    · exact h
  · have due : presenceDue t pod = presenceDue s pod := by
      unfold presenceDue
      rw [h.pfe, h.time, h.power]
    rw [due]
    split
    · exact h.present pod
    · exact h

theorem comes (h : TickAlike s t) : sampleComes t = sampleComes s := by
  have after := h.settles
  have levels : sampleLevels (settle t) = sampleLevels (settle s) := by
    unfold sampleLevels
    rw [after.ce, after.gen, after.pfe]
  unfold sampleComes sampleDue capturing sampleNow
  rw [levels, after.ce, after.time, h.ce, h.time]

end TickAlike

theorem popped_alike (rest : List LinkCell) (s : State) : TickAlike s (popped rest s) :=
  ⟨popped_ce rest s, popped_time rest s, popped_pfe rest s, popped_gen rest s, by rw [popped_pru]⟩

/-! ### The forced trigger (R36, R81) -/

/-- The part after a forced trigger at a sample, whose cut closes some records. -/
def forcedAt (x : Sample) (n : Fin 32) (rs : List Record) (s : State) : State :=
  { cutAt x .forced n rs s with
    ts := { s.ts with triggerTime := some x.stamp }
    gen := triggerGenerator s.gen
    lp.notices := (raiseNotice (.triggered n x.stamp .forced) s).lp.notices }

section

variable {s : State} {x : Sample} {n : Fin 32} {rs : List Record} {o : OpenRecord}

theorem forcedAt_segment (x : Sample) (n : Fin 32) (rs : List Record) (s : State) : (forcedAt x n rs s).segments[n] =
    { s.segments[n] with triggerTime := some x.stamp, triggerCause := some .forced } :=
  (set_getElem _ _ _ _).trans (if_pos rfl)

theorem passTrigger_cutAt (current : s.ce.segment = some n) : passTrigger x.stamp .forced
    { cutAt x .forced n rs s with ts := { s.ts with triggerTime := some x.stamp } } = forcedAt x n rs s := by
  rw [passTrigger_eq (n := n) (by exact current),
    raiseNotice_notices s _ { cutAt x .forced n rs s with ts := { s.ts with triggerTime := some x.stamp } } rfl rfl]
  rfl

/-- With P above 0 and nothing staged behind it, a forced trigger leaves the part Triggered. -/
theorem forceAt_cuts {w : State} (current : w.ce.segment = some n) (cuts : triggerCut x .forced s = cutAt x .forced n rs w)
    (empty : w.ce.staging = []) (more : w.ce.post ≠ 0) : forceAt x s = forcedAt x n rs w := by
  have after : afterTriggerCut x (forcedAt x n rs w) = forcedAt x n rs w := by
    have kept : { (forcedAt x n rs w).ce with staging := [] } = (forcedAt x n rs w).ce := by
      rw [← empty]
      rfl
    have none_staged : (forcedAt x n rs w).ce.staging = [] := empty
    unfold afterTriggerCut
    rw [if_pos (show (forcedAt x n rs w).ce.engine = .triggered from rfl),
      if_neg (show ¬(forcedAt x n rs w).ce.post = 0 from more), none_staged, kept]
    rfl
  unfold forceAt
  dsimp only
  rw [cuts, if_pos (show (cutAt x .forced n rs w).ce.engine = .triggered from rfl)]
  exact (congrArg (afterTriggerCut x) (passTrigger_cutAt current)).trans after

theorem forceAfter_nothing (captures : capturing s = true) : forceAfter [] x s = forceAt x (withLine [] s) :=
  if_pos captures

/-- A forced trigger at the one sample staged, with an open record. -/
theorem forceNewest_one (captures : capturing s = true) (current : s.ce.segment = some n) (line : s.ce.staging = [x])
    (record : s.ce.openRecord = some o) (within : elapsed x.stamp o.start ≤ 16777215) (fresh : s.ce.episode = none)
    (room : s.ce.queue.length < slotsOf (closedRecord o (elapsed x.stamp o.start))) (more : s.ce.post ≠ 0) :
    forceNewest s = forcedAt x n [closedRecord o (elapsed x.stamp o.start)]
      (withLine [] (withTs (forceTs (some x.stamp) s.ts) s)) := by
  have cuts := triggerCut_open (n := n) (s := withLine [] (withTs (forceTs (some x.stamp) s.ts) s)) .forced captures
    current record within fresh room
  have trigger := forceAt_cuts (by exact current) cuts rfl more
  have whole : forceNewest s = endRuns (forceAfter [] x (withTs (forceTs (some x.stamp) s.ts) s)) := by
    unfold forceNewest
    rw [line]
    rfl
  rw [whole, forceAfter_nothing (by exact captures), trigger]
  exact if_neg (show ¬EngineState.triggered = .closing by decide)

/-- A held FORCE triggers at the first sample taken. -/
theorem forceAfter_first (captures : capturing s = true) (current : s.ce.segment = some n)
    (none_open : s.ce.openRecord = none) (more : s.ce.post ≠ 0) : forceAfter [] x s = forcedAt x n []
      (modifySegment n (fun g => { g with startTime := some x.stamp }) (withLine [] s)) := by
  have cuts := triggerCut_first (n := n) (x := x) (s := withLine [] s) .forced captures current none_open
  rw [forceAfter_nothing captures]
  exact forceAt_cuts (by exact current) cuts rfl more

theorem forcedAt_frame (x : Sample) (n : Fin 32) (rs : List Record) (s : State) :
    ChangesOnly [.ce, .ts, .segments, .genOutputs, .loopCounter, .notices] s (forcedAt x n rs s) := by
  have ce : ChangesOnly [.ce] s { s with ce := (cutAt x .forced n rs s).ce } := update_ce s _ rfl
  have segments : ChangesOnly [.segments] { s with ce := (cutAt x .forced n rs s).ce } (cutAt x .forced n rs s) :=
    modifySegment_frame n (fun g => { g with triggerTime := some x.stamp, triggerCause := some .forced })
      { s with ce := (cutAt x .forced n rs s).ce } fun _ => rfl
  have ts : ChangesOnly [.ts] (cutAt x .forced n rs s)
      (withTs { s.ts with triggerTime := some x.stamp } (cutAt x .forced n rs s)) := withTs_frame _ _ ⟨rfl, rfl, rfl⟩
  have gen : ChangesOnly [.genOutputs, .loopCounter]
      (withTs { s.ts with triggerTime := some x.stamp } (cutAt x .forced n rs s))
      { withTs { s.ts with triggerTime := some x.stamp } (cutAt x .forced n rs s) with gen := triggerGenerator s.gen } :=
    update_gen _ _ (triggerGenerator_begins s.gen).table
  have notices := update_notices
    { withTs { s.ts with triggerTime := some x.stamp } (cutAt x .forced n rs s) with gen := triggerGenerator s.gen }
    (raiseNotice (.triggered n x.stamp .forced) s).lp.notices
  exact ((((ce.mono (by decide)).trans (segments.mono (by decide))).trans (ts.mono (by decide))).trans (gen.mono (by decide))).trans
    (notices.mono (by decide))

end

/-! ### FORCE -/

section

variable {c : LinkCell} {rest : List LinkCell} {s : State}

theorem exec_force (ready : Ready c rest s) (code : c.code = 5) (payload : c.payload = []) (awake : s.pru.power ≠ .sleep) :
    exec .force s = .next (putReply c.tag (.done [])
      (if s.ce.engine = .preFill ∨ s.ce.engine = .armed then forceCapture (popped rest s) else popped rest s)) := by
  have row : commandRow c = .force := by
    unfold commandRow
    rw [code]
    rfl
  have step := dispatch_owner ready row (n := some 0) (b := false) (owner := fun c t => putReply c.tag (.done [])
    (if t.ce.engine = .preFill ∨ t.ce.engine = .armed then forceCapture t else t)) (by simp [payload])
    (fun asleep => absurd asleep awake)
  rw [popped_ce] at step
  exact step

/-- A reply leaves the queue and the slot as a dispatch that ends with it does. -/
theorem answered_putReply {body : ReplyBody} {u : State} (queue : u.lp.queue = rest) :
    answered c rest body (putReply c.tag body u) := ⟨queue, rfl⟩

end

/-- Settles O33: FORCE before, at and after the first sample, and the trigger that is held. -/
theorem forceTriggersAtTheNewestSample : Obligations.ForceTriggersAtTheNewestSample := by
  constructor
  · intro c rest s ready code payload awake
    refine ⟨_, exec_force ready code payload awake, answered_putReply ?_, fun rests => ?_, fun waits held => ?_, ?_⟩
    · split
      · have kept := forceCapture_frame (popped rest s) .queue (by decide)
        exact Eq.trans kept (by rw [popped_lp])
      · rw [popped_lp]
    · rw [if_neg (by rcases rests with e | e | e <;> rw [e] <;> decide)]
      exact ((popped_frame rest s).mono (by decide)).trans ((putReply_frame _ _ _).mono (by decide))
    · have holds : forceCapture (popped rest s) =
          { popped rest s with ce.heldForce := true, ts := forceTs none (popped rest s).ts } :=
        if_pos (by rw [popped_ce, (popped_alike rest s).comes]; exact held)
      rw [if_pos waits, holds]
      have changed := (update_ce_ts (popped rest s) { (popped rest s).ce with heldForce := true }
        (forceTs none (popped rest s).ts) rfl ⟨rfl, rfl, rfl⟩)
      refine ⟨?_, ?_, (((popped_frame rest s).mono (by decide)).trans (changed.mono (by decide))).trans
        ((putReply_frame _ _ _).mono (by decide))⟩
      · exact congrArg (fun ce : Ce => { ce with heldForce := true }) (popped_ce rest s)
      · exact congrArg (forceTs none) (popped_ts rest s)
    · intro x o n waits taken none_comes line record current within normal fresh room more
      have captures : capturing s = true := capturing_iff.2 (by rcases waits with e | e <;> simp [e])
      have newest : forceCapture (popped rest s) = forceNewest (popped rest s) :=
        if_neg (by rw [popped_ce, (popped_alike rest s).comes, none_comes]; simpa using taken)
      have free : s.ce.queue.length < slotsOf (closedRecord o (elapsed x.stamp o.start)) := by
        unfold slotsOf
        split <;> omega
      have begun := popped_frame rest s
      have ce := popped_ce rest s
      have ts := popped_ts rest s
      have segments := popped_segments rest s
      have gen := popped_gen rest s
      have notices : (popped rest s).lp.notices = s.lp.notices := by rw [popped_lp]
      have table : (popped rest s).pru.table = s.pru.table := by rw [popped_pru]
      rw [if_pos waits, newest]
      generalize popped rest s = p at begun ce ts segments gen notices table ⊢
      have forced := forceNewest_one (s := p) (x := x) (n := n) (o := o) (by unfold capturing; rw [ce]; exact captures)
        (by rw [ce]; exact current) (by rw [ce]; exact line) (by rw [ce]; exact record) within (by rw [ce]; exact fresh)
        (by rw [ce]; exact free) (by rw [ce]; exact more)
      have closed : closedRecord o (elapsed x.stamp o.start) = {
          value := o.value, duration := elapsed x.stamp o.start, triggerPoint := false
          continuation := o.continuation, gap := false, loop := o.loop } := by rw [closedRecord, normal]
      have moved : ChangesOnly [.ce, .ts] p (withLine [] (withTs (forceTs (some x.stamp) p.ts) p)) :=
        update_ce_ts p { p.ce with staging := [] } (forceTs (some x.stamp) p.ts) rfl ⟨rfl, rfl, rfl⟩
      have frame := (moved.mono (by decide)).trans
        (forcedAt_frame x n [closedRecord o (elapsed x.stamp o.start)] (withLine [] (withTs (forceTs (some x.stamp) p.ts) p)))
      rw [closed] at forced frame
      rw [forced]
      refine ⟨?_, ?_, ?_, ?_, raised_of_same (u := withLine [] (withTs (forceTs (some x.stamp) p.ts) p)) rfl notices table,
        ((begun.mono (by decide)).trans (frame.mono (by decide))).trans ((putReply_frame _ _ _).mono (by decide))⟩
      · rw [← ce]
        rfl
      · rw [← ts]
        rfl
      · rw [← segments]
        rfl
      · rw [← gen]
        exact triggerGenerator_begins p.gen
  · intro s n quiet waits held taken handled line none_open current due more takes
    have captures : capturing s = true := capturing_iff.2 (by rcases waits with e | e <;> simp [e])
    have step := exec_sample_levels quiet due captures takes
    have levels : levelsTaken (sampleHere s) s = sampleLevels { s with gen := triggerGenerator s.gen } := by
      have engine : ceSample (sampleHere s) s =
          forceAfter [] (sampleHere s) { s with ce := { s.ce with taken := s.ce.taken + 1 } } := by
        rw [← line]
        exact if_pos held
      unfold levelsTaken
      rw [engine, forceAfter_first (n := n) (s := { s with ce := { s.ce with taken := s.ce.taken + 1 } }) captures current
        none_open more]
      rfl
    generalize levelsTaken (sampleHere s) s = w at step levels
    generalize hx : ({ stamp := s.time, levels := w } : Sample) = x at step
    have stamp : x.stamp = s.time := by rw [← hx]
    have shown : x.levels = w := by rw [← hx]
    have engine : ceSample x (advanceSampler w s) = forcedAt x n []
        (modifySegment n (fun g => { g with startTime := some x.stamp }) (withLine [] (takenOne w s))) := by
      rw [ceSample_held w x held, line]
      exact forceAfter_first (s := takenOne w s) captures current none_open more
    have alone := takeSample_alone x (advanceSampler w s)
    have decodes := sample_decodes engine stamp rfl rfl (show EngineState.triggered ≠ .closing by decide)
    rw [engine] at alone
    have gen : (takeSample x (advanceSampler w s)).gen = triggerGenerator s.gen :=
      same_gen alone.frame (by decide) (by decide) (by decide)
    obtain ⟨lost, own⟩ := alone.current n current
    have own_segment : (takeSample x (advanceSampler w s)).segments[n] = { s.segments[n] with
        startTime := some x.stamp, triggerTime := some x.stamp, triggerCause := some .forced, symbolLost := lost } := by
      have started := (modifySegment_segment n n (fun g => { g with startTime := some x.stamp })
        (withLine [] (takenOne w s))).trans (if_pos rfl)
      rw [own, forcedAt_segment, started]
      rfl
    have levels_after : sampleLevels { s with gen := (takeSample x (advanceSampler w s)).gen } = x.levels := by
      rw [gen, ← levels, shown]
    refine ⟨_, step, ?_, ?_, ?_, ?_, ?_, ?_, ?_, ?_, ?_, ?_, ?_, ?_, ?_,
      ((advanceSampler_frame w s).trans (takeSample_frame x (advanceSampler w s))).mono (by decide)⟩
    · rw [alone.ce]
      rfl
    · rw [alone.ce]
      rfl
    · rw [alone.ce]
      exact congrArg (· + 1) handled
    · rw [alone.ce]
      show some (s.ce.handled + s.ce.post) = some s.ce.post
      rw [handled, Nat.zero_add]
    · rw [alone.ce]
      exact List.append_nil _
    · rw [alone.ce, levels_after, ← stamp]
      rfl
    · rw [own_segment, stamp]
    · rw [own_segment, stamp]
    · rw [own_segment]
    · rw [alone.ts, ← stamp]
      rfl
    · rw [gen]
      exact triggerGenerator_begins s.gen
    · rw [levels_after]
      exact decodes
    · refine (alone.notices 1 (by decide)).trans ?_
      rw [← stamp]
      exact congrArg (·[(1 : Fin 10)]) (raiseNotice_notices s _ _ rfl rfl)

end Sys2Proof.Machine
end

section
/-! SUPPORT. STOP (R39, R40, R80, R112). -/

namespace Sys2Proof.Machine

/-- The part whose sampler a STOP has stopped. -/
def samplingStopped (s : State) : State :=
  { s with ts := haltTs s.ts, ce := { s.ce with staging := [], stopTaken := true } }

section

variable {c : LinkCell} {rest : List LinkCell} {s : State}

theorem exec_stop (ready : Ready c rest s) (code : c.code = 4) (payload : c.payload = []) (awake : s.pru.power ≠ .sleep) :
    exec .stop s = .next (putReply c.tag (.done [])
      (if capturing s then stopCapture (popped rest s) else popped rest s)) := by
  have row : commandRow c = .stop := by
    unfold commandRow
    rw [code]
    rfl
  have step := dispatch_owner ready row (n := some 0) (b := false) (owner := fun c t => putReply c.tag (.done [])
    (if capturing t then stopCapture t else t)) (by simp [payload]) (fun asleep => absurd asleep awake)
  have same : capturing (popped rest s) = capturing s := by
    unfold capturing
    rw [popped_ce]
  rw [same] at step
  exact step

theorem samplingStopped_frame (s : State) : ChangesOnly [.ce, .ts] s (samplingStopped s) :=
  update_ce_ts s { s.ce with staging := [], stopTaken := true } (haltTs s.ts) rfl (haltTs_tables _)

/-- The staged samples handled, and the cut: the capture has ended. -/
theorem stopCut_closes (captures : capturing s = true) (staged : List Sample) :
    Closed (stopCut (handleSamples staged (samplingStopped s))) ∧
      (stopCut (handleSamples staged (samplingStopped s))).ce.stopTaken = true ∧
      (stopCut (handleSamples staged (samplingStopped s))).ts = haltTs s.ts ∧
      ChangesOnly [.ce, .ts, .segments] s (stopCut (handleSamples staged (samplingStopped s))) := by
  have handles := Compresses.samples staged (samplingStopped s)
  have outcome := handles.outcome (.inl captures)
  generalize handleSamples staged (samplingStopped s) = h at handles outcome ⊢
  have cuts : Compresses h (stopCut h) :=
    .ite (fun _ => .trans (.ite (fun _ => .started _ _) fun _ => .refl _) (.closes _ _ _ _)) fun _ => .refl _
  have all := handles.trans cuts
  refine ⟨?_, all.stop, ?_, ((samplingStopped_frame s).mono (by decide)).trans all.frame⟩
  · by_cases goes_on : capturing h = true
    · rw [stopCut, if_pos goes_on]
      exact ⟨rfl, rfl, rfl⟩
    · rw [stopCut, if_neg goes_on]
      exact outcome.resolve_left goes_on
  · rcases all.ts with kept | halted
    · exact kept
    · exact halted.trans (haltTs_haltTs s.ts)

/-- Without a held FORCE, and before the first sample, there is none to release. -/
theorem releaseForce_free (free : s.ce.heldForce = false ∨ s.ce.taken = 0) : releaseForce s = s :=
  if_neg fun ⟨held, taken⟩ => by
    rcases free with unheld | untaken
    · rw [held] at unheld
      cases unheld
    · exact taken untaken

/-- A STOP with nothing to trigger first. -/
theorem stopCapture_stops (free : s.ce.heldForce = false ∨ s.ce.taken = 0) (captures : capturing s = true) :
    stopCapture s = stopSampling s := by
  unfold stopCapture
  dsimp only
  rw [releaseForce_free free, if_pos captures]

theorem stopSampling_eq (s : State) : stopSampling s = endRuns (stopCut (handleSamples
    (s.ce.staging.filter fun x => x.stamp != s.time) (samplingStopped s))) := rfl

theorem stopSampling_none_staged (line : s.ce.staging = []) : stopSampling s = endRuns (stopCut (samplingStopped s)) := by
  rw [stopSampling_eq, line]
  rfl

/-- The cut of a STOP with an open record. -/
theorem stopCut_record {o : OpenRecord} (captures : capturing s = true) (record : s.ce.openRecord = some o)
    (some_handled : s.ce.handled ≠ 0) (fresh : s.ce.episode = none) (within : elapsed s.time o.start ≤ 16777215)
    (held : 1 ≤ elapsed s.time o.start ∨ o.triggerPoint = true) : stopCut (samplingStopped s) =
      enterClosing .stopped s.time [closedRecord o (elapsed s.time o.start)] (samplingStopped s) := by
  have cut : cutRecords s.time o = [closedRecord o (elapsed s.time o.start)] := by
    have kept : ((closedRecord o (elapsed s.time o.start)).duration != 0 ||
        (closedRecord o (elapsed s.time o.start)).triggerPoint) = true := by
      show (elapsed s.time o.start != 0 || o.triggerPoint) = true
      rcases held with ticks | trigger
      · simp [show elapsed s.time o.start ≠ 0 by omega]
      · simp [trigger]
    rw [cutRecords, (closeAt_within _ _ within).2]
    exact List.filter_cons_of_pos kept
  have episode : (samplingStopped s).ce.episode = none := fresh
  have opened : (samplingStopped s).ce.openRecord = some o := record
  have time : (samplingStopped s).time = s.time := rfl
  unfold stopCut
  rw [if_pos (by exact captures), if_neg (by exact some_handled)]
  unfold endCut
  rw [episode, opened, time]
  dsimp only
  rw [cut]
  rfl

/-- The cut of a STOP in a segment that has handled no sample. -/
theorem stopCut_empty {n : Fin 32} (captures : capturing s = true) (none_open : s.ce.openRecord = none)
    (none_handled : s.ce.handled = 0) (fresh : s.ce.episode = none) (current : s.ce.segment = some n) :
    stopCut (samplingStopped s) = enterClosing .stopped s.time []
      (modifySegment n (fun g => { g with startTime := some s.time }) (samplingStopped s)) := by
  have episode : (samplingStopped s).ce.episode = none := fresh
  have opened : (samplingStopped s).ce.openRecord = none := none_open
  have time : (samplingStopped s).time = s.time := rfl
  unfold stopCut
  rw [if_pos (by exact captures), if_pos (by exact none_handled), time,
    noteStart_some (s := samplingStopped s) current]
  unfold endCut
  rw [modifySegment_ce, episode, opened]
  rfl

end

/-- Settles O32: STOP in every state of the engine. -/
theorem stopClosesTheSegmentAtItsTick : Obligations.StopClosesTheSegmentAtItsTick := by
  intro c rest s ready code payload awake
  have begun := popped_frame rest s
  have ce := popped_ce rest s
  have ts := popped_ts rest s
  have segments := popped_segments rest s
  have gen := popped_gen rest s
  have time := popped_time rest s
  have same : capturing (popped rest s) = capturing s := by
    unfold capturing
    rw [ce]
  have step := exec_stop ready code payload awake
  have queue : (if capturing s then stopCapture (popped rest s) else popped rest s).lp.queue = rest := by
    split
    · exact Eq.trans (stopCapture_frame (popped rest s) .queue (by decide)) (by rw [popped_lp])
    · rw [popped_lp]
  refine ⟨_, step, answered_putReply queue, fun rests => ?_, fun running free => ?_, ?_⟩
  · rw [if_neg (by rw [capturing_iff]; rcases rests with e | e <;> rw [e] <;> decide)]
    exact (begun.mono (by decide)).trans ((putReply_frame _ _ _).mono (by decide))
  · have captures : capturing s = true := capturing_iff.2 running
    generalize popped rest s = p at begun ce ts segments gen time same ⊢
    have captures_p : capturing p = true := same.trans captures
    rw [if_pos captures, stopCapture_stops (by rw [ce]; exact free) captures_p]
    obtain ⟨closed, taken, halted, frame⟩ :=
      stopCut_closes captures_p (p.ce.staging.filter fun x => x.stamp != p.time)
    have after := endRuns_ce (stopCut (handleSamples (p.ce.staging.filter fun x => x.stamp != p.time) (samplingStopped p)))
    have alone := endRuns_alone (stopCut (handleSamples (p.ce.staging.filter fun x => x.stamp != p.time) (samplingStopped p)))
    have runs := endRuns_frame (stopCut (handleSamples (p.ce.staging.filter fun x => x.stamp != p.time) (samplingStopped p)))
    have idle := endRuns_closing closed.1
    rw [← stopSampling_eq] at after alone runs idle
    refine ⟨?_, ?_, ?_, ?_, fun run => ?_, idle, fun o line fresh record handled ticks within => ?_,
      fun n line fresh none_open handled none_queued current => ?_,
      (((begun.mono (by decide)).trans (frame.mono (by decide))).trans (runs.mono (by decide))).trans
        ((putReply_frame _ _ _).mono (by decide))⟩
    · exact (congrArg Ce.engine after).trans closed.1
    · exact (congrArg Ce.stopTaken after).trans taken
    · exact (congrArg Ce.staging after).trans closed.2.1
    · exact (congrArg Ce.openRecord after).trans closed.2.2
    · rw [putReply_ts, alone.ts, halted, ts, haltTs, if_pos run]
    · have cut := stopCut_record (s := p) (o := o) captures_p (by rw [ce]; exact record)
        (by rw [ce]; omega) (by rw [ce]; exact fresh) (by rw [time]; exact within) (.inl (by rw [time]; exact ticks))
      have stopped := stopSampling_none_staged (s := p) (by rw [ce]; exact line)
      rw [putReply_ce, stopped, endRuns_ce, cut, enterClosing_eq, time]
      refine ⟨rfl, rfl, (feedQueue_append _ _).trans ?_⟩
      rw [← ce]
      rfl
    · have cut := stopCut_empty (s := p) (n := n) captures_p (by rw [ce]; exact none_open) (by rw [ce]; exact handled)
        (by rw [ce]; exact fresh) (by rw [ce]; exact current)
      have stopped := stopSampling_none_staged (s := p) (by rw [ce]; exact line)
      have started := (endRuns_alone (stopCut (samplingStopped p))).current n
      rw [cut] at started
      obtain ⟨lost, own⟩ := started (by rw [enterClosing_eq]; exact (congrArg Ce.segment ce).trans current)
      have empty : p.ce.queue = [] := by rw [ce]; exact none_queued
      have start := (modifySegment_segment n n (fun g => { g with startTime := some p.time }) (samplingStopped p)).trans
        (if_pos rfl)
      rw [putReply_ce, putReply_segments, stopped, endRuns_ce, cut, own, enterClosing_eq, time]
      refine ⟨rfl, rfl, ?_, ?_, ?_⟩
      · exact congrArg (fun q => (feedQueue q []).1) empty
      · exact congrArg (fun q => (feedQueue q []).2) empty
      · rw [← time]
        exact congrArg SegmentStatus.startTime start
  · intro x o n waits held taken line record current within short normal fresh room more
    have captures : capturing s = true := capturing_iff.2 (by rcases waits with e | e <;> simp [e])
    generalize popped rest s = p at begun ce ts segments gen time same ⊢
    have captures_p : capturing p = true := same.trans captures
    have free : s.ce.queue.length < slotsOf (closedRecord o (elapsed x.stamp o.start)) := by
      unfold slotsOf
      split <;> omega
    have forced := forceNewest_one (s := p) (x := x) (n := n) (o := o) captures_p
      (by rw [ce]; exact current) (by rw [ce]; exact line) (by rw [ce]; exact record) within (by rw [ce]; exact fresh)
      (by rw [ce]; exact free) (by rw [ce]; exact more)
    have moved : ChangesOnly [.ce, .ts] p (withLine [] (withTs (forceTs (some x.stamp) p.ts) p)) :=
      update_ce_ts p { p.ce with staging := [] } (forceTs (some x.stamp) p.ts) rfl ⟨rfl, rfl, rfl⟩
    have released : releaseForce p = forceNewest p := if_pos (by rw [ce]; exact ⟨held, taken⟩)
    have forced_frame := (moved.mono (by decide)).trans
      (forcedAt_frame x n [closedRecord o (elapsed x.stamp o.start)] (withLine [] (withTs (forceTs (some x.stamp) p.ts) p)))
    generalize hf : forcedAt x n [closedRecord o (elapsed x.stamp o.start)]
      (withLine [] (withTs (forceTs (some x.stamp) p.ts) p)) = f at forced forced_frame
    have triggered : capturing f = true := by
      rw [← hf]
      rfl
    have whole : stopCapture p = endRuns (stopCut (samplingStopped f)) := by
      unfold stopCapture
      dsimp only
      rw [released, forced, if_pos triggered]
      exact stopSampling_none_staged (by rw [← hf]; rfl)
    have cut := stopCut_record (s := f) (o := openAt p true x) triggered (by rw [← hf]; rfl)
      (by rw [← hf]; exact Nat.succ_ne_zero _) (by rw [← hf]; exact (congrArg Ce.episode ce).trans fresh)
      (by rw [← hf]; show elapsed p.time x.stamp ≤ _; rw [time]; exact short) (.inr rfl)
    have closed_frame : ChangesOnly [.ce, .ts] f (stopCut (samplingStopped f)) := by
      rw [cut]
      exact (samplingStopped_frame f).trans (enterClosing_frame _ _ _ _)
    have at_time : f.time = s.time := (forced_frame .time (by decide)).trans time
    have alone := endRuns_alone (stopCut (samplingStopped f))
    have segment : (stopCut (samplingStopped f)).ce.segment = some n := by
      rw [cut, enterClosing_eq, ← hf]
      exact (congrArg Ce.segment ce).trans current
    obtain ⟨lost, own⟩ := alone.current n segment
    have kept : (stopCut (samplingStopped f)).segments = f.segments := by
      rw [cut]
      rfl
    rw [if_pos captures, whole]
    refine ⟨?_, ?_, ?_, ?_, ?_, ?_, ?_, ?_⟩
    · rw [putReply_ce, endRuns_ce, cut, enterClosing_eq]
    · rw [putReply_ce, endRuns_ce, cut, enterClosing_eq]
    · rw [putReply_ce, endRuns_ce, cut, enterClosing_eq, at_time]
    · rw [putReply_ce, endRuns_ce, cut, enterClosing_eq, at_time]
      refine (feedQueue_append _ _).trans ?_
      rw [← hf, ← ce]
      refine (List.append_assoc p.ce.queue [closedRecord o (elapsed x.stamp o.start)] _).trans ?_
      rw [closedRecord, normal]
      rfl
    · rw [putReply_segments, own, kept, ← hf, forcedAt_segment]
    · rw [putReply_segments, own, kept, ← hf, forcedAt_segment]
    · rw [putReply_gen, same_gen alone.frame (by decide) (by decide) (by decide),
        same_gen closed_frame (by decide) (by decide) (by decide), ← hf, ← gen]
      exact triggerGenerator_begins p.gen
    · exact ((((begun.mono (by decide)).trans (forced_frame.mono (by decide))).trans (closed_frame.mono (by decide))).trans
        ((endRuns_frame _).mono (by decide))).trans ((putReply_frame _ _ _).mono (by decide))

end Sys2Proof.Machine
end

section
/-! SUPPORT. The sampler with room in the staging line, and examinations without a sample (R11, R12, R20, R36). -/

namespace Sys2Proof.Machine

section

variable {s : State}

theorem stageSample_room (room : s.ce.staging.length < 16) (x : Sample) :
    stageSample x s = withLine (s.ce.staging ++ [x]) s := by
  have short : ¬Config.stagingDepth < (s.ce.staging ++ [x]).length := by
    rw [List.length_append, List.length_singleton]
    exact not_lt.2 room
  exact if_neg short

/-- In state capture an examination without a qualifying edge takes no sample (R12). -/
theorem sampleNow_none (state : s.ce.table.mode = .state) (unqualified : ∀ old, s.ce.clock = some old →
    qualifies s.ce.table.clockEdge old ((sampleLevels s).getLsbD s.ce.table.clockChannel) = false) :
    sampleNow s = none := by
  unfold sampleNow
  dsimp only
  rw [state]
  dsimp only
  cases clock : s.ce.clock with
  | none => rfl
  | some old => exact if_neg (Bool.eq_false_iff.1 (unqualified old clock))

theorem exec_sample_examines (quiet : Quiet s) (due : s.ce.nextTick = s.time) (captures : capturing s = true)
    (state : s.ce.table.mode = .state) (unqualified : ∀ old, s.ce.clock = some old →
      qualifies s.ce.table.clockEdge old ((sampleLevels s).getLsbD s.ce.table.clockChannel) = false) :
    exec .sample s = .next (examineOnly (releaseForce s)) := by
  change execSample s = _
  unfold execSample sampleTick
  rw [if_pos (sampleDue_now due captures), settle_quiet quiet]
  unfold sampleTaken
  dsimp only
  rw [sampleNow_none state unqualified]
  rfl

theorem examineOnly_frame (s : State) : ChangesOnly [.ce] s (examineOnly s) := update_ce _ _ rfl

/-- The next tick of the sampler, in timing and in state capture. -/
theorem nextTick_eq (due : s.ce.nextTick = s.time) : addTicks s.ce.nextTick (samplerStep s.ce.table) =
    s.time + BitVec.ofNat 48 (if s.ce.table.mode = .timing then s.ce.table.divisor
      else if s.ce.table.width = .narrow then 1 else 2) := by
  rw [due, samplerStep_eq, addTicks]

theorem nextTick_state (due : s.ce.nextTick = s.time) (state : s.ce.table.mode = .state) :
    addTicks s.ce.nextTick (samplerStep s.ce.table) =
      s.time + BitVec.ofNat 48 (if s.ce.table.width = .narrow then 1 else 2) := by
  rw [nextTick_eq due, if_neg (by rw [state]; decide)]

/-- The sampler of a staging line with room: the first statement of O17. -/
theorem exec_sample_room (quiet : Quiet s) (waits : s.ce.engine = .preFill ∨ s.ce.engine = .armed)
    (free : s.ce.heldForce = false) (due : s.ce.nextTick = s.time) (room : s.ce.staging.length < 16) (takes : Takes s) :
    ∃ t, exec .sample s = .next t ∧
      t.ce = { s.ce with
        staging := s.ce.staging ++ [{ stamp := s.time, levels := sampleLevels s }]
        taken := s.ce.taken + 1
        nextTick := s.time + BitVec.ofNat 48 (if s.ce.table.mode = .timing then s.ce.table.divisor
          else if s.ce.table.width = .narrow then 1 else 2)
        clock := some ((sampleLevels s).getLsbD s.ce.table.clockChannel) } ∧
      t.sm.stamps = (s.time :: s.sm.stamps).take 17 ∧ LanesDecode (sampleLevels s) s t ∧
      ChangesOnly [.ce, .sm, .lanes, .ts, .segments, .notices] s t := by
  have captures : capturing s = true := capturing_iff.2 (by rcases waits with e | e <;> simp [e])
  have not_met : s.ce.engine ≠ .triggered := by rcases waits with e | e <;> rw [e] <;> decide
  have step := exec_sample_take quiet due captures takes (ceSample_gen free (.inr ⟨not_met, room⟩) _)
  have engine : ceSample (sampleHere s) (advanceSampler (sampleLevels s) s) =
      withLine (s.ce.staging ++ [sampleHere s]) (takenOne (sampleLevels s) s) := by
    rw [ceSample_staged _ _ free not_met]
    exact stageSample_room (s := takenOne (sampleLevels s) s) room _
  have kept : ChangesOnly [.ce] s (withLine (s.ce.staging ++ [sampleHere s]) (takenOne (sampleLevels s) s)) :=
    update_ce s _ rfl
  obtain ⟨alone, decodes, -, frame⟩ := sample_after engine rfl (kept.mono (by decide))
  have stamps := (takeSample_ce (sampleHere s) (advanceSampler (sampleLevels s) s)).2
  rw [engine] at stamps
  refine ⟨_, step, alone.ce.trans ?_, congrArg Sm.stamps stamps,
    decodes (by rcases waits with e | e <;> exact fun closing => absurd (e.symm.trans closing) (by decide)), frame⟩
  rw [← nextTick_eq due]
  rfl

/-- An examination without a sample: the second statement of O17. -/
theorem exec_sample_nothing (quiet : Quiet s) (captures : capturing s = true)
    (free : s.ce.heldForce = false ∨ s.ce.taken = 0) (due : s.ce.nextTick = s.time) (state : s.ce.table.mode = .state)
    (unqualified : ∀ old, s.ce.clock = some old →
      qualifies s.ce.table.clockEdge old ((sampleLevels s).getLsbD s.ce.table.clockChannel) = false) :
    exec .sample s = .next { s with ce := { s.ce with
      nextTick := s.time + BitVec.ofNat 48 (if s.ce.table.width = .narrow then 1 else 2)
      clock := some ((sampleLevels s).getLsbD s.ce.table.clockChannel) } } := by
  have nothing : releaseForce s = s := releaseForce_free free
  rw [exec_sample_examines quiet due captures state unqualified, nothing, ← nextTick_state due state]
  rfl

/-- A FORCE held for a sample that does not come: the third statement of O17. -/
theorem exec_sample_forces {x : Sample} {o : OpenRecord} {n : Fin 32} (quiet : Quiet s)
    (waits : s.ce.engine = .preFill ∨ s.ce.engine = .armed) (held : s.ce.heldForce = true) (taken : s.ce.taken ≠ 0)
    (due : s.ce.nextTick = s.time) (state : s.ce.table.mode = .state)
    (unqualified : ∀ old, s.ce.clock = some old →
      qualifies s.ce.table.clockEdge old ((sampleLevels s).getLsbD s.ce.table.clockChannel) = false)
    (line : s.ce.staging = [x]) (record : s.ce.openRecord = some o) (current : s.ce.segment = some n)
    (within : elapsed x.stamp o.start ≤ 16777215) (normal : o.triggerPoint = false) (fresh : s.ce.episode = none)
    (room : s.ce.queue.length < 510) (more : s.ce.post ≠ 0) :
    ∃ t, exec .sample s = .next t ∧ t.ce = { s.ce with
        nextTick := s.time + BitVec.ofNat 48 (if s.ce.table.width = .narrow then 1 else 2)
        clock := some ((sampleLevels { s with gen := t.gen }).getLsbD s.ce.table.clockChannel)
        engine := .triggered, staging := [], heldForce := false, handled := s.ce.handled + 1
        previous := some x.levels, endIndex := some (s.ce.handled + s.ce.post), lastValue := o.value
        queue := s.ce.queue ++ [{
          value := o.value, duration := elapsed x.stamp o.start, triggerPoint := false
          continuation := o.continuation, gap := false, loop := o.loop }]
        openRecord := some { value := x.levels, start := x.stamp, triggerPoint := true
                             continuation := false, loop := s.ce.table.loop } } ∧
      t.ts = { s.ts with run := .fired, triggerTime := some x.stamp, triggerCause := some .forced } ∧
      t.segments = s.segments.set n { s.segments[n] with
        triggerTime := some x.stamp, triggerCause := some .forced } ∧
      BurstsBegun s.gen t.gen ∧ raised (.triggered n x.stamp .forced) s t ∧
      ChangesOnly [.ce, .ts, .segments, .genOutputs, .loopCounter, .notices] s t := by
  have captures : capturing s = true := capturing_iff.2 (by rcases waits with e | e <;> simp [e])
  have free : s.ce.queue.length < slotsOf (closedRecord o (elapsed x.stamp o.start)) := by
    unfold slotsOf
    split <;> omega
  have forced := forceNewest_one captures current line record within fresh free more
  have released : releaseForce s = forceNewest s := if_pos ⟨held, taken⟩
  have moved : ChangesOnly [.ce, .ts] s (withLine [] (withTs (forceTs (some x.stamp) s.ts) s)) :=
    update_ce_ts s { s.ce with staging := [] } (forceTs (some x.stamp) s.ts) rfl ⟨rfl, rfl, rfl⟩
  have frame := (moved.mono (by decide)).trans
    (forcedAt_frame x n [closedRecord o (elapsed x.stamp o.start)] (withLine [] (withTs (forceTs (some x.stamp) s.ts) s)))
  have closed : closedRecord o (elapsed x.stamp o.start) = {
      value := o.value, duration := elapsed x.stamp o.start, triggerPoint := false
      continuation := o.continuation, gap := false, loop := o.loop } := by rw [closedRecord, normal]
  have step := exec_sample_examines quiet due captures state unqualified
  rw [released, forced, closed] at step
  rw [closed] at frame
  refine ⟨_, step, ?_, rfl, rfl, triggerGenerator_begins s.gen,
    raised_of_same (u := withLine [] (withTs (forceTs (some x.stamp) s.ts) s)) rfl rfl rfl,
    frame.trans ((examineOnly_frame _).mono (by decide))⟩
  rw [← nextTick_state due state]
  rfl

end

end Sys2Proof.Machine
end

section
/-! SUPPORT. The deglitch filter, and the symbols of the four decoders (R91, R94 to R108). -/

namespace Sys2Proof.Machine

/-! ### The deglitch filter (R91) -/

section

variable {e : LaneEntry} {period : Nat} {x y : Sample} {ahead : List Sample} {l : Lane}

theorem nextReleased_waits (split : l.window ++ [x] = y :: ahead) (few : ahead.length + 1 < max 1 e.deglitch) :
    nextReleased e period x l = none := by
  rw [nextReleased_eq split, if_neg (not_le.2 few)]

/-- A bit of the filtered levels: a change is taken where it holds in every sample of the span. -/
theorem filteredLevels_getLsbD (f : Word) (k : Fin 32) : (filteredLevels (some f) y ahead).getLsbD k =
    if ∀ z ∈ ahead, z.levels.getLsbD k = y.levels.getLsbD k then y.levels.getLsbD k else f.getLsbD k := by
  have held : ((ahead.all fun q => q.levels.getLsbD k == y.levels.getLsbD k) = true) ↔
      ∀ z ∈ ahead, z.levels.getLsbD k = y.levels.getLsbD k := by simp
  unfold filteredLevels
  rw [BitVec.getLsbD_xor, BitVec.getLsbD_and, BitVec.getLsbD_xor, agreeing_getLsbD]
  split
  · next holds =>
    rw [held.2 holds]
    cases y.levels.getLsbD k <;> cases f.getLsbD k <;> rfl
  · next fails =>
    rw [Bool.eq_false_iff.2 fun all => fails (held.1 all)]
    cases y.levels.getLsbD k <;> cases f.getLsbD k <;> rfl

theorem nextReleased_releases (split : l.window ++ [x] = y :: ahead) (enough : max 1 e.deglitch ≤ ahead.length + 1) :
    ∃ r, nextReleased e period x l = some r ∧ r.stamp = y.stamp ∧ r.period = period ∧ r.previous = l.filtered ∧
      (e.deglitch ≤ 1 ∨ l.filtered = none → r.current = y.levels) ∧
      ∀ (f : Word) (k : Fin 32) (holds : Prop), 2 ≤ e.deglitch → l.filtered = some f →
        (holds ↔ ∀ z ∈ ahead.take (e.deglitch - 1), z.levels.getLsbD k = y.levels.getLsbD k) →
        (holds → r.current.getLsbD k = y.levels.getLsbD k) ∧ (¬holds → r.current.getLsbD k = f.getLsbD k) := by
  refine ⟨_, (nextReleased_eq split).trans (if_pos enough), rfl, rfl, rfl, fun plain => ?_,
    fun f k holds span filtered hholds => ?_⟩
  · by_cases short : e.deglitch ≤ 1
    · exact if_pos short
    · refine (if_neg short).trans ?_
      rw [plain.resolve_left short]
      rfl
  · have levels : (if e.deglitch ≤ 1 then y.levels
        else filteredLevels l.filtered y (ahead.take (e.deglitch - 1))) =
        filteredLevels (some f) y (ahead.take (e.deglitch - 1)) := by
      rw [if_neg (by omega), filtered]
    dsimp only
    rw [levels, filteredLevels_getLsbD]
    exact ⟨fun held => if_pos (hholds.1 held), fun departs => if_neg fun all => departs (hholds.2 all)⟩

end

/-! ### Async (R95 to R97) -/

theorem lsbValue_cons (b : Bool) (bits : List Bool) : lsbValue (b :: bits) = Nat.bit b (lsbValue bits) := by
  rw [lsbValue, Nat.bit_val]
  cases b <;> simp [flag, Nat.add_comm]

theorem lsbValue_lt (bits : List Bool) : lsbValue bits < 2 ^ bits.length := by
  induction bits with
  | nil => decide
  | cons b bits ih =>
    rw [lsbValue_cons, List.length_cons, Nat.pow_succ, Nat.bit_val]
    cases b
    · simp only [Bool.toNat_false]
      omega
    · simp only [Bool.toNat_true]
      omega

theorem lsbValue_testBit (bits : List Bool) (i : Nat) : (lsbValue bits).testBit i = bits.getD i false := by
  induction bits generalizing i with
  | nil => simp [lsbValue]
  | cons b bits ih =>
    rw [lsbValue_cons]
    cases i with
    | zero => exact Nat.testBit_bit_zero b _
    | succ i => exact (Nat.testBit_bit_succ i b _).trans (ih i)

section

variable {p : AsyncParams} {t0 : Time} {cells : List Bool}

theorem characterSymbol_break (low : ∀ b ∈ cells, b ≠ p.idleHigh) : characterSymbol p t0 cells =
    { kind := .brk, value := 0, start := t0, stop := asyncInstant p t0 (asyncCells p - 1), tags := 0 } := by
  have all_low : (cells.all (· == !p.idleHigh)) = true := by
    rw [List.all_eq_true]
    intro b member
    have other := low b member
    revert other
    cases b <;> cases p.idleHigh <;> decide
  unfold characterSymbol
  dsimp only
  rw [if_pos all_low]

/-- The bits of a character in the order of their weights (R96). -/
def dataBitsOf (p : AsyncParams) (cells : List Bool) : List Bool := (cells.drop 1).take p.dataBits

theorem characterSymbol_data (high : ∃ b ∈ cells, b = p.idleHigh) : characterSymbol p t0 cells =
    { kind := .data
      value := lsbValue (if p.msbFirst then (dataBitsOf p cells).reverse else dataBitsOf p cells)
      start := t0, stop := asyncInstant p t0 (asyncCells p - 1)
      tags := tagIf (!parityMatches p.parity (dataBitsOf p cells) (cells.getD (1 + p.dataBits) false)) tagParity |||
        tagIf (!(cells.drop (asyncCells p - p.stopBits)).all (· == p.idleHigh)) tagFraming } := by
  have not_low : ¬(cells.all (· == !p.idleHigh)) = true := fun all_low => by
    obtain ⟨b, member, idle⟩ := high
    have low := List.all_eq_true.1 all_low b member
    rw [idle] at low
    revert low
    cases p.idleHigh <;> decide
  unfold characterSymbol
  dsimp only
  rw [if_neg not_low]
  rfl

theorem parityMatches_iff (m : Parity) (data : List Bool) (cell : Bool) : parityMatches m data cell = true ↔
    (m = .even → (data.count true + flag cell) % 2 = 0) ∧ (m = .odd → (data.count true + flag cell) % 2 = 1) ∧
      (m = .mark → cell = true) ∧ (m = .space → cell = false) := by
  have ones : (data.filter id).length = data.count true := by
    rw [List.count, List.countP_eq_length_filter]
    congr 1
    refine List.filter_congr fun b _ => ?_
    cases b <;> rfl
  unfold parityMatches
  rw [ones]
  cases m <;> simp

/-- The value of a character, bit by bit: its first data cell is the least or the most significant bit (R96). -/
theorem character_bits {data : List Bool} {msbFirst : Bool} {count : Nat} (length : data.length = count) :
    lsbValue (if msbFirst then data.reverse else data) < 2 ^ count ∧
      ∀ i < count, (lsbValue (if msbFirst then data.reverse else data)).testBit
        (if msbFirst then count - 1 - i else i) = data.getD i false := by
  subst length
  cases msbFirst with
  | false => exact ⟨lsbValue_lt data, fun i _ => lsbValue_testBit data i⟩
  | true =>
    refine ⟨by simpa using lsbValue_lt data.reverse, fun i inside => ?_⟩
    have place : data.length - 1 - i < data.reverse.length := by
      rw [List.length_reverse]
      omega
    rw [if_pos rfl, if_pos rfl, lsbValue_testBit, List.getD_eq_getElem _ _ place, List.getElem_reverse,
      List.getD_eq_getElem _ _ inside]
    congr 1
    omega

end

section

variable {e : LaneEntry} {x : LaneSample} {d : Decoder}

/-- The last cell of a character emits it (R95). -/
theorem async_last {p : AsyncParams} {t0 : Time} {cells : List Bool} (kind : e.kind = .async p)
    (receives : d.async = .receiving t0 cells) (begun : cells ≠ [])
    (last : cells.length + 1 = asyncCells p) (due : inPeriod x (asyncInstant p t0 cells.length) = true) :
    (kindStep e x d).symbols = [characterSymbol p t0 (cells ++ [levelOf x.current p.data])] := by
  rw [kindStep, kind]
  unfold asyncStep
  dsimp only
  rw [receives]
  dsimp only
  rw [if_pos due, if_neg (by simp [begun]), if_pos (by simp [last])]

/-- Two tags, each where its condition fails. -/
theorem two_tags {a b : Bool} {P Q : Prop} (ha : a = true ↔ P) (hb : b = true ↔ Q) :
    (P → Q → tagIf (!a) tagParity ||| tagIf (!b) tagFraming = 0) ∧
    (¬P → Q → tagIf (!a) tagParity ||| tagIf (!b) tagFraming = 1) ∧
    (P → ¬Q → tagIf (!a) tagParity ||| tagIf (!b) tagFraming = 2) ∧
    (¬P → ¬Q → tagIf (!a) tagParity ||| tagIf (!b) tagFraming = 3) := by
  rw [← ha, ← hb]
  cases a <;> cases b <;> decide

theorem async_character {p : AsyncParams} {t0 stop : Time} {cells all data : List Bool} {ones : Nat} {parity : Bool}
    {parityOk stopsOk : Prop} (kind : e.kind = .async p) (receives : d.async = .receiving t0 cells) (begun : cells ≠ [])
    (hall : all = cells ++ [x.current.getLsbD p.data])
    (length : all.length = 1 + p.dataBits + (if p.parity = .none then 0 else 1) + p.stopBits)
    (hstop : stop = t0 + BitVec.ofNat 48 ((2 * cells.length + 1) * p.bq / 512)) (due : inPeriod x stop = true)
    (hdata : data = (all.drop 1).take p.dataBits) (hparity : parity = all.getD (1 + p.dataBits) false)
    (hones : ones = data.count true + flag parity)
    (hparityOk : parityOk ↔ (p.parity = .even → ones % 2 = 0) ∧ (p.parity = .odd → ones % 2 = 1) ∧
      (p.parity = .mark → parity = true) ∧ (p.parity = .space → parity = false))
    (hstopsOk : stopsOk ↔ ∀ b ∈ all.drop (all.length - p.stopBits), b = p.idleHigh) :
    ((∀ b ∈ all, b ≠ p.idleHigh) → (kindStep e x d).symbols =
      [{ kind := .brk, value := 0, start := t0, stop := stop, tags := 0 }]) ∧
    ((∃ b ∈ all, b = p.idleHigh) → ∃ y, (kindStep e x d).symbols = [y] ∧ y.kind = .data ∧
      y.start = t0 ∧ y.stop = stop ∧ y.value < 2 ^ p.dataBits ∧
      (∀ i < p.dataBits, y.value.testBit (if p.msbFirst then p.dataBits - 1 - i else i) =
        data.getD i false) ∧
      (parityOk → stopsOk → y.tags = 0) ∧ (¬parityOk → stopsOk → y.tags = 1) ∧
      (parityOk → ¬stopsOk → y.tags = 2) ∧ (¬parityOk → ¬stopsOk → y.tags = 3)) := by
  have cell_count : all.length = cells.length + 1 := by rw [hall, List.length_append, List.length_singleton]
  have count : all.length = asyncCells p := length
  have last : cells.length + 1 = asyncCells p := by omega
  have instant : asyncInstant p t0 (asyncCells p - 1) = stop := by
    rw [← last, hstop]
    rfl
  have symbol := async_last kind receives begun last (by rw [hstop] at due; exact due)
  rw [show cells ++ [levelOf x.current p.data] = all from hall.symm] at symbol
  rw [symbol]
  refine ⟨fun low => ?_, fun high => ?_⟩
  · rw [characterSymbol_break low, instant]
  · have bits := character_bits (data := data) (msbFirst := p.msbFirst) (count := p.dataBits) (by
      rw [hdata, List.length_take, List.length_drop]
      omega)
    have parity_iff : parityMatches p.parity data parity = true ↔ parityOk := by
      rw [parityMatches_iff, ← hones]
      exact hparityOk.symm
    have stops_iff : ((all.drop (asyncCells p - p.stopBits)).all (· == p.idleHigh)) = true ↔ stopsOk := by
      rw [hstopsOk, count, List.all_eq_true]
      simp
    obtain ⟨none_wrong, parity_wrong, stops_wrong, both_wrong⟩ := two_tags parity_iff stops_iff
    rw [characterSymbol_data high, instant, show dataBitsOf p all = data from hdata.symm, ← hparity]
    exact ⟨_, rfl, rfl, rfl, rfl, bits.1, bits.2, none_wrong, parity_wrong, stops_wrong, both_wrong⟩

/-! ### Clocked (R98, R99) -/

theorem appendBit_getLsbD (msbFirst : Bool) (bits : Nat) (v : Word) (b : Bool) {i : Nat} (inside : i < 32) :
    (appendBit msbFirst bits v b).getLsbD i =
      if msbFirst then if i = 0 then b else v.getLsbD (i - 1) else v.getLsbD i || i == bits && b := by
  unfold appendBit
  cases msbFirst
  · cases b
    · simp
    · by_cases place : i = bits
      · simp [place, place ▸ inside]
      · rw [if_neg Bool.false_ne_true, if_pos rfl, if_neg Bool.false_ne_true, BitVec.getLsbD_or,
          BitVec.getLsbD_shiftLeft, BitVec.getLsbD_one]
        rcases Nat.lt_or_gt_of_ne place with below | above
        · simp [place, below]
        · simp [place, show i - bits ≠ 0 by omega]
  · rw [if_pos rfl, if_pos rfl, BitVec.getLsbD_or, BitVec.getLsbD_shiftLeft]
    cases i with
    | zero => cases b <;> simp
    | succ i => cases b <;> simp [inside]

/-- An active edge in an open frame is taken. -/
theorem clocked_takes {p : ClockedParams} {w : Word} (was : x.previous = some w) (kind : e.kind = .clocked p)
    (is_open : d.frame.isOpen = true)
    (selected : ∀ k, p.select = some k → w.getLsbD k = p.selectHigh ∧ x.current.getLsbD k = p.selectHigh)
    (before : w.getLsbD p.clock = p.fallingEdge) (now : x.current.getLsbD p.clock = !p.fallingEdge) :
    kindStep e x d = { decoder := (takeEdge p x d).1, symbols := (takeEdge p x d).2, falseStarts := 0 } := by
  have edge := activeEdge_of_levels (p := p) was before now
  rw [kindStep, kind]
  unfold clockedStep
  dsimp only
  cases select : p.select with
  | none =>
    have takes : unselectedStep p x d = takeEdge p x d := (if_pos edge).trans (if_pos is_open)
    dsimp only
    rw [takes]
  | some k =>
    obtain ⟨was_selected, is_selected⟩ := selected k select
    have not_entered : ¬goes x k (!p.selectHigh) p.selectHigh = true := fun enters => by
      have other := ((goes_iff was).1 enters).1
      rw [was_selected] at other
      revert other
      cases p.selectHigh <;> decide
    have not_left : ¬goes x k p.selectHigh (!p.selectHigh) = true := fun leaves => by
      have other := ((goes_iff was).1 leaves).2
      rw [is_selected] at other
      revert other
      cases p.selectHigh <;> decide
    have takes : selectedStep p k x d = takeEdge p x d := by
      unfold selectedStep
      rw [if_neg not_entered, if_neg not_left, if_pos]
      rw [is_open, edge, levelOf, is_selected, beq_self_eq_true]
      rfl
    dsimp only
    rw [takes]

theorem clocked_bit {p : ClockedParams} {w a b : Word} {bitB : Bool} {first : Time} (was : x.previous = some w)
    (kind : e.kind = .clocked p) (is_open : d.frame.isOpen = true)
    (selected : ∀ k, p.select = some k → w.getLsbD k = p.selectHigh ∧ x.current.getLsbD k = p.selectHigh)
    (before : w.getLsbD p.clock = p.fallingEdge) (now : x.current.getLsbD p.clock = !p.fallingEdge)
    (hbitB : bitB = levelOr x.current false p.dataB)
    (ha : ∀ i < 32, a.getLsbD i = if p.msbFirst then
        if i = 0 then x.current.getLsbD p.dataA else d.clocked.a.getLsbD (i - 1)
      else d.clocked.a.getLsbD i || i == d.clocked.bits && x.current.getLsbD p.dataA)
    (hb : ∀ i < 32, b.getLsbD i = if p.msbFirst then
        if i = 0 then bitB else d.clocked.b.getLsbD (i - 1)
      else d.clocked.b.getLsbD i || i == d.clocked.bits && bitB)
    (hfirst : first = if d.clocked.bits = 0 then x.stamp else d.clocked.first) :
    (d.clocked.bits + 1 < p.wordSize → (kindStep e x d).symbols = [] ∧
      (kindStep e x d).decoder.clocked =
        { bits := d.clocked.bits + 1, a := a, b := b, first := first, last := x.stamp }) ∧
    (p.wordSize ≤ d.clocked.bits + 1 → (kindStep e x d).decoder.clocked.bits = 0 ∧
      (kindStep e x d).symbols =
        { kind := .data, value := a.toNat, start := first, stop := x.stamp, tags := 0 } ::
          (if p.dataB.isSome then
            [{ kind := .dataB, value := b.toNat, start := first, stop := x.stamp, tags := 0 }]
          else [])) := by
  have same_a : appendBit p.msbFirst d.clocked.bits d.clocked.a (levelOf x.current p.dataA) = a :=
    BitVec.eq_of_getLsbD_eq fun i inside => (appendBit_getLsbD _ _ _ _ inside).trans (ha i inside).symm
  have same_b : appendBit p.msbFirst d.clocked.bits d.clocked.b (levelOr x.current false p.dataB) = b := by
    rw [← hbitB]
    exact BitVec.eq_of_getLsbD_eq fun i inside => (appendBit_getLsbD _ _ _ _ inside).trans (hb i inside).symm
  have word : takeBit p x d.clocked = { bits := d.clocked.bits + 1, a := a, b := b, first := first, last := x.stamp } := by
    rw [takeBit, same_a, same_b, ← hfirst]
  rw [clocked_takes was kind is_open selected before now]
  unfold takeEdge
  dsimp only
  rw [word]
  refine ⟨fun more => ?_, fun full => ?_⟩
  · rw [if_neg (by exact not_le.2 more)]
    exact ⟨rfl, rfl⟩
  · rw [if_pos (by exact full)]
    refine ⟨rfl, ?_⟩
    unfold wordSymbols
    dsimp only
    split <;> rfl

/-! ### TwoWire (R102 to R104) -/

/-- A rise of the clock in an open frame takes a bit. -/
theorem twoWire_takes {p : TwoWireParams} {w : Word} (was : x.previous = some w) (kind : e.kind = .twoWire p)
    (is_open : d.frame.isOpen = true) (low : w.getLsbD p.clock = false) (high : x.current.getLsbD p.clock = true) :
    kindStep e x d = {
      decoder := { d with twoWire := (takeWireBit p x { d.twoWire with low := 0, marked := false }).1 }
      symbols := (takeWireBit p x { d.twoWire with low := 0, marked := false }).2, falseStarts := 0 } := by
  have level : levelOf x.current p.clock = true := high
  have unreached : ¬stretchReached p x d = true := by simp [stretchReached, level]
  have watched : watchClock p x d = { d with twoWire := { d.twoWire with low := 0, marked := false } } := by
    unfold watchClock
    dsimp only
    rw [if_neg unreached, if_pos level]
  have no_condition (f t : Bool) : ¬wireCondition p x f t = true := fun condition => by
    have clock := ((goes_iff was).1 (Bool.and_eq_true_iff.1 condition).2).1
    rw [low] at clock
    cases clock
  have rises : (d.frame.isOpen && goes x p.clock false true) = true := by
    rw [is_open, (goes_iff was).2 ⟨low, high⟩]
    rfl
  rw [kindStep, kind]
  unfold twoWireStep
  dsimp only
  rw [watched, if_neg (no_condition _ _), if_neg (no_condition _ _), if_pos (by exact rises)]

theorem placeTimeout_one (st : TwoWireState) (y : Emitted) :
    placeTimeout st [y] = [{ y with tags := y.tags ||| tagIf st.timeout tagTimeout }] := rfl

theorem twoWire_bit {p : TwoWireParams} {w : Word} {st : TwoWireState} {bit : Bool} {nack late : Byte}
    (was : x.previous = some w) (kind : e.kind = .twoWire p) (is_open : d.frame.isOpen = true)
    (low : w.getLsbD p.clock = false) (high : x.current.getLsbD p.clock = true) (hst : st = d.twoWire)
    (hbit : bit = x.current.getLsbD p.data) (hnack : nack = if bit then 0x20 else 0)
    (hlate : late = if st.timeout then 0x10 else 0) :
    (st.bits < 8 → (kindStep e x d).symbols = [] ∧
      (kindStep e x d).decoder.twoWire.bits = st.bits + 1 ∧
      (kindStep e x d).decoder.twoWire.value = 2 * st.value + flag bit) ∧
    (8 ≤ st.bits → (kindStep e x d).decoder.twoWire.bits = 0 ∧
      (st.expect = .data → (kindStep e x d).symbols = [{
        kind := .data, value := st.value, start := st.first, stop := x.stamp
        tags := nack ||| (if st.read then 0x80 else 0) ||| late }]) ∧
      (st.expect = .address → st.value / 8 ≠ 30 → (kindStep e x d).symbols = [{
        kind := .address, value := st.value / 2, start := st.first, stop := x.stamp
        tags := (if st.value % 2 = 1 then 0x80 else 0) ||| nack ||| late }]) ∧
      (st.expect = .address → st.value / 8 = 30 → (kindStep e x d).symbols = [] ∧
        (kindStep e x d).decoder.twoWire.expect = .second {
          start := st.first, upper := st.value / 2 % 4, read := decide (st.value % 2 = 1), nack := bit
          stop := x.stamp }) ∧
      (∀ k : KeptAddress, st.expect = .second k → (kindStep e x d).symbols = [{
        kind := .address, value := k.upper * 256 + st.value, start := k.start, stop := x.stamp
        tags := 0x40 ||| ((if k.read then 0x80 else 0) ||| (if k.nack || bit then 0x20 else 0)) |||
          late }])) := by
  subst hst
  rw [twoWire_takes was kind is_open low high]
  unfold takeWireBit
  dsimp only
  rw [show levelOf x.current p.data = bit from hbit.symm]
  refine ⟨fun few => ?_, fun full => ?_⟩
  · rw [if_neg (by exact not_le.2 few)]
    exact ⟨rfl, rfl, rfl⟩
  · rw [if_pos (by exact full)]
    unfold completeByte
    dsimp only
    have nack_tag : nack = tagIf bit tagNack := hnack
    have late_tag : late = tagIf d.twoWire.timeout tagTimeout := hlate
    rw [nack_tag, late_tag]
    cases expects : d.twoWire.expect with
    | data =>
      exact ⟨rfl, fun _ => rfl, fun other => (nomatch other), fun other => (nomatch other), fun k other => (nomatch other)⟩
    | second kept =>
      refine ⟨rfl, fun other => (nomatch other), fun other => (nomatch other), fun other => (nomatch other), fun k same => ?_⟩
      cases same
      rfl
    | address =>
      have read_tag : tagIf (d.twoWire.value % 2 == 1) tagRead = if d.twoWire.value % 2 = 1 then 0x80 else 0 := by
        unfold tagIf
        simp only [beq_iff_eq]
        rfl
      by_cases ten_bit : d.twoWire.value / 8 = 30
      · dsimp only
        rw [if_pos (by exact ten_bit)]
        exact ⟨rfl, fun other => (nomatch other), fun _ other => absurd ten_bit other, fun _ _ => ⟨rfl, rfl⟩,
          fun k other => (nomatch other)⟩
      · dsimp only
        rw [if_neg (by exact ten_bit), read_tag]
        exact ⟨rfl, fun other => (nomatch other), fun _ _ => rfl, fun _ other => absurd other ten_bit,
          fun k other => (nomatch other)⟩

/-! ### Strobed (R107, R108) -/

theorem strobe_tags_getLsbD (read late : Bool) (i : Nat) :
    (tagIf read tagRead ||| tagIf late tagTimeout).getLsbD i = true ↔ i = 7 ∧ read = true ∨ i = 4 ∧ late = true := by
  by_cases inside : i < 8
  · revert read late
    interval_cases i <;> decide
  · rw [BitVec.getLsbD_of_ge _ _ (not_lt.1 inside)]
    simp only [Bool.false_eq_true, false_iff]
    omega

theorem strobed_release {p : StrobedParams} {w : Word} {c : StrobeCycle} {late : Prop} (was : x.previous = some w)
    (kind : e.kind = .strobed p) (is_open : d.frame.isOpen = true) (cycle : d.strobed.data = some c)
    (low : w.getLsbD p.dataStrobe = false) (high : x.current.getLsbD p.dataStrobe = true)
    (alone : ∀ k, p.addressStrobe = some k → w.getLsbD k = true ∨ x.current.getLsbD k = false)
    (hlate : late ↔ ∃ k, p.wait = some k ∧ c.seen = false ∧ (p.limit < c.samples + 1 ∨ x.current.getLsbD k = true)) :
    ∃ y, (kindStep e x d).symbols = [y] ∧ y.kind = .data ∧ y.start = c.start ∧ y.stop = x.stamp ∧
      y.value = x.current.toNat / 2 ^ p.base.val % 2 ^ p.width ∧
      (∀ i, y.tags.getLsbD i = true ↔
        i = 7 ∧ (∃ k, p.direction = some k ∧ x.current.getLsbD k = true) ∨ i = 4 ∧ late) := by
  have opens : (!d.frame.isOpen && strobeGoes p x true false) = false := by rw [is_open]; rfl
  have address : (strobeStep p x .address p.addressStrobe d.strobed.address).2 = [] := by
    unfold strobeStep
    split
    · rfl
    · next k assigned =>
      have not_released : ¬goes x k false true = true := fun released => by
        obtain ⟨was_low, is_high⟩ := (goes_iff was).1 released
        rcases alone k assigned with was_high | is_low
        · rw [was_low] at was_high
          cases was_high
        · rw [is_high] at is_low
          cases is_low
      rw [if_neg not_released]
      split <;> rfl
  have data : (strobeStep p x .data (some p.dataStrobe) d.strobed.data).2 =
      [strobeSymbol p x .data (ageCycle p x c)] := by
    have not_fallen : ¬goes x p.dataStrobe true false = true := fun falls => by
      have was_high := ((goes_iff was).1 falls).1
      rw [low] at was_high
      cases was_high
    unfold strobeStep
    dsimp only
    rw [if_neg not_fallen, if_pos ((goes_iff was).2 ⟨low, high⟩), cycle]
    rfl
  have symbols : (kindStep e x d).symbols = [strobeSymbol p x .data (ageCycle p x c)] := by
    rw [kindStep, kind]
    unfold strobedStep
    dsimp only
    rw [opens, address, data]
    rfl
  have reads : levelOr x.current false p.direction = true ↔ ∃ k, p.direction = some k ∧ x.current.getLsbD k = true := by
    cases p.direction <;> simp [levelOr, levelOf]
  have times_out : (p.wait.isSome && !(ageCycle p x c).seen) = true ↔ late := by
    rw [hlate]
    unfold ageCycle waitActive
    cases p.wait with
    | none => simp
    | some k => simp [levelOr, levelOf]
  refine ⟨_, symbols, rfl, rfl, rfl, rfl, fun i => ?_⟩
  rw [← times_out, ← reads]
  exact strobe_tags_getLsbD _ _ i

end

/-- Settles O17: the sampler, the deglitch filter, and the symbols of the four decoders. -/
theorem samplerTakesASampleWhenItIsDue : Obligations.SamplerTakesASampleWhenItIsDue := by
  refine ⟨fun s quiet waits free due room takes => exec_sample_room quiet waits free due room takes,
    fun s quiet running free due state unqualified => ⟨_, exec_sample_nothing quiet (capturing_iff.2 running) free due state
      unqualified, rfl⟩, ?_, fun e period x y ahead l split => ⟨nextReleased_waits split, nextReleased_releases split⟩,
    fun e x d w was => ⟨?_, ?_, ?_, ?_⟩⟩
  · intro s x o n quiet waits held taken due state unqualified line record current within normal fresh room more
    exact exec_sample_forces quiet waits held taken due state unqualified line record current within normal fresh room more
  · intro p t0 stop cells all data ones parity parityOk stopsOk kind receives begun hall length hstop due hdata hparity
      hones hparityOk hstopsOk
    exact async_character kind receives begun hall length hstop due hdata hparity hones hparityOk hstopsOk
  · intro p a b bitB first kind is_open selected before now hbitB ha hb hfirst
    exact clocked_bit was kind is_open selected before now hbitB ha hb hfirst
  · intro p st bit nack late kind is_open low high hst hbit hnack hlate
    exact twoWire_bit was kind is_open low high hst hbit hnack hlate
  · intro p c late kind is_open cycle low high alone hlate
    exact strobed_release was kind is_open cycle low high alone hlate

end Sys2Proof.Machine
end

section
/-! SUPPORT. The pixels of texts and boxes (R142, R145 to R147, R157). -/

namespace Sys2Proof.Machine

/-! ### Runs of pixels -/

section

variable {a b : List PixelRun} {x y : Nat} {colour k : Byte}

theorem paints_nil : ¬paints [] x y k := fun ⟨_, member, _⟩ => (nomatch member)

theorem paints_append : paints (a ++ b) x y k ↔ paints a x y k ∨ paints b x y k := by
  simp only [paints, List.mem_append, or_and_right, exists_or]

theorem paints_cons (w : PixelRun) : paints (w :: b) x y k ↔ paints [w] x y k ∨ paints b x y k :=
  paints_append (a := [w])

theorem paints_onePixel (x₀ y₀ : Nat) : paints [onePixel x₀ y₀ colour] x y k ↔ k = colour ∧ x = x₀ ∧ y = y₀ := by
  unfold paints onePixel
  simp only [List.mem_singleton, exists_eq_left]
  constructor
  · rintro ⟨line, from_left, pixel⟩
    obtain ⟨inside, same⟩ := List.getElem?_eq_some_iff.1 pixel
    rw [List.length_singleton] at inside
    have place : x - x₀ = 0 := by omega
    simp only [place, List.getElem_cons_zero] at same
    exact ⟨same.symm, by omega, line.symm⟩
  · rintro ⟨rfl, rfl, rfl⟩
    exact ⟨rfl, le_rfl, by simp⟩

theorem paints_flatMap {α : Type} (xs : List α) (f : α → List PixelRun) :
    paints (xs.flatMap f) x y k ↔ ∃ i ∈ xs, paints (f i) x y k := by
  simp only [paints, List.mem_flatMap]
  constructor
  · rintro ⟨w, ⟨i, member, in_f⟩, place⟩
    exact ⟨i, member, w, in_f, place⟩
  · rintro ⟨i, member, w, in_f, place⟩
    exact ⟨w, ⟨i, member, in_f⟩, place⟩

theorem paints_map {α : Type} (xs : List α) (f : α → PixelRun) :
    paints (xs.map f) x y k ↔ ∃ i ∈ xs, paints [f i] x y k := by
  rw [List.map_eq_flatMap, paints_flatMap]

/-- One run along a line. -/
theorem paints_run (x₀ y₀ n : Nat) :
    paints [{ x := x₀, y := y₀, pixels := List.replicate n colour }] x y k ↔
      k = colour ∧ y = y₀ ∧ x₀ ≤ x ∧ x < x₀ + n := by
  unfold paints
  simp only [List.mem_singleton, exists_eq_left, List.getElem?_replicate]
  constructor
  · rintro ⟨line, from_left, pixel⟩
    split at pixel
    · exact ⟨(Option.some.inj pixel).symm, line.symm, from_left, by omega⟩
    · cases pixel
  · rintro ⟨rfl, rfl, from_left, inside⟩
    exact ⟨rfl, from_left, if_pos (by omega)⟩

end

/-! ### Texts (R145, R147, R157) -/

section

variable {x y : Nat} {colour k : Byte}

theorem paints_glyphPixels (g : BitVec 60) (x₀ y₀ : Nat) : paints (glyphPixels g x₀ y₀ colour) x y k ↔
    k = colour ∧ ∃ c < 6, ∃ l < 10, x = x₀ + c ∧ y = y₀ + l ∧ g.getLsbD (6 * l + c) = true := by
  unfold glyphPixels
  constructor
  · rintro ⟨w, member, place⟩
    obtain ⟨i, inside, pixel⟩ := List.mem_filterMap.1 member
    rw [List.mem_range] at inside
    split at pixel
    · next set_bit =>
      cases pixel
      obtain ⟨same, at_x, at_y⟩ := (paints_onePixel _ _).1 ⟨_, List.mem_singleton_self _, place⟩
      refine ⟨same, i % 6, by omega, i / 6, by omega, at_x, at_y, ?_⟩
      rw [show 6 * (i / 6) + i % 6 = i by omega]
      exact set_bit
    · cases pixel
  · rintro ⟨rfl, c, in_c, l, in_l, rfl, rfl, set_bit⟩
    obtain ⟨w, member, place⟩ := (paints_onePixel (colour := k) (k := k) (x₀ + c) (y₀ + l)).2 ⟨rfl, rfl, rfl⟩
    rw [List.mem_singleton] at member
    subst member
    refine ⟨_, List.mem_filterMap.2 ⟨6 * l + c, List.mem_range.2 (by omega), ?_⟩, place⟩
    rw [if_pos set_bit, show (6 * l + c) % 6 = c by omega, show (6 * l + c) / 6 = l by omega]

theorem glyphsCover_nil (table : Vector (BitVec 60) 64) (left top : Nat) : ¬glyphsCover table [] left top x y := by
  rintro ⟨i, glyph, at_i, _⟩
  simp at at_i

theorem glyphsCover_cons (table : Vector (BitVec 60) 64) (glyph : Fin 64) (glyphs : List (Fin 64)) (left top : Nat) :
    glyphsCover table (glyph :: glyphs) left top x y ↔
      (∃ c < 6, ∃ l < 10, x = left + c ∧ y = top + l ∧ table[glyph].getLsbD (6 * l + c) = true) ∨
        glyphsCover table glyphs (left + 6) top x y := by
  constructor
  · rintro ⟨i, q, at_i, c, in_c, l, in_l, at_x, at_y, set_bit⟩
    cases i with
    | zero =>
      simp only [List.getElem?_cons_zero, Option.some.injEq] at at_i
      subst at_i
      exact .inl ⟨c, in_c, l, in_l, at_x, at_y, set_bit⟩
    | succ i => exact .inr ⟨i, q, at_i, c, in_c, l, in_l, by omega, at_y, set_bit⟩
  · rintro (⟨c, in_c, l, in_l, at_x, at_y, set_bit⟩ | ⟨i, q, at_i, c, in_c, l, in_l, at_x, at_y, set_bit⟩)
    · exact ⟨0, glyph, rfl, c, in_c, l, in_l, at_x, at_y, set_bit⟩
    · exact ⟨i + 1, q, at_i, c, in_c, l, in_l, by omega, at_y, set_bit⟩

/-- A text sets the pixels that its glyphs cover. -/
theorem paints_textPixels (table : Vector (BitVec 60) 64) (top : Nat) (glyphs : List (Fin 64)) (left : Nat) :
    paints (textPixels table top colour (glyphs.map (·.val)) left) x y k ↔
      k = colour ∧ glyphsCover table glyphs left top x y := by
  induction glyphs generalizing left with
  | nil =>
    rw [List.map_nil, textPixels]
    exact ⟨fun painted => (paints_nil painted).elim, fun both => (glyphsCover_nil _ _ _ both.2).elim⟩
  | cons glyph glyphs ih =>
    have entry : table.toArray.getD glyph.val 0 = table[glyph] := by simp
    rw [List.map_cons, textPixels, paints_append, ih, paints_glyphPixels, entry, glyphsCover_cons, ← and_or_left]

end

/-! ### Hexadecimal digits (R145, R147) -/

theorem hexDigits_length (m n : Nat) : (hexDigits m n).length = m := by simp [hexDigits]

theorem hexDigits_getElem {m n i : Nat} (inside : i < (hexDigits m n).length) :
    (hexDigits m n)[i] = n / 16 ^ (m - 1 - i) % 16 := by simp [hexDigits]

/-- The glyphs of some hexadecimal digits are the digits' own. -/
theorem showsHex_iff {m n : Nat} {glyphs : List (Fin 64)} : showsHex m n glyphs ↔ glyphs.map (·.val) = hexDigits m n := by
  constructor
  · rintro ⟨length, digits⟩
    refine List.ext_getElem (by rw [List.length_map, length, hexDigits_length]) fun i inside inside_digits => ?_
    rw [List.length_map] at inside
    rw [List.getElem_map, hexDigits_getElem]
    exact digits i _ (List.getElem?_eq_getElem inside)
  · intro same
    have length : glyphs.length = m := by
      rw [← List.length_map (f := (·.val)), same, hexDigits_length]
    refine ⟨length, fun i glyph at_i => ?_⟩
    have at_digit : (hexDigits m n)[i]? = some glyph.val := by
      rw [← same, List.getElem?_map, at_i]
      rfl
    obtain ⟨inside, digit⟩ := List.getElem?_eq_some_iff.1 at_digit
    rw [← digit, hexDigits_getElem]

theorem showsHex_exists (m n : Nat) : ∃ glyphs, showsHex m n glyphs := by
  refine ⟨(hexDigits m n).map fun v => Fin.ofNat 64 v, showsHex_iff.2 ?_⟩
  rw [List.map_map]
  refine List.ext_getElem (List.length_map _) fun i _ inside => ?_
  rw [List.getElem_map, hexDigits_getElem inside]
  exact Nat.mod_eq_of_lt (by omega)

/-- A text of hexadecimal digits sets the pixels that their glyphs cover. -/
theorem paints_hexDigits (table : Vector (BitVec 60) 64) (top left m n : Nat) {x y : Nat} {colour k : Byte} :
    paints (textPixels table top colour (hexDigits m n) left) x y k ↔
      k = colour ∧ ∃ number, showsHex m n number ∧ glyphsCover table number left top x y := by
  obtain ⟨digits, shows⟩ := showsHex_exists m n
  have same := showsHex_iff.1 shows
  rw [← same, paints_textPixels]
  refine and_congr_right fun _ => ⟨fun covers => ⟨digits, shows, covers⟩, ?_⟩
  rintro ⟨number, also, covers⟩
  have equal : number = digits := List.map_injective_iff.2 Fin.val_injective ((showsHex_iff.1 also).trans same.symm)
  rw [← equal]
  exact covers

end Sys2Proof.Machine
end

section
/-! SUPPORT. The columns of a render (R139, R140, R144, R145). -/

namespace Sys2Proof.Machine

/-! ### The trace of a row in a column (R144, R145) -/

section

variable {sn : Snapshot} {used : List TimedRecord} {c : Nat} {p : PlacedRow}

theorem groupValue_testBit (m w : Word) (i : Nat) : (groupValue m w).testBit i =
    match ((List.range 32).filter fun k => m.getLsbD k)[i]? with
    | some k => w.getLsbD k
    | none => false := by
  have bits (bs : List Bool) : (groupValue.lsbNumber bs) = lsbValue bs := by
    induction bs with
    | nil => rfl
    | cons b bs ih => rw [groupValue.lsbNumber, lsbValue, ih]
  rw [groupValue, bits, lsbValue_testBit, List.getD_eq_getElem?_getD, List.getElem?_map]
  cases ((List.range 32).filter fun k => m.getLsbD k)[i]? <;> rfl

/-- The value that a Channel or Group row shows of the levels. -/
def Shows (p : PlacedRow) (value : Word → Nat) : Prop :=
  (∃ k : Fin 32, p.row.kind = .channel k ∧ ∀ w, value w = flag (w.getLsbD k)) ∨
    (∃ m : Word, p.row.kind = .group m ∧ ∀ (w : Word) (i : Nat), (value w).testBit i =
      match ((List.range 32).filter fun k => m.getLsbD k)[i]? with
      | some k => w.getLsbD k
      | none => false)

/-- A Channel or Group row sets the pixels of its column's reduction. -/
theorem rowTrace_of_shows {value : Word → Nat} (shows : Shows p value) :
    ∃ group, (group = true ↔ ∃ m, p.row.kind = .group m) ∧ (group = false ↔ ∃ k, p.row.kind = .channel k) ∧
      rowTrace sn used c p = columnPixels p group (reduceColumn sn used value c) (sn.view.left + c) := by
  rcases shows with ⟨k, kind, values⟩ | ⟨m, kind, values⟩
  · have same : value = fun w => flag (w.getLsbD k.val) := funext values
    refine ⟨false, by simp [kind], by simp [kind], ?_⟩
    rw [rowTrace, kind, same]
  · have same : value = groupValue m := funext fun w => Nat.eq_of_testBit_eq fun i =>
      (values w i).trans (groupValue_testBit m w i).symm
    refine ⟨true, by simp [kind], by simp [kind], ?_⟩
    rw [rowTrace, kind, same]

theorem mem_spanLines {y : Nat} : y ∈ spanLines p ↔ p.top + 1 ≤ y ∧ y ≤ p.top + p.row.height - 2 := by
  unfold spanLines
  rw [List.mem_map]
  constructor
  · rintro ⟨i, inside, rfl⟩
    rw [List.mem_range] at inside
    omega
  · rintro ⟨low, high⟩
    exact ⟨y - (p.top + 1), List.mem_range.2 (by omega), by omega⟩

/-- The reduction of a column (R140). -/
theorem reduceColumn_spec {value : Word → Nat} {r : TimedRecord} {starts changes : List (TimedRecord × TimedRecord)}
    {gap : Prop} (record : recordAt sn used (columnInstant sn c) = some r)
    (hstarts : starts = (neighbours used).filter fun q => timeColumn sn (relTime sn q.2.start) = .at c)
    (hchanges : changes = starts.filter fun q => value q.1.record.value ≠ value q.2.record.value)
    (hgap : gap ↔ r.record.gap = true ∧ ∀ q ∈ starts, relTime sn q.2.start ≤ columnInstant sn c) :
    (reduceColumn sn used value c).value = value r.record.value ∧
      (reduceColumn sn used value c).changes = min changes.length 2 ∧
      ((reduceColumn sn used value c).gap = true ↔ gap) := by
  have inside : ((neighbours used).filter fun q => timeColumn sn (recordStart sn q.2) == .at c) = starts := by
    rw [hstarts]
    rfl
  have differ : (starts.filter fun q => value q.1.record.value != value q.2.record.value) = changes := by
    rw [hchanges]
    exact List.filter_congr fun q _ => Bool.eq_iff_iff.2 (bne_iff_ne.trans decide_eq_true_iff.symm)
  unfold reduceColumn
  dsimp only
  rw [inside, differ, record]
  refine ⟨rfl, rfl, ?_⟩
  rw [hgap, Bool.and_eq_true, List.all_eq_true]
  exact and_congr_right fun _ => forall₂_congr fun q _ => decide_eq_true_iff

theorem columnPixels_gap {q : Reduced} {group : Bool} {x : Nat} {w : PixelRun} (gap : q.gap = true) :
    w ∈ columnPixels p group q x ↔ ∃ y, p.top + 1 ≤ y ∧ y ≤ p.top + p.row.height - 2 ∧
      (x + y) % 2 = 0 ∧ w = { x := x, y := y, pixels := [p.row.activity] } := by
  rw [columnPixels, if_pos gap]
  simp only [List.mem_map, List.mem_filter, mem_spanLines, onePixel, beq_iff_eq]
  constructor
  · rintro ⟨y, ⟨⟨low, high⟩, even⟩, rfl⟩
    exact ⟨y, low, high, even, rfl⟩
  · rintro ⟨y, low, high, even, rfl⟩
    exact ⟨y, ⟨⟨low, high⟩, even⟩, rfl⟩

/-- A stroke or a block along the row's span. -/
theorem mem_span_map {x : Nat} {colour : Byte} {w : PixelRun} :
    (w ∈ (spanLines p).map fun y => onePixel x y colour) ↔ ∃ y, p.top + 1 ≤ y ∧ y ≤ p.top + p.row.height - 2 ∧
      w = { x := x, y := y, pixels := [colour] } := by
  simp only [List.mem_map, mem_spanLines, onePixel]
  constructor
  · rintro ⟨y, ⟨low, high⟩, rfl⟩
    exact ⟨y, low, high, rfl⟩
  · rintro ⟨y, low, high, rfl⟩
    exact ⟨y, ⟨low, high⟩, rfl⟩

theorem columnPixels_still {q : Reduced} {group : Bool} {x : Nat} {w : PixelRun} (no_gap : q.gap ≠ true)
    (still : q.changes = 0) : w ∈ columnPixels p group q x ↔ ∃ y, w = { x := x, y := y, pixels := [p.row.line] } ∧
      (group = true ∧ (y = p.top + 1 ∨ y = p.top + p.row.height - 2) ∨
        group = false ∧ y = if q.value = 1 then p.top + 1 else p.top + p.row.height - 2) := by
  rw [columnPixels, if_neg no_gap, still]
  cases group
  · simp [onePixel, highLine, lowLine]
  · simp [onePixel, highLine, lowLine, and_or_left, exists_or]

theorem columnPixels_stroke {q : Reduced} {group : Bool} {x : Nat} {w : PixelRun} (no_gap : q.gap ≠ true)
    (one : q.changes = 1) : w ∈ columnPixels p group q x ↔ ∃ y, p.top + 1 ≤ y ∧ y ≤ p.top + p.row.height - 2 ∧
      w = { x := x, y := y, pixels := [p.row.line] } := by
  rw [columnPixels, if_neg no_gap, one]
  exact mem_span_map

theorem columnPixels_block {q : Reduced} {group : Bool} {x : Nat} {w : PixelRun} (no_gap : q.gap ≠ true)
    (many : q.changes = 2) : w ∈ columnPixels p group q x ↔ ∃ y, p.top + 1 ≤ y ∧ y ≤ p.top + p.row.height - 2 ∧
      w = { x := x, y := y, pixels := [p.row.activity] } := by
  rw [columnPixels, if_neg no_gap, many]
  exact mem_span_map

/-- What a Channel or Group row sets in a column: the second statement of O38. -/
theorem rowTrace_spec {x : Nat} {value : Word → Nat} {r : TimedRecord} {starts changes : List (TimedRecord × TimedRecord)}
    {gap : Prop} (shows : Shows p value) (hx : x = sn.view.left + c)
    (record : recordAt sn used (columnInstant sn c) = some r)
    (hstarts : starts = (neighbours used).filter fun q => timeColumn sn (relTime sn q.2.start) = .at c)
    (hchanges : changes = starts.filter fun q => value q.1.record.value ≠ value q.2.record.value)
    (hgap : gap ↔ r.record.gap = true ∧ ∀ q ∈ starts, relTime sn q.2.start ≤ columnInstant sn c) (w : PixelRun) :
    (gap → (w ∈ rowTrace sn used c p ↔ ∃ y, p.top + 1 ≤ y ∧ y ≤ p.top + p.row.height - 2 ∧
      (x + y) % 2 = 0 ∧ w = { x := x, y := y, pixels := [p.row.activity] })) ∧
    (¬gap → changes.length = 0 → (w ∈ rowTrace sn used c p ↔ ∃ y,
      w = { x := x, y := y, pixels := [p.row.line] } ∧
      ((∃ m, p.row.kind = .group m) ∧ (y = p.top + 1 ∨ y = p.top + p.row.height - 2) ∨
        (∃ k, p.row.kind = .channel k) ∧
          y = if value r.record.value = 1 then p.top + 1 else p.top + p.row.height - 2))) ∧
    (¬gap → changes.length = 1 → (w ∈ rowTrace sn used c p ↔ ∃ y, p.top + 1 ≤ y ∧
      y ≤ p.top + p.row.height - 2 ∧ w = { x := x, y := y, pixels := [p.row.line] })) ∧
    (¬gap → 2 ≤ changes.length → (w ∈ rowTrace sn used c p ↔ ∃ y, p.top + 1 ≤ y ∧
      y ≤ p.top + p.row.height - 2 ∧ w = { x := x, y := y, pixels := [p.row.activity] })) := by
  obtain ⟨group, is_group, is_channel, trace⟩ := rowTrace_of_shows (sn := sn) (used := used) (c := c) shows
  obtain ⟨reduced, count, wholly⟩ := reduceColumn_spec (value := value) record hstarts hchanges hgap
  rw [trace, ← hx, ← is_group, ← is_channel, ← wholly, ← reduced]
  refine ⟨columnPixels_gap, fun no_gap none_changes => columnPixels_still no_gap (by omega),
    fun no_gap one => columnPixels_stroke no_gap (by omega), fun no_gap many => columnPixels_block no_gap (by omega)⟩

end

end Sys2Proof.Machine
end

section
/-! SUPPORT. The stable runs of a Group row and their text (R145); the columns of a time (R139, R140). -/

namespace Sys2Proof.Machine

section

variable {sn : Snapshot} {used : List TimedRecord} {m : Word}

/-! ### Stable runs -/

/-- The columns from a first one up to one are a stable run that does not go on to the left. -/
def RunBetween (stable : Nat → Prop) (first stop : Nat) : Prop :=
  (∀ j, first ≤ j → j < stop → stable j) ∧ (first = 0 ∨ ¬stable (first - 1))

theorem runBetween_unique {stable : Nat → Prop} {first other stop : Nat} (one : RunBetween stable first stop)
    (two : RunBetween stable other stop) (hfirst : first < stop) (hother : other < stop) : first = other := by
  obtain ⟨inside, edge⟩ := one
  obtain ⟨inside', edge'⟩ := two
  rcases Nat.lt_trichotomy first other with less | same | more
  · exact absurd (inside (other - 1) (by omega) (by omega)) (edge'.resolve_left (by omega))
  · exact same
  · exact absurd (inside' (first - 1) (by omega) (by omega)) (edge.resolve_left (by omega))

theorem isStable_iff {c : Nat} : isStable sn used m c = true ↔ isDataColumn sn c = true ∧
    (reduceColumn sn used (groupValue m) c).gap = false ∧ (reduceColumn sn used (groupValue m) c).changes = 0 := by
  unfold isStable
  simp [and_assoc]

theorem runBefore_le (c : Nat) : runBefore sn used m c ≤ c := by
  induction c with
  | zero => exact Nat.le_refl 0
  | succ c ih =>
    rw [runBefore]
    split <;> omega

theorem runBefore_between (c : Nat) :
    RunBetween (fun j => isStable sn used m j = true) (c - runBefore sn used m c) c := by
  induction c with
  | zero => exact ⟨fun j _ below => absurd below (Nat.not_lt_zero j), .inl (Nat.zero_sub _)⟩
  | succ c ih =>
    obtain ⟨inside, edge⟩ := ih
    have within := runBefore_le (sn := sn) (used := used) (m := m) c
    rw [runBefore]
    split
    next stable =>
      rw [show c + 1 - (runBefore sn used m c + 1) = c - runBefore sn used m c by omega]
      refine ⟨fun j low below => ?_, edge⟩
      rcases Nat.lt_or_ge j c with before | same
      · exact inside j low before
      · obtain rfl : j = c := by omega
        exact stable
    next unstable =>
      exact ⟨fun j low below => by omega, .inr unstable⟩

/-- A stable run of one column or more before a column is the one that is counted there. -/
theorem runBetween_iff {first len : Nat} (some_columns : 0 < len) :
    RunBetween (fun j => isStable sn used m j = true) first (first + len) ↔ len = runBefore sn used m (first + len) := by
  have within := runBefore_le (sn := sn) (used := used) (m := m) (first + len)
  have counted := runBefore_between (sn := sn) (used := used) (m := m) (first + len)
  constructor
  · intro run
    rcases Nat.eq_zero_or_pos (runBefore sn used m (first + len)) with none_counted | some_counted
    · rw [none_counted, Nat.sub_zero] at counted
      exact absurd (run.1 (first + len - 1) (by omega) (by omega)) (counted.2.resolve_left (by omega))
    · have same := runBetween_unique run counted (by omega) (by omega)
      omega
  · intro same
    rwa [← same, Nat.add_sub_cancel] at counted

/-! ### Their text -/

variable {glyphs : Vector (BitVec 60) 64} {p : PlacedRow} {c digits x y : Nat} {k : Byte}

/-- The text of the stable run that ends before a column sets a pixel. -/
def RunShows (glyphs : Vector (BitVec 60) 64) (sn : Snapshot) (used : List TimedRecord) (p : PlacedRow) (m : Word)
    (stable : Nat → Prop) (digits x y : Nat) (stop : Nat) : Prop :=
  ∃ (first len : Nat) (number : List (Fin 64)), first + len = stop ∧ RunBetween stable first stop ∧
    1 ≤ digits ∧ 12 ≤ p.row.height ∧ 6 * digits + 2 ≤ len ∧
    showsHex digits (reduceColumn sn used (groupValue m) (first + len - 1)).value number ∧
    glyphsCover glyphs number (sn.view.left + first + (len - 6 * digits) / 2) (p.top + (p.row.height - 10) / 2) x y

theorem paints_runText (hdigits : digits = (((List.range 32).filter fun k => m.getLsbD k).length + 3) / 4) (stop : Nat) :
    paints (runText glyphs sn used p m stop) x y k ↔
      k = p.row.text ∧ RunShows glyphs sn used p m (fun j => isStable sn used m j = true) digits x y stop := by
  have within := runBefore_le (sn := sn) (used := used) (m := m) stop
  have run := runBefore_between (sn := sn) (used := used) (m := m) stop
  unfold runText
  dsimp only
  rw [← hdigits]
  split
  next fits =>
    obtain ⟨some_digits, high, wide⟩ := fits
    rw [paints_hexDigits]
    refine and_congr_right fun _ => ⟨?_, ?_⟩
    · rintro ⟨number, shows, covers⟩
      refine ⟨stop - runBefore sn used m stop, runBefore sn used m stop, number, Nat.sub_add_cancel within, run,
        some_digits, high, wide, ?_, covers⟩
      rwa [Nat.sub_add_cancel within]
    · rintro ⟨first, len, number, rfl, between, _, _, long, shows, covers⟩
      rw [← (runBetween_iff (by omega)).1 between, Nat.add_sub_cancel]
      exact ⟨number, shows, covers⟩
  next fails =>
    refine ⟨fun painted => (paints_nil painted).elim, ?_⟩
    rintro ⟨-, first, len, number, rfl, between, some_digits, high, long, -⟩
    rw [← (runBetween_iff (by omega)).1 between] at fails
    exact absurd ⟨some_digits, high, long⟩ fails

theorem paints_endedText : paints (endedText glyphs sn used p m c) x y k ↔
    (isStable sn used m c ≠ true ∧ paints (runText glyphs sn used p m c) x y k) ∨
      (isStable sn used m c = true ∧ isDataColumn sn (c + 1) = false ∧
        paints (runText glyphs sn used p m (c + 1)) x y k) := by
  have nothing : ¬paints ([] : List PixelRun) x y k := paints_nil
  unfold endedText
  rw [paints_append]
  cases stable : isStable sn used m c <;> cases next : isDataColumn sn (c + 1) <;> simp [nothing]

/-- The text a column of a Group row shows: the last statement of O38. -/
theorem paints_rowText {stable ends : Nat → Prop} (kind : p.row.kind = .group m)
    (hstable : ∀ j, stable j ↔ isDataColumn sn j = true ∧ (reduceColumn sn used (groupValue m) j).gap = false ∧
      (reduceColumn sn used (groupValue m) j).changes = 0)
    (hdigits : digits = (((List.range 32).filter fun k => m.getLsbD k).length + 3) / 4)
    (hends : ∀ j, ends j ↔ j = c ∧ ¬stable c ∨ j = c + 1 ∧ stable c ∧ isDataColumn sn (c + 1) = false) :
    paints (rowText glyphs sn used c p) x y k ↔
      k = p.row.text ∧ ∃ stop, ends stop ∧ RunShows glyphs sn used p m stable digits x y stop := by
  have same : stable = fun j => isStable sn used m j = true :=
    funext fun j => propext ((hstable j).trans isStable_iff.symm)
  subst same
  have text : rowText glyphs sn used c p = endedText glyphs sn used p m c := by
    rw [rowText, kind]
  rw [text, paints_endedText, paints_runText hdigits, paints_runText hdigits]
  simp only [hends]
  constructor
  · rintro (⟨unstable, rfl, shows⟩ | ⟨stable, last, rfl, shows⟩)
    · exact ⟨rfl, c, .inl ⟨rfl, unstable⟩, shows⟩
    · exact ⟨rfl, c + 1, .inr ⟨rfl, stable, last⟩, shows⟩
  · rintro ⟨rfl, stop, ⟨rfl, unstable⟩ | ⟨rfl, stable, last⟩, shows⟩
    · exact .inl ⟨unstable, rfl, shows⟩
    · exact .inr ⟨stable, last, rfl, shows⟩

/-! ### The column of a time -/

theorem isDataColumn_iff {c : Nat} : isDataColumn sn c = true ↔ c < sn.view.width ∧
    (c * sn.view.zoom : Nat) < (relEnd sn - sn.view.origin) * 256 ∧
    (relStart sn - sn.view.origin) * 256 < ((c + 1) * sn.view.zoom : Nat) := decide_eq_true_iff

theorem timeColumn_spec {t d : Int} (hd : d = (t - sn.view.origin) * 256) :
    (timeColumn sn t = .left ↔ t < sn.view.origin) ∧
    (timeColumn sn t = .right ↔ (sn.view.width * sn.view.zoom : Nat) ≤ d) ∧
    ∀ c : Nat, timeColumn sn t = .at c ↔ c < sn.view.width ∧ (c * sn.view.zoom : Nat) ≤ d ∧
      d < ((c + 1) * sn.view.zoom : Nat) := by
  subst hd
  exact ⟨columnOf_left.trans (by omega), columnOf_right, fun c => columnOf_at⟩

theorem relTimes_spec {r s e : Time} (reference : sn.reference = some r) (start : sn.startTime = some s)
    (stop : sn.endTime = some e) (time : Time) (c : Nat) : relTime sn time = timeDiff time r ∧
      relStart sn = timeDiff s r ∧ relEnd sn = timeDiff e r ∧
      columnInstant sn c = max (timeDiff s r) (sn.view.origin + (c * sn.view.zoom / 256 : Nat)) := by
  have relative (t : Time) : relTime sn t = timeDiff t r := by rw [relTime, reference, Option.getD_some]
  have from_start : relStart sn = timeDiff s r := by rw [relStart, start, relative, Option.getD_some]
  have to_end : relEnd sn = timeDiff e r := by rw [relEnd, stop, relative, Option.getD_some]
  exact ⟨relative time, from_start, to_end, by rw [columnInstant, from_start]⟩

end

end Sys2Proof.Machine
end

section
/-! SUPPORT. The reads of a render: positions overwritten (R143, R146), and the columns drawn so far (R141). -/

namespace Sys2Proof.Machine

/-! ### Positions overwritten -/

/-- A position is overwritten when it is one of those written in order after a newest one (R143, R146). -/
theorem overwritten_iff {capacity newest written position : Nat} (inside : position < capacity) :
    overwritten capacity newest written position = true ↔
      ∃ i < written, position = (newest + 1 + i) % capacity := by
  have small := Nat.mod_lt newest (Nat.zero_lt_of_lt inside)
  have residue : newest % capacity ≡ newest [MOD capacity] := Nat.mod_modEq newest capacity
  unfold overwritten
  rw [decide_eq_true_iff]
  generalize hback : position + 2 * capacity - newest % capacity - 1 = back
  have around : newest % capacity + 1 + back = position + capacity * 2 := by omega
  have circle : position + capacity * 2 ≡ position [MOD capacity] := Nat.add_mul_mod_self_left position capacity 2
  constructor
  · intro written_since
    refine ⟨back % capacity, written_since, ?_⟩
    have after : newest + 1 + back % capacity ≡ position [MOD capacity] :=
      calc newest + 1 + back % capacity
        _ ≡ newest % capacity + 1 + back [MOD capacity] := (residue.symm.add_right 1).add (Nat.mod_modEq back capacity)
        _ ≡ position [MOD capacity] := around ▸ circle
    exact (Nat.mod_eq_of_lt inside).symm.trans after.symm
  · rintro ⟨i, below, rfl⟩
    have same : newest % capacity + 1 + back ≡ newest % capacity + 1 + i [MOD capacity] :=
      calc newest % capacity + 1 + back
        _ ≡ (newest + 1 + i) % capacity [MOD capacity] := around ▸ circle
        _ ≡ newest + 1 + i [MOD capacity] := Nat.mod_modEq _ capacity
        _ ≡ newest % capacity + 1 + i [MOD capacity] := (residue.symm.add_right 1).add_right i
    calc back % capacity
      _ = i % capacity := same.add_left_cancel' (newest % capacity + 1)
      _ ≤ i := Nat.mod_le i capacity
      _ < written := below

/-! ### The columns drawn by the forward pass -/

/-- The data columns from one up to another. -/
def dataColumns (sn : Snapshot) (first stop : Nat) : List Nat :=
  (List.range' first (stop - first)).filter (isDataColumn sn)

/-- The columns among some in which a placed row sets a pixel. -/
def shownColumns (d : Draw) (columns : List Nat) : List Nat :=
  columns.filter fun c => !(d.placed.flatMap (rowTrace d.snapshot d.used c)).isEmpty

/-- A drawing with the columns drawn up to one. -/
def drawnTo (glyphs : Vector (BitVec 60) 64) (d : Draw) (stop : Nat) : Draw :=
  let columns := dataColumns d.snapshot d.nextColumn stop
  let shown := shownColumns d columns
  { d with
    writes := d.writes ++ columns.flatMap fun c => d.placed.flatMap (rowColumn glyphs d.snapshot d.used c)
    firstColumn := d.firstColumn.or shown.head?
    lastColumn := shown.getLast?.or d.lastColumn
    nextColumn := stop }

/-- The records of a column are read once its end is at or before a time, where there is one (R141). -/
def columnRead (sn : Snapshot) (upTo : Option Int) (c : Nat) : Bool :=
  match upTo with
  | some t => decide (((c + 1) * sn.view.zoom : Nat) ≤ (t - sn.view.origin) * 256)
  | none => true

/-- One column passed: drawn where it is a data column. -/
def passColumn (glyphs : Vector (BitVec 60) 64) (d : Draw) : Draw :=
  { (if isDataColumn d.snapshot d.nextColumn then drawColumn glyphs d.nextColumn d else d) with
    nextColumn := d.nextColumn + 1 }

variable {glyphs : Vector (BitVec 60) 64} {upTo : Option Int} {d : Draw}

theorem drawColumns_succ (fuel : Nat) : drawColumns glyphs upTo (fuel + 1) d =
    if d.nextColumn < d.snapshot.view.width ∧ columnRead d.snapshot upTo d.nextColumn = true then
      drawColumns glyphs upTo fuel (passColumn glyphs d)
    else d := by
  cases upTo <;> rfl

theorem dataColumns_self (sn : Snapshot) (c : Nat) : dataColumns sn c c = [] := by
  rw [dataColumns, Nat.sub_self]
  rfl

theorem dataColumns_cons {sn : Snapshot} {c stop : Nat} (below : c < stop) : dataColumns sn c stop =
    if isDataColumn sn c then c :: dataColumns sn (c + 1) stop else dataColumns sn (c + 1) stop := by
  rw [dataColumns, show stop - c = (stop - (c + 1)) + 1 by omega, List.range'_succ, List.filter_cons]
  rfl

theorem drawnTo_self : drawnTo glyphs d d.nextColumn = d := by
  unfold drawnTo
  dsimp only
  rw [dataColumns_self]
  simp [shownColumns]

theorem getLast?_or_getLast?_cons (c : Nat) (shown : List Nat) (last : Option Nat) :
    (c :: shown).getLast?.or last = shown.getLast?.or (some c) := by
  cases shown with
  | nil => rfl
  | cons a shown => simp [List.getLast?_cons]

theorem drawnTo_passColumn {stop : Nat} (below : d.nextColumn < stop) :
    drawnTo glyphs (passColumn glyphs d) stop = drawnTo glyphs d stop := by
  unfold drawnTo passColumn
  dsimp only
  rw [dataColumns_cons below]
  split
  next data =>
    unfold drawColumn shownColumns
    dsimp only
    rw [List.filter_cons]
    split
    next shows =>
      rw [getLast?_or_getLast?_cons]
      cases d.firstColumn <;> simp
    next blank => simp
  next hidden => rfl

/-- The columns a read lets draw: those whose records are all read, in order, as long as the fuel lasts. -/
theorem drawColumns_eq_drawnTo (fuel : Nat) (d : Draw) : ∃ stop, d.nextColumn ≤ stop ∧
    drawColumns glyphs upTo fuel d = drawnTo glyphs d stop ∧
    (∀ c, d.nextColumn ≤ c → c < stop → c < d.snapshot.view.width ∧ columnRead d.snapshot upTo c = true) ∧
    (d.snapshot.view.width ≤ d.nextColumn + fuel →
      ¬(stop < d.snapshot.view.width ∧ columnRead d.snapshot upTo stop = true)) := by
  induction fuel generalizing d with
  | zero => exact ⟨d.nextColumn, Nat.le_refl _, drawnTo_self.symm, fun c low below => by omega, fun _ => by omega⟩
  | succ fuel ih =>
    rw [drawColumns_succ]
    split
    next goes =>
      obtain ⟨stop, after, drawn, passed, ends⟩ := ih (passColumn glyphs d)
      have same : (passColumn glyphs d).snapshot = d.snapshot := by
        unfold passColumn
        split <;> rfl
      have next_column : (passColumn glyphs d).nextColumn = d.nextColumn + 1 := rfl
      rw [next_column] at after passed ends
      rw [same] at passed ends
      refine ⟨stop, by omega, drawn.trans (drawnTo_passColumn after), fun c low below => ?_,
        fun enough => ends (by omega)⟩
      rcases Nat.eq_or_lt_of_le low with here | later
      · exact here ▸ goes
      · exact passed c later below
    next stays => exact ⟨d.nextColumn, Nat.le_refl _, drawnTo_self.symm, fun c low below => by omega, fun _ => stays⟩

/-- After the last record every column is drawn. -/
theorem drawColumns_none : ∃ stop, drawColumns glyphs none d.snapshot.view.width d = drawnTo glyphs d stop ∧
    stop = max d.nextColumn d.snapshot.view.width := by
  obtain ⟨stop, after, drawn, passed, ends⟩ :=
    drawColumns_eq_drawnTo (glyphs := glyphs) (upTo := none) d.snapshot.view.width d
  refine ⟨stop, drawn, ?_⟩
  have enough : ¬stop < d.snapshot.view.width := fun below => ends (by omega) ⟨below, rfl⟩
  rcases Nat.eq_or_lt_of_le after with here | later
  · omega
  · have last := (passed (stop - 1) (by omega) (by omega)).1
    omega

/-- Before that, those whose records are read. -/
theorem drawColumns_some (t : Int) : ∃ stop,
    drawColumns glyphs (some t) d.snapshot.view.width d = drawnTo glyphs d stop ∧
    ∀ c < d.snapshot.view.width, d.nextColumn ≤ c → (c < stop ↔
      ((c + 1) * d.snapshot.view.zoom : Nat) ≤ (t - d.snapshot.view.origin) * 256) := by
  obtain ⟨stop, after, drawn, passed, ends⟩ :=
    drawColumns_eq_drawnTo (glyphs := glyphs) (upTo := some t) d.snapshot.view.width d
  refine ⟨stop, drawn, fun c inside low => ⟨fun below => of_decide_eq_true (passed c low below).2, fun read => ?_⟩⟩
  by_contra above
  have earlier : (stop + 1) * d.snapshot.view.zoom ≤ (c + 1) * d.snapshot.view.zoom := Nat.mul_le_mul_right _ (by omega)
  exact ends (by omega) ⟨by omega, decide_eq_true (by omega)⟩

end Sys2Proof.Machine
end

section
/-! SUPPORT. The render's record reads (R141, R143): O38. -/

namespace Sys2Proof.Machine

section

variable {s : State} {d : Draw} {use : Record → Draw} {position left capacity : Nat} {time : Time}

/-- A drawing whose read came too late. -/
def lateDraw (d : Draw) : Draw := overrunDraw { d with reads := countUp d.reads }

theorem renderReads_late (late : overwritten (ringCapacity s.plan[drawSegment d]) d.snapshot.newest d.ringWrites
    position = true) :
    renderReads d position use s = .next { s with re := { s.re with job := .waitFlip, draw := some (lateDraw d) } } := by
  unfold renderReads
  dsimp only
  rw [if_pos late]
  rfl

theorem renderReads_timely (timely : overwritten (ringCapacity s.plan[drawSegment d]) d.snapshot.newest d.ringWrites
    position ≠ true) (room : inDram s (recordAddress s.plan[drawSegment d] position) 8 = true) :
    renderReads d position use s = .next (continueDraw (use (readRecord s (drawSegment d) position)) s) := by
  unfold renderReads
  dsimp only
  rw [if_neg timely, if_pos room]

theorem execRenderRecordRead_locate (grant : nextGrant s = some .renderRecord) (draw : s.re.draw = some d)
    (phase : d.phase = .locate position left time) : execRenderRecordRead s =
      renderReads d position
        (fun r => locateRead (ringCapacity s.plan[drawSegment d]) position left time r d) s := by
  unfold execRenderRecordRead
  rw [if_pos (granted_iff.2 grant)]
  simp only [draw, phase]

theorem execRenderRecordRead_forward (grant : nextGrant s = some .renderRecord) (draw : s.re.draw = some d)
    (phase : d.phase = .forward position left time) : execRenderRecordRead s =
      renderReads d position
        (fun r => forwardRead s.su.glyphs (ringCapacity s.plan[drawSegment d]) position left time r d) s := by
  unfold execRenderRecordRead
  rw [if_pos (granted_iff.2 grant)]
  simp only [draw, phase]

/-! ### Where the reading goes on -/

theorem spanPhase_symbols (annotations : (∃ p ∈ d.placed, ∃ l, p.row.kind = .lane l) ∧ d.omitted = false ∧
    d.snapshot.symbolCount ≠ 0) : spanPhase d = .symbols d.snapshot.symbolFirst d.snapshot.symbolCount := by
  obtain ⟨placed, kept, some_symbols⟩ := annotations
  unfold spanPhase
  rw [lanePlaced_iff.2 placed, kept]
  simp [some_symbols]

theorem spanPhase_finished (no_annotations : ¬((∃ p ∈ d.placed, ∃ l, p.row.kind = .lane l) ∧ d.omitted = false ∧
    d.snapshot.symbolCount ≠ 0)) : spanPhase d = .finished := by
  unfold spanPhase
  refine if_neg fun annotations => no_annotations ?_
  simp only [Bool.and_eq_true, Bool.not_eq_true', bne_iff_ne, lanePlaced_iff] at annotations
  obtain ⟨⟨placed, kept⟩, some_symbols⟩ := annotations
  exact ⟨placed, kept, some_symbols⟩

/-- A drawing that has read one more record in the forward pass, before the columns it lets draw. -/
def withRecord (time : Time) (r : Record) (d : Draw) : Draw :=
  { d with reads := countUp d.reads, used := d.used ++ [{ start := time, record := r }] }

/-- One record of the forward pass: the columns whose records are all read, and where the reading goes on. -/
theorem forwardRead_spec (glyphs : Vector (BitVec 60) 64) (r : Record) : ∃ stop phase,
    forwardRead glyphs capacity position left time r d = { drawnTo glyphs (withRecord time r d) stop with phase := phase } ∧
    (windowEnd d.snapshot ≤ relTime d.snapshot time + r.duration ∨ left ≤ 1 →
      stop = max d.nextColumn d.snapshot.view.width ∧ phase = spanPhase d) ∧
    (relTime d.snapshot time + r.duration < windowEnd d.snapshot → 2 ≤ left →
      (∀ c < d.snapshot.view.width, d.nextColumn ≤ c → (c < stop ↔ ((c + 1) * d.snapshot.view.zoom : Nat) ≤
        (relTime d.snapshot time + r.duration - d.snapshot.view.origin) * 256)) ∧
      phase = .forward ((position + 1) % capacity) (left - 1) (time + BitVec.ofNat 48 r.duration)) := by
  unfold forwardRead
  dsimp only
  by_cases last : windowEnd d.snapshot ≤ relTime d.snapshot time + r.duration ∨ left ≤ 1
  · obtain ⟨stop, drawn, whole⟩ := drawColumns_none (glyphs := glyphs) (d := withRecord time r d)
    refine ⟨stop, spanPhase d, (if_pos last).trans ?_, fun _ => ⟨whole, rfl⟩, fun more two => absurd last (by omega)⟩
    exact congrArg (fun d2 : Draw => { d2 with phase := spanPhase d2 }) drawn
  · obtain ⟨stop, drawn, read⟩ := drawColumns_some (glyphs := glyphs) (d := withRecord time r d)
      (recordEnd d.snapshot { start := time, record := r })
    refine ⟨stop, .forward ((position + 1) % capacity) (left - 1) (time + BitVec.ofNat 48 r.duration),
      (if_neg last).trans ?_, fun ended => absurd ended last, fun _ _ => ⟨read, rfl⟩⟩
    exact congrArg (fun d2 : Draw => { d2 with
      phase := .forward ((position + 1) % capacity) (left - 1) (time + BitVec.ofNat 48 r.duration) }) drawn

end

/-- Settles O38: the late read, the locate walk and the forward pass, and what they draw. -/
theorem recordReadLocatesThenGoesForward : Obligations.RecordReadLocatesThenGoesForward := by
  refine ⟨?_, ?_, fun sn c => isDataColumn_iff, fun sn t d => timeColumn_spec,
    fun sn c r s e time reference start stop => relTimes_spec reference start stop time c, ?_⟩
  · rintro s d n capacity position left time r late grant draw rfl rfl inside room rfl hlate phase
    have fits : inDram s (recordAddress s.plan[drawSegment d] position) 8 = true := inDram_iff.2 room
    have late_iff : overwritten (ringCapacity s.plan[drawSegment d]) d.snapshot.newest d.ringWrites position = true ↔
      late := (overwritten_iff inside).trans hlate.symm
    by_cases too_late : late
    · have step : execRenderRecordRead s =
          .next { s with re := { s.re with job := .waitFlip, draw := some (lateDraw d) } } := by
        rcases phase with locate | forward
        · exact (execRenderRecordRead_locate grant draw locate).trans (renderReads_late (late_iff.2 too_late))
        · exact (execRenderRecordRead_forward grant draw forward).trans (renderReads_late (late_iff.2 too_late))
      exact ⟨_, lateDraw d, step, rfl, rfl, rfl, fun _ => ⟨rfl, rfl, rfl, rfl, rfl, rfl⟩,
        fun timely => absurd too_late timely, row_renderRecordRead step⟩
    · have timely := fun written => too_late (late_iff.1 written)
      rcases phase with locate | forward
      · have step := (execRenderRecordRead_locate grant draw locate).trans (renderReads_timely timely fits)
        refine ⟨_, _, step, rfl, rfl, rfl, fun late => absurd late too_late, fun _ => ⟨rfl, fun _ => ⟨rfl, rfl, rfl⟩,
          fun forward => ?_⟩, row_renderRecordRead step⟩
        rw [locate] at forward
        cases forward
      · have step := (execRenderRecordRead_forward grant draw forward).trans (renderReads_timely timely fits)
        obtain ⟨stop, next, read, last, more⟩ := forwardRead_spec (d := d) (position := position) (left := left)
          (time := time) (capacity := ringCapacity s.plan[drawSegment d]) s.su.glyphs
          (readRecord s (drawSegment d) position)
        rw [read] at step
        refine ⟨_, _, step, rfl, rfl, rfl, fun late => absurd late too_late, fun _ => ⟨rfl, fun locate => ?_,
          fun _ => ⟨rfl, ?_, fun ended => ?_, more⟩⟩, row_renderRecordRead step⟩
        · rw [forward] at locate
          cases locate
        · rintro columns shown rfl rfl
          exact ⟨rfl, rfl, rfl⟩
        · obtain ⟨whole, onward⟩ := last ended
          refine ⟨whole, onward.trans ?_⟩
          by_cases annotations : (∃ p ∈ d.placed, ∃ l, p.row.kind = .lane l) ∧ d.omitted = false ∧
              d.snapshot.symbolCount ≠ 0
          · exact (spanPhase_symbols annotations).trans (if_pos annotations).symm
          · exact (spanPhase_finished annotations).trans (if_neg annotations).symm
  · intro sn used c x p value r starts changes gap shows hx record hstarts hchanges hgap
    exact ⟨reduceColumn_spec record hstarts hchanges hgap, rowTrace_spec shows hx record hstarts hchanges hgap⟩
  · intro glyphs sn used c digits p m stable ends kind data hstable hdigits hends
    refine ⟨rfl, fun x y k => (paints_rowText kind hstable hdigits hends).trans (and_congr_right fun _ => ?_)⟩
    constructor
    · rintro ⟨_, ends_here, first, len, number, rfl, ⟨run, edge⟩, rest⟩
      exact ⟨first, len, number, ends_here, run, edge, rest⟩
    · rintro ⟨first, len, number, ends_here, run, edge, rest⟩
      exact ⟨first + len, ends_here, first, len, number, rfl, ⟨run, edge⟩, rest⟩

end Sys2Proof.Machine
end

section
/-! SUPPORT. The symbols of a render: box, text and bounds (R146, R147, R149): O39. -/

namespace Sys2Proof.Machine

/-! ### The text of a symbol (R147) -/

section

variable {n m : Nat} {y : Symbol} {text : List (Fin 64)}

theorem digitCount_eq (some_digit : 1 ≤ m) (fits : n < 16 ^ m) (fewest : m = 1 ∨ 16 ^ (m - 1) ≤ n) (small : m ≤ 8) :
    digitCount n = m := by
  have counts : ∀ k ≤ 8, ((List.range 8).filter fun i => decide (i < k)).length = k := by decide
  unfold digitCount
  rcases Nat.eq_zero_or_pos n with rfl | positive
  · have one : m = 1 := fewest.resolve_right (by have := Nat.pow_pos (n := m - 1) (show 0 < 16 by decide); omega)
    have none_below : ((List.range 8).filter fun i => decide (16 ^ i ≤ 0)) = [] := by simp
    rw [none_below, one]
    rfl
  · have digit (i : Nat) : 16 ^ i ≤ n ↔ i < m := by
      constructor
      · intro reached
        exact (Nat.pow_lt_pow_iff_right (by decide)).1 (reached.trans_lt fits)
      · intro below
        rcases fewest with rfl | reached
        · obtain rfl : i = 0 := by omega
          exact positive
        · exact (Nat.pow_le_pow_right (by decide) (by omega)).trans reached
    simp only [digit, counts m small]
    omega

/-- The place of a kind among the kinds' glyphs, which begin at glyph 16. -/
def kindIndex : SymbolKind → Nat
  | .start => 0
  | .restart => 1
  | .stop => 2
  | .address => 3
  | .data => 4
  | .dataB => 5
  | .brk => 6
  | .field => 7

theorem kindIndex_of_getElem? {i : Nat} {kind : SymbolKind}
    (at_i : [SymbolKind.start, .restart, .stop, .address, .data, .dataB, .brk, .field][i]? = some kind) :
    kindIndex kind = i := by
  obtain ⟨inside, rfl⟩ := List.getElem?_eq_some_iff.1 at_i
  change i < 8 at inside
  interval_cases i <;> rfl

theorem symbolGlyphs_eq (y : Symbol) : symbolGlyphs y = (16 + kindIndex y.kind) ::
    if y.kind ∈ [SymbolKind.address, .data, .dataB, .field] then hexDigits (digitCount y.value.toNat) y.value.toNat
    else [] := by
  unfold symbolGlyphs
  cases y.kind <;> rfl

theorem symbolGlyphs_of_text (shows : SymbolText y text) : symbolGlyphs y = text.map (·.val) := by
  obtain ⟨glyph, digits, rfl, at_kind, from_16, plain, valued⟩ := shows
  have kind := kindIndex_of_getElem? at_kind
  have first : 16 + kindIndex y.kind = glyph.val := by omega
  rw [symbolGlyphs_eq, first, List.map_cons]
  refine congrArg (glyph.val :: ·) ?_
  split
  next has_value =>
    obtain ⟨m, some_digit, fits, fewest, hex⟩ := valued has_value
    have small : m ≤ 8 := by
      by_contra large
      have reached : 16 ^ 8 ≤ 16 ^ (m - 1) := Nat.pow_le_pow_right (by decide) (by omega)
      have := y.value.isLt
      omega
    rw [digitCount_eq some_digit fits fewest small, showsHex_iff.1 hex]
  next no_value =>
    have without : y.kind ∈ [SymbolKind.start, .restart, .stop, .brk] := by
      cases kind : y.kind <;> simp [kind] at no_value ⊢
    rw [plain without]
    rfl

end

/-! ### The box of a symbol (R146) -/

section

variable {glyphs : Vector (BitVec 60) 64} {left first last : Nat} {y : Symbol} {p : PlacedRow} {x x' l n : Nat}
  {colour k : Byte} {text : List (Fin 64)}

theorem undamaged_iff (tags : Byte) :
    tags &&& damageTags = 0 ↔ ∀ i ∈ [0, 1, 2, 3, 4, 5], tags.getLsbD i = false := by
  revert tags
  decide

/-- The colour of a symbol's box. -/
def boxColour (y : Symbol) (p : PlacedRow) : Byte :=
  if y.tags &&& damageTags = 0 then p.row.line else p.row.activity

theorem boxColour_eq (damaged : (∃ i ∈ [0, 1, 2, 3, 4, 5], y.tags.getLsbD i = true) → colour = p.row.activity)
    (whole : (∀ i ∈ [0, 1, 2, 3, 4, 5], y.tags.getLsbD i = false) → colour = p.row.line) :
    boxColour y p = colour := by
  unfold boxColour
  split
  next none_set => exact (whole ((undamaged_iff _).1 none_set)).symm
  next some_set =>
    refine (damaged ?_).symm
    by_contra none_set
    refine some_set ((undamaged_iff _).2 fun i member => ?_)
    by_contra set
    exact none_set ⟨i, member, by simpa using set⟩

/-- The outline of a wide box: the high line, the low line and the sides. -/
def boxOutline (left first last : Nat) (colour : Byte) (p : PlacedRow) : List PixelRun :=
  [{ x := left + first, y := highLine p, pixels := List.replicate (last - first + 1) colour },
    { x := left + first, y := lowLine p, pixels := List.replicate (last - first + 1) colour }] ++
  (spanLines p).flatMap fun l => [onePixel (left + first) l colour, onePixel (left + last) l colour]

theorem boxPixels_tick : boxPixels glyphs left y first first p =
    (spanLines p).map (fun l => onePixel (left + first) l (boxColour y p)) ++ [] :=
  (if_pos rfl).trans (List.append_nil _).symm

theorem boxPixels_wide (wide : first ≠ last) : boxPixels glyphs left y first last p =
    boxOutline left first last (boxColour y p) p ++ boxText glyphs left p y first (last - first + 1) := if_neg wide

theorem paints_tick : paints ((spanLines p).map fun l => onePixel x l colour) x' l k ↔
    k = colour ∧ x' = x ∧ p.top + 1 ≤ l ∧ l ≤ p.top + p.row.height - 2 := by
  simp only [paints_map, paints_onePixel, mem_spanLines]
  constructor
  · rintro ⟨_, ⟨low, high⟩, rfl, rfl, rfl⟩
    exact ⟨rfl, rfl, low, high⟩
  · rintro ⟨rfl, rfl, low, high⟩
    exact ⟨l, ⟨low, high⟩, rfl, rfl, rfl⟩

theorem paints_sides : paints ((spanLines p).flatMap fun l => [onePixel (left + first) l colour,
      onePixel (left + last) l colour]) x l k ↔
    k = colour ∧ (x = left + first ∨ x = left + last) ∧ p.top + 1 ≤ l ∧ l ≤ p.top + p.row.height - 2 := by
  simp only [paints_flatMap, paints_cons (b := [_]), paints_onePixel, mem_spanLines]
  constructor
  · rintro ⟨_, ⟨low, high⟩, ⟨rfl, side, rfl⟩ | ⟨rfl, side, rfl⟩⟩
    · exact ⟨rfl, .inl side, low, high⟩
    · exact ⟨rfl, .inr side, low, high⟩
  · rintro ⟨rfl, side | side, low, high⟩
    · exact ⟨l, ⟨low, high⟩, .inl ⟨rfl, side, rfl⟩⟩
    · exact ⟨l, ⟨low, high⟩, .inr ⟨rfl, side, rfl⟩⟩

theorem paints_boxOutline (order : first < last) (high : 8 ≤ p.row.height) :
    paints (boxOutline left first last colour p) x l k ↔ k = colour ∧ p.top + 1 ≤ l ∧
      l + 2 ≤ p.top + p.row.height ∧ left + first ≤ x ∧ x ≤ left + last ∧
      (x = left + first ∨ x = left + last ∨ l = p.top + 1 ∨ l + 2 = p.top + p.row.height) := by
  have high_line : highLine p = p.top + 1 := rfl
  have low_line : lowLine p = p.top + p.row.height - 2 := rfl
  unfold boxOutline
  rw [paints_append, paints_cons (b := [_]), paints_run, paints_run, paints_sides, high_line, low_line]
  by_cases same : k = colour
  · simp only [same, true_and]
    omega
  · simp only [same, false_and, or_self]

theorem paints_boxText (shows : SymbolText y text) : paints (boxText glyphs left p y first n) x l k ↔
    k = p.row.text ∧ 12 ≤ p.row.height ∧ 6 * text.length + 2 ≤ n ∧
      glyphsCover glyphs text (left + first + 1 + (n - 2 - 6 * text.length) / 2) (p.top + (p.row.height - 10) / 2) x l := by
  unfold boxText
  dsimp only
  rw [symbolGlyphs_of_text shows, List.length_map]
  split
  next fits =>
    rw [paints_textPixels]
    exact and_congr_right fun _ => ⟨fun covers => ⟨fits.1, fits.2, covers⟩, fun all => all.2.2⟩
  next fails =>
    exact ⟨fun painted => (paints_nil painted).elim, fun all => absurd ⟨all.2.1, all.2.2.1⟩ fails⟩

/-- A symbol's box is its outline, or its tick, and the label over it: the second statement of O39. -/
theorem boxPixels_spec (order : first ≤ last) (high : 8 ≤ p.row.height) (shows : SymbolText y text)
    (hcolour : boxColour y p = colour) :
    ∃ outline label, boxPixels glyphs left y first last p = outline ++ label ∧
      (∀ (x l : Nat) (k : Byte), paints outline x l k ↔ k = colour ∧ p.top + 1 ≤ l ∧
        l + 2 ≤ p.top + p.row.height ∧ left + first ≤ x ∧ x ≤ left + last ∧
        (x = left + first ∨ x = left + last ∨ l = p.top + 1 ∨ l + 2 = p.top + p.row.height)) ∧
      ∀ (x l : Nat) (k : Byte), paints label x l k ↔ k = p.row.text ∧ first < last ∧ 12 ≤ p.row.height ∧
        6 * text.length + 2 ≤ last - first + 1 ∧
        glyphsCover glyphs text (left + first + 1 + (last - first + 1 - 2 - 6 * text.length) / 2)
          (p.top + (p.row.height - 10) / 2) x l := by
  rcases Nat.eq_or_lt_of_le order with rfl | wide
  · refine ⟨_, [], boxPixels_tick, fun x l k => ?_, fun x l k =>
      ⟨fun painted => (paints_nil painted).elim, fun all => absurd all.2.1 (Nat.lt_irrefl _)⟩⟩
    rw [paints_tick, hcolour]
    refine and_congr_right fun _ => ?_
    omega
  · refine ⟨_, _, boxPixels_wide (by omega), fun x l k => hcolour ▸ paints_boxOutline wide high, fun x l k => ?_⟩
    rw [paints_boxText shows]
    simp only [wide, true_and]

theorem boxPixels_ne_nil (high : 3 ≤ p.row.height) : boxPixels glyphs left y first last p ≠ [] := by
  unfold boxPixels
  dsimp only
  split
  · have lines : spanLines p ≠ [] := by
      refine List.ne_nil_of_mem (mem_spanLines.2 ⟨Nat.le_refl _, ?_⟩)
      omega
    simpa using lines
  · simp

end

end Sys2Proof.Machine
end

section
/-! SUPPORT. The render's symbol reads (R139, R146, R149): O39. -/

namespace Sys2Proof.Machine

section

variable {s : State} {d : Draw} {y : Symbol} {position left capacity : Nat} {sn : Snapshot}

/-- The first column of a box that begins in some column of the view, or left of it. -/
def boxFirst : Column → Nat
  | .at k => k
  | _ => 0

/-- The last column of a box that ends in some column of the view, or right of it. -/
def boxLast (width : Nat) : Column → Nat
  | .at k => k
  | _ => width - 1

/-- A symbol is not drawn: it ends before the segment or left of the view, or starts right of it (R146). -/
def Outside (sn : Snapshot) (y : Symbol) : Prop :=
  timeDiff (symbolEnd y) (sn.startTime.getD 0) < 0 ∨ timeColumn sn (relTime sn (symbolEnd y)) = .left ∨
    timeColumn sn (relTime sn y.start) = .right

theorem boxColumns_outside (outside : Outside sn y) : boxColumns sn y = none := by
  unfold boxColumns
  split
  next early => rfl
  next within =>
    rcases outside with early | ends_left | starts_right
    · exact absurd ((before_iff _ _).2 early) within
    · rw [ends_left]
      cases timeColumn sn (relTime sn y.start) <;> rfl
    · rw [starts_right]

theorem boxColumns_inside (inside : ¬Outside sn y) : boxColumns sn y =
    some (boxFirst (timeColumn sn (relTime sn y.start)),
      boxLast sn.view.width (timeColumn sn (relTime sn (symbolEnd y)))) := by
  unfold Outside at inside
  push Not at inside
  obtain ⟨within, not_left, not_right⟩ := inside
  unfold boxColumns
  rw [if_neg fun early => absurd ((before_iff _ _).1 early) (by omega)]
  cases start : timeColumn sn (relTime sn y.start) <;>
    cases stop : timeColumn sn (relTime sn (symbolEnd y)) <;> simp_all [boxFirst, boxLast]

/-! ### The bounds of a box (R149) -/

theorem merge_min (first : Option Nat) (a : Nat) : Option.merge min first (some a) = some (min a (first.getD a)) := by
  cases first with
  | none => simp
  | some b => simp [Nat.min_comm]

theorem merge_max (last : Option Nat) (b : Nat) : Option.merge max last (some b) = some (max b (last.getD b)) := by
  cases last with
  | none => simp
  | some a => simp [Nat.max_comm]

/-- The runs of a symbol in some rows. -/
def boxRuns (glyphs : Vector (BitVec 60) 64) (sn : Snapshot) (y : Symbol) (first last : Nat) (rows : List PlacedRow) :
    List PixelRun := rows.flatMap (boxPixels glyphs sn.view.left y first last)

variable {glyphs : Vector (BitVec 60) 64} {first last : Nat} {rows : List PlacedRow}

theorem boxedColumns_nothing (nothing : rows = [] ∨ dataColumns sn first (last + 1) = []) :
    boxedColumns sn (boxRuns glyphs sn y first last rows) first last = [] := by
  unfold boxedColumns
  rcases nothing with rfl | no_columns
  · rfl
  · exact ite_eq_left_iff.2 fun _ => no_columns

theorem boxedColumns_drawn (some_row : rows ≠ []) (high : ∀ p ∈ rows, 3 ≤ p.row.height) :
    boxedColumns sn (boxRuns glyphs sn y first last rows) first last = dataColumns sn first (last + 1) := by
  have runs : boxRuns glyphs sn y first last rows ≠ [] := by
    obtain ⟨p, member⟩ := List.exists_mem_of_ne_nil rows some_row
    intro none_drawn
    exact boxPixels_ne_nil (high p member) (List.flatMap_eq_nil_iff.1 none_drawn p member)
  unfold boxedColumns
  rw [List.isEmpty_eq_false_iff.2 runs]
  rfl

/-! ### One symbol read -/

/-- A drawing with a symbol's box drawn in some rows. -/
def withBox (glyphs : Vector (BitVec 60) 64) (y : Symbol) (first last : Nat) (rows : List PlacedRow) (d : Draw) : Draw :=
  let columns := boxedColumns d.snapshot (boxRuns glyphs d.snapshot y first last rows) first last
  { d with
    writes := d.writes ++ boxRuns glyphs d.snapshot y first last rows
    firstColumn := Option.merge min d.firstColumn columns.head?
    lastColumn := Option.merge max d.lastColumn columns.getLast?
    drawn := saturate32 (d.drawn + rows.length) }

theorem drawSymbol_outside (outside : Outside d.snapshot y) : drawSymbol glyphs y d = d := by
  unfold drawSymbol
  rw [boxColumns_outside outside]

theorem drawSymbol_inside (inside : ¬Outside d.snapshot y) : drawSymbol glyphs y d =
    withBox glyphs y (boxFirst (timeColumn d.snapshot (relTime d.snapshot y.start)))
      (boxLast d.snapshot.view.width (timeColumn d.snapshot (relTime d.snapshot (symbolEnd y))))
      (d.placed.filter fun p => p.row.kind = .lane y.lane) d := by
  unfold drawSymbol
  rw [boxColumns_inside inside]
  rfl

/-- The drawing once a symbol is read: the symbol is drawn, and the reading goes on or ends. -/
theorem symbolRead_eq {x : Draw} (drawn : drawSymbol glyphs y d = x) : symbolRead glyphs capacity position left y d =
    { x with phase := if left ≤ 1 ∨ rightEdge d.snapshot ≤ relTime d.snapshot (symbolEnd y) - 16777215 then .finished
        else .symbols ((position + 1) % capacity) (left - 1) } := by
  subst drawn
  rfl

theorem withBox_bounds_kept (nothing : rows = [] ∨ dataColumns d.snapshot first (last + 1) = []) :
    (withBox glyphs y first last rows d).firstColumn = d.firstColumn ∧
      (withBox glyphs y first last rows d).lastColumn = d.lastColumn := by
  unfold withBox
  dsimp only
  rw [boxedColumns_nothing nothing]
  simp

theorem withBox_bounds (some_row : rows ≠ []) (high : ∀ p ∈ rows, 3 ≤ p.row.height) {a b : Nat}
    (ha : (dataColumns d.snapshot first (last + 1)).head? = some a)
    (hb : (dataColumns d.snapshot first (last + 1)).getLast? = some b) :
    (withBox glyphs y first last rows d).firstColumn = some (min a (d.firstColumn.getD a)) ∧
      (withBox glyphs y first last rows d).lastColumn = some (max b (d.lastColumn.getD b)) := by
  unfold withBox
  dsimp only
  rw [boxedColumns_drawn some_row high, ha, hb]
  exact ⟨merge_min _ _, merge_max _ _⟩

/-- A span position is overwritten when it is one of those written after the newest symbol (R146). -/
theorem overwritten_newestSymbol (inside : position < capacity) (some_symbol : 1 ≤ sn.symbolCount) (written : Nat) :
    overwritten capacity (newestSymbol capacity sn) written position = true ↔
      ∃ i < written, position = (sn.symbolFirst + sn.symbolCount + i) % capacity := by
  rw [overwritten_iff inside]
  refine exists_congr fun i => and_congr_right fun _ => ?_
  have next : newestSymbol capacity sn + 1 + i ≡ sn.symbolFirst + sn.symbolCount + i [MOD capacity] := by
    refine Nat.ModEq.add_right i ?_
    have after := (Nat.mod_modEq (sn.symbolFirst + sn.symbolCount - 1) capacity).add_right 1
    rwa [Nat.sub_add_cancel (by omega)] at after
  rw [show (newestSymbol capacity sn + 1 + i) % capacity = _ from next]

theorem execRenderSymbolRead_late (grant : nextGrant s = some .renderSymbol) (draw : s.re.draw = some d)
    (phase : d.phase = .symbols position left)
    (late : overwritten (spanCapacity s.plan[drawSegment d])
      (newestSymbol (spanCapacity s.plan[drawSegment d]) d.snapshot) d.spanWrites position = true) :
    execRenderSymbolRead s = .next (overrun d s) := by
  unfold execRenderSymbolRead
  rw [if_pos (granted_iff.2 grant)]
  simp only [draw, phase]
  exact if_pos late

theorem execRenderSymbolRead_timely (grant : nextGrant s = some .renderSymbol) (draw : s.re.draw = some d)
    (phase : d.phase = .symbols position left)
    (timely : overwritten (spanCapacity s.plan[drawSegment d])
      (newestSymbol (spanCapacity s.plan[drawSegment d]) d.snapshot) d.spanWrites position ≠ true)
    (room : inDram s (symbolAddress s.plan[drawSegment d] position) 16 = true) :
    execRenderSymbolRead s = .next (continueDraw (symbolRead s.su.glyphs (spanCapacity s.plan[drawSegment d]) position
      left (readSymbol s (drawSegment d) position) d) s) := by
  unfold execRenderSymbolRead
  rw [if_pos (granted_iff.2 grant)]
  simp only [draw, phase]
  exact (if_neg timely).trans (if_pos room)

end

/-- Settles O39: the late read, the symbol's rows and bounds, and the pixels of its box and text. -/
theorem symbolReadDrawsTheSymbol : Obligations.SymbolReadDrawsTheSymbol := by
  refine ⟨?_, fun glyphs left first last y p colour text order high shows damaged whole =>
    boxPixels_spec order high shows (boxColour_eq damaged whole)⟩
  rintro s d n capacity position left y rows stop late outside grant draw rfl rfl inside phase some_symbol room hy rfl
    hlate rfl houtside
  have fits : inDram s (symbolAddress s.plan[drawSegment d] position) 16 = true := inDram_iff.2 room
  have read : readSymbol s (drawSegment d) position = y := hy.symm
  have late_iff := (overwritten_newestSymbol inside some_symbol d.spanWrites).trans hlate.symm
  by_cases too_late : late
  · have step := execRenderSymbolRead_late grant draw phase (late_iff.2 too_late)
    exact ⟨_, overrunDraw d, step, rfl, rfl, rfl, rfl, fun _ => ⟨rfl, rfl, rfl, rfl, rfl⟩,
      fun timely => absurd too_late timely, row_renderSymbolRead step⟩
  · have step := execRenderSymbolRead_timely grant draw phase (fun written => too_late (late_iff.1 written)) fits
    by_cases is_outside : outside
    · rw [read, symbolRead_eq (drawSymbol_outside (houtside.1 is_outside))] at step
      exact ⟨_, _, step, rfl, rfl, rfl, rfl, fun late => absurd late too_late, fun _ => ⟨rfl,
        fun _ => ⟨rfl, rfl, rfl, rfl⟩, fun within => absurd is_outside within, rfl⟩, row_renderSymbolRead step⟩
    · rw [read, symbolRead_eq (drawSymbol_inside fun is_out => is_outside (houtside.2 is_out))] at step
      refine ⟨_, _, step, rfl, rfl, rfl, rfl, fun late => absurd late too_late, fun _ => ⟨rfl,
        fun is_out => absurd is_out is_outside, fun _ => ⟨rfl, ?_⟩, rfl⟩, row_renderSymbolRead step⟩
      rintro first last columns rfl rfl rfl
      exact ⟨rfl, withBox_bounds_kept, fun some_row high a b ha hb => withBox_bounds some_row high ha hb⟩

end Sys2Proof.Machine
end
